-- ==== Sys2Proof/Word.lean ====
section
/-! DEFINITION. The word type: a byte of the feed port, the peer line, the cue port and the configuration memory
(spec/12_formats_and_pins.md). Every other quantity of the part is a number and is modelled as `Nat` or `Int`
(00_scope.md section 4.4: all arithmetic is on integers). -/

namespace Sys2Proof

/-- A byte, most significant bit bit 7 (spec/12_formats_and_pins.md). -/
abbrev Byte := BitVec 8

end Sys2Proof
end

