-- ==== Sys2Proof/Syntax.lean ====
section
/-! DEFINITION. The commands of the part: one constructor of `Instr` per row of spec/opcode_table.json, in the table's
order. The table gives no operands; the operands here are what the rule of the row says the event carries or names. -/

namespace Sys2Proof

/-- The three kinds of warning (00_scope.md section 3.2; codes of section 12). -/
inductive Kind where
  | battery
  | mute
  | signal
  deriving DecidableEq, Repr

/-- The four lamps (R167). -/
inductive Lamp where
  | battery
  | mute
  | signal
  | station
  deriving DecidableEq, Repr

/-- What asserts a start (R183): power-on, or RESET taken as asserted (R190). -/
inductive StartCause where
  | powerOn
  | reset
  deriving DecidableEq, Repr

/-- A command: one step of the part, "whole and indivisible" (95_what_each_step_holds.md). -/
inductive Instr where
  /-- START (R183): power-on or the assertion of RESET. -/
  | start (cause : StartCause := .reset)
  /-- LOAD_BEGIN (R183): RESET deasserted, or power-on ended; `straps` is what STRAP 3–0 read. -/
  | loadBegin (straps : BitVec 4)
  /-- AREA_READ_COMPLETE (R184): the memory's answer to an area read: `none` when it did not acknowledge its address or
  the offset, else the bytes read. -/
  | areaReadComplete (answer : Option (List Byte))
  /-- AREA_READ_TIMEOUT (R184): an area read has not completed 50 ms after it began. -/
  | areaReadTimeout
  /-- STROBE_ASSERTED (R1). -/
  | strobeAsserted
  /-- RECORD_COMPLETION (R2): FSTB is deasserted; `bits` are the bits sampled on FDAT, first bit first. -/
  | recordCompletion (bits : List Bool)
  /-- FEED_SILENCE_EXPIRY (R15). -/
  | feedSilenceExpiry
  /-- SIGHTING_TAKEN (R19): the sighting is taken, or the one in processing goes on, through step `through` of 00_scope.md
  section 2.2; 9 is the whole processing. Commands given before the rest meet the processing there (R33; notes/assumptions/4.md). -/
  | sightingTaken (through : Nat := 9)
  /-- LOSS_TIMER_EXPIRY (R24) of the entry of `mic`. -/
  | lossTimerExpiry (mic : Nat)
  /-- FORGET_TIMER_EXPIRY (R27). -/
  | forgetTimerExpiry (mic : Nat)
  /-- LOST_FORGET_EXPIRY (R28). -/
  | lostForgetExpiry (mic : Nat)
  /-- EPOCH_TIMER_EXPIRY (R44). -/
  | epochTimerExpiry (mic : Nat)
  /-- STALE_TIMER_EXPIRY (R42). -/
  | staleTimerExpiry (mic : Nat)
  /-- PERSISTENCE_TIMER_EXPIRY (R62) of the record of `kind`. -/
  | persistenceTimerExpiry (mic : Nat) (kind : Kind)
  /-- REPEAT_TIMER_EXPIRY (R77) of the record of `kind`. -/
  | repeatTimerExpiry (mic : Nat) (kind : Kind)
  /-- ZONE_REPEAT_TIMER_EXPIRY (R100). -/
  | zoneRepeatTimerExpiry
  /-- STATION_REPEAT_TIMER_EXPIRY (R151). -/
  | stationRepeatTimerExpiry
  /-- FLOOR_TIMER_EXPIRY (R84). -/
  | floorTimerExpiry
  /-- ABSENCE_TIMER_EXPIRY (R107) of the roster slot of `station`. -/
  | absenceTimerExpiry (station : Nat)
  /-- CLAIM_EXPIRY (R111) of the claim of `station` in the list of the entry of `mic`. -/
  | claimExpiry (mic : Nat) (station : Nat)
  /-- PENDING_TIMER_EXPIRY (R112). -/
  | pendingTimerExpiry (mic : Nat)
  /-- TAKEOVER_TIMER_EXPIRY (R116). -/
  | takeoverTimerExpiry (mic : Nat)
  /-- CLAIM_ROUND_TIMER_EXPIRY (R121). -/
  | claimRoundTimerExpiry
  /-- CUE_REFRESH_EXPIRY (R162). -/
  | cueRefreshExpiry (mic : Nat)
  /-- CUE_TRANSFER_START (R164); `crdy` is the level of CRDY, which is read only at the start. -/
  | cueTransferStart (crdy : Bool)
  /-- CUE_TRANSFER_COMPLETE (R164). -/
  | cueTransferComplete
  /-- PHASE_TIMER_EXPIRY (R172) of the generator of `lamp`. -/
  | phaseTimerExpiry (lamp : Lamp)
  /-- JOINING_TIMER_EXPIRY (R176). -/
  | joiningTimerExpiry
  /-- INTEGRITY_WINDOW_EXPIRY (R180). -/
  | integrityWindowExpiry
  /-- LINE_IDLE (R127): 24 bit times have passed with the line released. -/
  | lineIdle
  /-- LINE_ACTIVITY (R130): another station's start bit. -/
  | lineActivity
  /-- SLOT_BOUNDARY (R128). -/
  | slotBoundary
  /-- FRAME_SENT (R131): the last bit of the in-flight frame has been read back. -/
  | frameSent
  /-- COLLISION (R132): a bit was read back as 0 where the part drove a 1. -/
  | collision
  /-- FRAME_COMPLETION (R134): a frame of the line is complete; what LRX read in each bit time from its first start bit on
  (`true` is a released line, R124), the bit times that have passed since its last stop bit (R125), and whether its first bytes passed
  while the access state was OFF (R127). -/
  | frameCompletion (bits : List Bool) (gap : Nat) (headMissed : Bool)
  /-- CLAIM_TAKEN (R108): the head of the receive queue, a CLAIM frame, is taken. -/
  | claimTaken
  /-- WARN_TAKEN (R119). -/
  | warnTaken
  /-- FLOOR_TAKEN (R82). -/
  | floorTaken
  /-- ACK_TAKEN (R70). -/
  | ackTaken
  /-- ENTRY_QUERY (R154): the head of the receive queue, a QUERY of the ENTRY form, is taken. -/
  | entryQuery
  /-- STATS_QUERY (R155). -/
  | statsQuery
  /-- RESTART (R187). -/
  | restart
  /-- PEER_REPORT_TAKEN (R138): the head of the receive queue, a STATION, ENTRY or STATS frame, is taken. -/
  | peerReportTaken
  deriving DecidableEq, Repr

end Sys2Proof
end

