-- ==== Sys2Proof/Decode.lean ====
section
/-! DEFINITION. The decoder of table words. No row of spec/opcode_table.json gives bits: its commands are events, not
encoded instructions, so no word spells one (notes/assumptions/31.md). The decoding of the part's own formats (sighting
records, line frames, configuration areas) is Machine/Operands.lean. -/

namespace Sys2Proof

/-- The command that the word `w` of `nbits` bits spells by the table's bits: none, since no row has bits. -/
def decodeTableWord (_nbits _w : Nat) : Option Instr := none

end Sys2Proof
end

