-- ==== Sys2Proof/Config.lean ====
section
/-! DEFINITION. The shape of a configuration image (section 11.5.1, section 12.3). Its default values and ranges are in
Machine/Params.lean. The spec leaves no result value open, so there is no free value here. -/

namespace Sys2Proof

/-- A knot of the charge curve (R43). -/
structure Knot where
  mV : Nat
  permille : Nat
  deriving DecidableEq, Repr

/-- The on and off times of a blinking pattern, ms (R159). -/
structure Cadence where
  on : Nat
  off : Nat
  deriving DecidableEq, Repr

/-- A configuration image: the 30 parameters in the order of the parameter table, the nine knots of the charge curve and
the times of patterns 1 to 6. Each parameter is in the unit the table gives. -/
structure Params where
  feedTimeout : Nat
  lossTime : Nat
  forgetTime : Nat
  lostForget : Nat
  epochS : Nat
  nominalRate : Nat
  rateMin : Nat
  swapRise : Nat
  settleEpochs : Nat
  critMinutes : Nat
  lowMinutes : Nat
  cutoffMV : Nat
  lowPermille : Nat
  batteryStale : Nat
  qualifyBatteryLow : Nat
  qualifyBatteryCritical : Nat
  releaseBattery : Nat
  qualifyMutedOnFloor : Nat
  qualifyOpenOffFloor : Nat
  releaseMute : Nat
  qualifyWeak : Nat
  qualifyLost : Nat
  releaseSignal : Nat
  repeatInterval : Nat
  floorTimeout : Nat
  weakThreshold : Nat
  zoneThreshold : Nat
  claimInterval : Nat
  roleMargin : Nat
  cueRefresh : Nat
  curve : List Knot
  patterns : List Cadence
  deriving DecidableEq, Repr

end Sys2Proof
end

