-- ==== Sys2Proof/Machine/Params.lean ====
section
/-! DEFINITION. Capacities, the built-in defaults, the parameter ranges and widths, and the times derived from an image
(sections 11.5.1 and 12.3). -/

namespace Sys2Proof.Machine

/-- The table holds at most 96 entries (R17). -/
def tableMax : Nat := 96
/-- The intake queue holds at most 32 sightings (R4). -/
def intakeMax : Nat := 32
/-- The transmit queue holds at most 16 frames (R141). -/
def txMax : Nat := 16
/-- The receive queue holds at most 2 frames (R137). -/
def rxMax : Nat := 2
/-- The cue queue holds at most 8 cues (R163). -/
def cueMax : Nat := 8
/-- The floor set holds at most 8 mic IDs (R81). -/
def floorMax : Nat := 8
/-- A claim list holds at most 3 claims (R109). -/
def claimMax : Nat := 3
/-- A CLAIM frame of this part holds at most 20 pairs (R122). -/
def pairMax : Nat := 20
/-- The highest mic ID (00_scope.md section 4.3). -/
def micMax : Nat := 480
/-- The error history holds up to 16 flags (R9). -/
def historyMax : Nat := 16
/-- Event counters, residency, sighting count and longest gap saturate at 65535 (00_scope.md section 4.5). -/
def satMax : Nat := 65535
/-- A raise count saturates at 255 (R79). -/
def raiseMax : Nat := 255
/-- A frame is dropped at its fourth collision (R132). -/
def collisionMax : Nat := 4
/-- An area read is bad when it has not completed 50 ms after it began (R184). -/
def areaReadMs : Nat := 50
/-- The power-on start lasts 20 ms (R190). -/
def powerOnMs : Nat := 20
/-- The integrity window, 60 s (R180). -/
def windowMs : Nat := 60000
/-- An area of the configuration memory holds 128 bytes (R184). -/
def areaBytes : Nat := 128

/-- Addition that stays at `limit` (00_scope.md section 4.5). -/
def satAdd (limit n k : Nat) : Nat := min limit (n + k)

/-- clamp(x, a, b) of 00_scope.md section 4.4, on natural numbers. -/
def clampNat (x lo hi : Nat) : Nat := if x < lo then lo else if hi < x then hi else x

/-- The default charge curve (section 3.3). -/
def defaultCurve : List Knot :=
  [⟨3300, 0⟩, ⟨3450, 50⟩, ⟨3550, 120⟩, ⟨3650, 250⟩, ⟨3720, 400⟩, ⟨3800, 550⟩, ⟨3900, 700⟩, ⟨4020, 850⟩, ⟨4170, 1000⟩]

/-- The default pattern times (section 10, R159). -/
def defaultPatterns : List Cadence :=
  [⟨500, 1500⟩, ⟨150, 150⟩, ⟨300, 700⟩, ⟨100, 400⟩, ⟨800, 200⟩, ⟨1000, 1000⟩]

/-- The built-in defaults (section 11.5.1). -/
def defaultParams : Params where
  feedTimeout := 1000
  lossTime := 1500
  forgetTime := 30
  lostForget := 120
  epochS := 60
  nominalRate := 40
  rateMin := 4
  swapRise := 200
  settleEpochs := 5
  critMinutes := 8
  lowMinutes := 30
  cutoffMV := 3300
  lowPermille := 150
  batteryStale := 20
  qualifyBatteryLow := 10000
  qualifyBatteryCritical := 3000
  releaseBattery := 30000
  qualifyMutedOnFloor := 4000
  qualifyOpenOffFloor := 2000
  releaseMute := 1000
  qualifyWeak := 3000
  qualifyLost := 500
  releaseSignal := 2000
  repeatInterval := 10
  floorTimeout := 5
  weakThreshold := 90
  zoneThreshold := 6
  claimInterval := 500
  roleMargin := 12
  cueRefresh := 3
  curve := defaultCurve
  patterns := defaultPatterns

/-- How one parameter is stored and checked: its width in bytes (section 12.3) and the limits of its single check (R185). -/
structure ParamSpec where
  width : Nat
  lo : Nat
  hi : Nat
  deriving DecidableEq, Repr

/-- The 30 configured parameters in the order of the parameter table from `feed_timeout` to `cue_refresh` (section 12.3).
`nominal_rate` and `low_minutes` are checked against their outer limits (R185). -/
def paramSpecs : List ParamSpec :=
  [⟨2, 200, 5000⟩, ⟨2, 300, 10000⟩, ⟨2, 5, 600⟩, ⟨2, 30, 900⟩, ⟨2, 30, 300⟩, ⟨2, 1, 400⟩, ⟨1, 1, 64⟩, ⟨2, 50, 500⟩,
   ⟨1, 2, 15⟩, ⟨1, 1, 60⟩, ⟨1, 2, 240⟩, ⟨2, 3000, 3600⟩, ⟨2, 20, 500⟩, ⟨1, 5, 120⟩] ++
  List.replicate 9 ⟨3, 100, 120000⟩ ++
  [⟨1, 2, 60⟩, ⟨1, 2, 30⟩, ⟨1, 30, 200⟩, ⟨1, 4, 32⟩, ⟨2, 200, 2000⟩, ⟨1, 0, 60⟩, ⟨1, 1, 10⟩]

/-- The limits of a pattern time (section 12.3). -/
def patternLo : Nat := 50
def patternHi : Nat := 2000

end Sys2Proof.Machine

namespace Sys2Proof

/-! Times in ms that an image gives. -/

def Params.forgetMs (p : Params) : Nat := p.forgetTime * 1000
def Params.lostForgetMs (p : Params) : Nat := p.lostForget * 1000
def Params.epochMs (p : Params) : Nat := p.epochS * 1000
def Params.staleMs (p : Params) : Nat := p.batteryStale * 1000
def Params.repeatMs (p : Params) : Nat := p.repeatInterval * 1000
def Params.floorMs (p : Params) : Nat := p.floorTimeout * 1000
def Params.cueRefreshMs (p : Params) : Nat := p.cueRefresh * 1000
/-- `claim_fresh` is two times `claim_interval` (R186). -/
def Params.claimFresh (p : Params) : Nat := 2 * p.claimInterval
/-- The peer absence time and the JOINING length are three times `claim_interval` (R186). -/
def Params.absenceMs (p : Params) : Nat := 3 * p.claimInterval
def Params.joiningMs (p : Params) : Nat := 3 * p.claimInterval
/-- The zone's exit level, `zone_threshold` − 3 (section 6). -/
def Params.zoneExit (p : Params) : Nat := p.zoneThreshold - 3

/-- The cadence of a blinking pattern 1 to 6 (R159). -/
def Params.cadence (p : Params) (pattern : Nat) : Cadence := p.patterns.getD (pattern - 1) ⟨0, 0⟩

end Sys2Proof
end

