-- ==== Sys2Proof/Machine/State.lean ====
section
/-! DEFINITION. The state of the part as plain data: the state every chapter of spec/ lists for its block, one field per
piece (INVENTORY.md gives the rule of each), and the state right after a start. -/

namespace Sys2Proof.Machine

/-! ## Time -/

/-- A timer (00_scope.md section 4.2): a running timer holds the millisecond at which it is due, a paused one the time it
had left (R30). `expired` is the mark that the forget, lost-forget ("elapsed") and stale timers keep (R27, R28, R42). -/
inductive Timer where
  | stopped
  | running (due : Nat)
  | paused (left : Nat)
  | expired
  deriving DecidableEq, Repr

/-! ## Warnings (section 4) -/

/-- A level of a warning kind: NONE, the kind's lower level (LOW, MUTED_ON_FLOOR, WEAK) or its higher level (CRITICAL,
OPEN_OFF_FLOOR, LOST), coded 0, 1, 2 (section 12). -/
inductive Level where
  | none
  | lower
  | higher
  deriving DecidableEq, Repr

/-- A condition input (R58). -/
inductive Input where
  | level (l : Level)
  | unknown
  deriving DecidableEq, Repr

/-- The chamber level of a record (R73, R74). -/
inductive Chamber where
  | unknown
  | told (l : Level)
  deriving DecidableEq, Repr

/-- The state of a warning record (section 4.1). -/
inductive RecState where
  | quiet
  | qualifying
  | active
  | shifting
  | releasing
  deriving DecidableEq, Repr

/-- A warning record (section 4.1). -/
structure Record where
  state : RecState
  level : Level
  pending : Option Level
  persist : Timer
  acked : Bool
  chamber : Chamber
  chamberAcked : Bool
  repeatTimer : Timer
  logLower : Bool
  logHigher : Bool
  residencyBase : Nat
  spellStart : Option Nat
  raiseCount : Nat
  deriving DecidableEq, Repr

/-! ## The entry (section 2.1) -/

/-- Who hears the microphone now (section 2.3). -/
inductive Presence where
  | heard
  | covered
  | silent
  deriving DecidableEq, Repr

/-- The reporter role (section 7.3). -/
inductive Role where
  | pending
  | reporter
  | follower
  deriving DecidableEq, Repr

/-- The mute state of an entry (R86). -/
inductive MuteState where
  | unknown
  | muted
  | open_
  deriving DecidableEq, Repr

/-- The signal band of an entry (R94). -/
inductive Band where
  | none
  | weak
  deriving DecidableEq, Repr

/-- The fields of the battery block that are present once it is seeded (R38): the last sample, Vf, C, C_ref and R. -/
structure Cell where
  last : Nat
  vf : Nat
  charge : Nat
  chargeRef : Nat
  rate : Nat
  deriving DecidableEq, Repr

/-- The battery block of an entry (section 3.1). The seeded flag is set exactly while `cell` is present, and the settled
flag exactly while `minutes` (M) is present (R48). -/
structure Battery where
  cell : Option Cell
  epochCount : Nat
  minutes : Option Nat
  epoch : Timer
  sampled : Bool
  cand : Level
  stale : Timer
  deriving DecidableEq, Repr

/-- A listed claim (section 7.2); it expires `claim_fresh` after its arrival (R111). -/
structure Claim where
  station : Nat
  q : Nat
  reporter : Bool
  arrival : Nat
  deriving DecidableEq, Repr

/-- An entry of the microphone table (section 2.1). `checkGood` says whether the stored check word agrees with the stored
contents (R35; notes/assumptions/5.md). -/
structure Entry where
  mic : Nat
  presence : Presence
  lastLocal : Nat
  sightings : Nat
  gapVoid : Bool
  longestGap : Nat
  loss : Timer
  forget : Timer
  lostForget : Timer
  qs : Nat
  qf : Nat
  history : List Bool
  q : Nat
  mute : MuteState
  muteCand : Level
  battery : Battery
  band : Band
  claims : List Claim
  role : Role
  pendingTimer : Timer
  takeover : Timer
  recBattery : Record
  recMute : Record
  recSignal : Record
  cue : Nat
  cueRefresh : Timer
  checkGood : Bool
  deriving DecidableEq, Repr

/-! ## The feed (section 1) -/

/-- A sighting (R3): `mute` is present when the status is, `battery` when the status and the battery code are. -/
structure Sighting where
  arrival : Nat
  mic : Nat
  rssi : Int
  errored : Bool
  mute : Option Bool
  battery : Option Nat
  carried : Bool
  deriving DecidableEq, Repr

/-- A sighting in processing (section 2.2): whether it created its entry, and the last step of 00_scope.md section 2.2 that is
done, from 1 (the taking) to 8. The processing has ended when its entry is gone (R33). -/
structure Processing where
  sighting : Sighting
  creating : Bool
  done : Nat
  deriving DecidableEq, Repr

/-- FSTB and the bit collector (R1): FSTB low; a strobe period and the bits collected in it; a strobe period that is not
collected, because it began in STARTING or was cut by a start. -/
inductive Strobe where
  | low
  | collecting (bits : List Bool)
  | unheard
  deriving DecidableEq, Repr

/-- The feed state (R15). -/
inductive FeedState where
  | live
  | silent
  deriving DecidableEq, Repr

/-- Floor knowledge (R81). -/
inductive FloorKnowledge where
  | fresh
  | stale
  deriving DecidableEq, Repr

/-! ## The station (sections 6 and 11) -/

/-- The station state (section 11.1). -/
inductive StationState where
  | starting
  | joining
  | running
  | feedDown
  | listenOnly
  deriving DecidableEq, Repr

/-- The cause of ZONE_SILENT (section 6.4). -/
inductive ZoneCause where
  | count
  | feed
  deriving DecidableEq, Repr

/-- The zone state (section 6.4). -/
inductive Zone where
  | notInForce
  | inForce (cause : ZoneCause)
  deriving DecidableEq, Repr

/-- The configuration source (R184). -/
inductive Source where
  | site
  | factory
  | defaults
  deriving DecidableEq, Repr

/-- The fault record's cause (R180, R181). -/
inductive FaultCause where
  | table (mic : Nat)
  | doubleFault
  | duplicateId
  | badId
  deriving DecidableEq, Repr

/-- An area of the configuration memory (R184). -/
inductive Area where
  | site
  | factory
  deriving DecidableEq, Repr

/-- Where the load stands (R183, R184): the part is held by RESET or the power-on start; an area is being read, and is bad
when the read has not completed at `limit`; the load is over. -/
inductive Load where
  | held
  | reading (area : Area) (limit : Nat)
  | done
  deriving DecidableEq, Repr

/-- A roster slot (R106): ABSENT with its timer stopped, or PRESENT with its absence timer due at `due`. -/
inductive Slot where
  | absent
  | present (due : Nat)
  deriving DecidableEq, Repr

/-- The nineteen counters (section 11.5.2), in the order of the counter table. -/
structure Counters where
  feedFormat : Nat
  feedCheck : Nat
  feedRange : Nat
  feedAccepted : Nat
  intakeOverrun : Nat
  tableFull : Nat
  integrityFaults : Nat
  staleAcks : Nat
  framesSent : Nat
  framesDeferred : Nat
  collisions : Nat
  framesDropped : Nat
  rxGood : Nat
  rxBad : Nat
  rxRefused : Nat
  rxOverrun : Nat
  cuesSent : Nat
  cuesDropped : Nat
  configClamps : Nat
  deriving DecidableEq, Repr

/-! ## Frames (sections 8, 9 and 12) -/

/-- The reason of a WARN frame (section 12). -/
inductive Reason where
  | raise
  | shift
  | clear
  | repeated
  | adopt
  deriving DecidableEq, Repr

/-- A pair of a CLAIM frame (section 12.2). -/
structure Pair where
  mic : Nat
  q : Nat
  reporter : Bool
  deriving DecidableEq, Repr

/-- A WARN frame (R75, R144). -/
structure Warn where
  mic : Nat
  kind : Kind
  level : Level
  reason : Reason
  acked : Bool
  hears : Bool
  reporter : Bool
  q : Nat
  residency : Nat
  raiseCount : Nat
  minutes : Option Nat
  deriving DecidableEq, Repr

/-- A STATION frame (R150). -/
structure StationReport where
  state : StationState
  zone : Zone
  occupancy : Nat
  source : Source
  partialImage : Bool
  fault : Option FaultCause
  deriving DecidableEq, Repr

/-- What an ENTRY frame carries of one record (R154). -/
structure RecordReport where
  state : RecState
  level : Level
  acked : Bool
  raiseCount : Nat
  residency : Nat
  logLower : Bool
  logHigher : Bool
  deriving DecidableEq, Repr

/-- What an ENTRY frame carries of a present entry (R154). `cell` is C and Vf when seeded, `minutes` M when settled. -/
structure EntryReport where
  presence : Presence
  sightings : Nat
  longestGap : Nat
  qs : Nat
  q : Nat
  role : Role
  claims : Nat
  mute : MuteState
  cell : Option (Nat × Nat)
  minutes : Option Nat
  battery : RecordReport
  muteRec : RecordReport
  signal : RecordReport
  deriving DecidableEq, Repr

/-- A frame this part composes (section 12.2). A CLAIM frame keeps the round mark of the round that composed it, which is
not sent (R146). -/
inductive Frame where
  | claim (round : Nat) (pairs : List Pair)
  | warn (w : Warn)
  | station (r : StationReport)
  | entry (mic : Nat) (report : Option EntryReport)
  | stats (c : Counters)
  deriving DecidableEq, Repr

/-- A frame of the transmit queue or in flight, with its collision count (R131). A queued frame whose count is not 0 is a
frame handed back after a collision (R133). -/
structure TxFrame where
  frame : Frame
  collisions : Nat
  deriving DecidableEq, Repr

/-- The form of a QUERY (section 9.7). -/
inductive QueryForm where
  | entry (mic : Nat)
  | stats
  deriving DecidableEq, Repr

/-- The kinds of frame that are passed to no block (R138). -/
inductive ReportKind where
  | station
  | entry
  | stats
  deriving DecidableEq, Repr

/-- What an accepted frame of another station says (section 12.2). -/
inductive RxBody where
  | claim (pairs : List Pair)
  | warn (w : Warn)
  | floor (mics : List Nat)
  | ack (mic : Nat) (kind : Kind) (level : Level)
  | query (target : Nat) (form : QueryForm)
  | restart
  | report (kind : ReportKind) (payload : List Byte)
  deriving DecidableEq, Repr

/-- A frame of the receive queue (R137). -/
structure RxFrame where
  source : Nat
  body : RxBody
  deriving DecidableEq, Repr

/-- The access state (R127). In IDLE, `slots` is the number of slots elapsed since the idle point at the next slot
boundary (R128). -/
inductive Access where
  | off
  | busy
  | idle (slots : Nat)
  | sending
  deriving DecidableEq, Repr

/-- The frame assembler (R125): the bytes collected so far, whether one had a framing error (R124), and whether the frame
on the line may have begun while the access state was OFF (R127). -/
structure Assembler where
  bytes : List Byte
  framing : Bool
  joinedLate : Bool
  deriving DecidableEq, Repr

/-! ## Cues and lamps (section 10) -/

/-- A cue: a mic ID and a pattern (R163). -/
structure Cue where
  mic : Nat
  pattern : Nat
  deriving DecidableEq, Repr

/-- The phase of a cadence generator (R167). -/
inductive Phase where
  | dark
  | steady
  | on
  | off
  deriving DecidableEq, Repr

/-- A cadence generator (R167). -/
structure Generator where
  pattern : Nat
  phase : Phase
  timer : Timer
  staged : Option Nat
  deriving DecidableEq, Repr

/-! ## The state -/

/-- Everything the spec gives the part, and the queue of waiting commands. -/
structure State where
  now : Nat
  pending : List Instr
  station : StationState
  number : Nat
  params : Params
  source : Source
  partialImage : Bool
  load : Load
  holdUntil : Nat
  joining : Timer
  fault : Option FaultCause
  window : Timer
  attn : Bool
  counters : Counters
  strobe : Strobe
  intake : List Sighting
  feed : FeedState
  feedTimer : Timer
  inProcessing : Option Processing
  table : List Entry
  floorSet : List Nat
  floor : FloorKnowledge
  floorTimer : Timer
  lostCount : Nat
  zone : Zone
  zoneRepeat : Timer
  roster : List Slot
  claimRound : Timer
  round : Nat
  access : Access
  lastSender : Bool
  inFlight : Option TxFrame
  assembler : Assembler
  rx : List RxFrame
  inDispatch : Option RxFrame
  tx : List TxFrame
  stationRepeat : Timer
  cueQueue : List Cue
  cueTransfer : Option Cue
  lampBattery : Generator
  lampMute : Generator
  lampSignal : Generator
  lampStation : Generator
  deriving DecidableEq, Repr

/-- Why a step stops with a fault. The spec names no event that stops the part, so there is no constructor and no command
faults. -/
inductive Fault
  deriving DecidableEq, Repr

/-- Why a command is refused. -/
inductive Refusal where
  /-- Raised by `exec` for a command whose meaning is not written; safe: the model stops where the part goes on. No
  command is left so. -/
  | notModelled (mnemonic : String)
  deriving DecidableEq, Repr

/-- Every counter at 0 (section 11.5.2). -/
def Counters.zero : Counters :=
  ⟨0, 0, 0, 0, 0, 0, 0, 0, 0, 0, 0, 0, 0, 0, 0, 0, 0, 0, 0⟩

/-- A dark generator with nothing staged (R167). -/
def Generator.dark : Generator := ⟨0, .dark, .stopped, none⟩

/-- The empty assembler of a station that is OFF (R127). -/
def Assembler.empty : Assembler := ⟨[], false, false⟩

/-- The part right after a start: STARTING, held by RESET or the power-on start, every block at its start values (R183).
The station number, the image, its source and partial flag have no start value in the spec: they are read during STARTING
(notes/assumptions/7.md); the millisecond time begins at 0 (notes/assumptions/1.md), and no power-on start is left to wait for
(notes/assumptions/33.md). -/
def State.reset : State where
  now := 0
  pending := []
  station := .starting
  number := 0
  params := defaultParams
  source := .defaults
  partialImage := false
  load := .held
  holdUntil := 0
  joining := .stopped
  fault := none
  window := .stopped
  attn := false
  counters := Counters.zero
  strobe := .low
  intake := []
  feed := .live
  feedTimer := .stopped
  inProcessing := none
  table := []
  floorSet := []
  floor := .stale
  floorTimer := .stopped
  lostCount := 0
  zone := .notInForce
  zoneRepeat := .stopped
  roster := List.replicate 16 .absent
  claimRound := .stopped
  round := 0
  access := .off
  lastSender := false
  inFlight := none
  assembler := Assembler.empty
  rx := []
  inDispatch := none
  tx := []
  stationRepeat := .stopped
  cueQueue := []
  cueTransfer := none
  lampBattery := Generator.dark
  lampMute := Generator.dark
  lampSignal := Generator.dark
  lampStation := Generator.dark

end Sys2Proof.Machine
end

