-- ==== Sys2Proof/Machine/Ops.lean ====
section
/-! DEFINITION. The named operations over the state that every block uses: timers, counters, and reading, changing, inserting
and visiting the entries of the table. -/

namespace Sys2Proof.Machine

/-! ## Timers (00_scope.md section 4.2) -/

/-- A running timer whose time has come: its expiry can be taken. -/
def Timer.isDue (t : Timer) (now : Nat) : Bool :=
  match t with
  | .running due => decide (due ≤ now)
  | _ => false

def Timer.isRunning : Timer → Bool
  | .running _ => true
  | _ => false

/-- Pausing keeps the time left; at or past its due time nothing is left (R30). -/
def Timer.pause (now : Nat) : Timer → Timer
  | .running due => .paused (due - now)
  | t => t

/-- Resuming goes on from the time left (R30). -/
def Timer.resume (now : Nat) : Timer → Timer
  | .paused left => .running (now + left)
  | t => t

/-- A timer loaded with `len` ms and started. -/
def State.after (s : State) (len : Nat) : Timer := .running (s.now + len)

/-- A presence timer loaded with `len` ms: it starts paused with its full length while the station is FEED_DOWN (R30). -/
def State.presenceTimer (s : State) (len : Nat) : Timer :=
  if s.station = .feedDown then .paused len else .running (s.now + len)

/-! ## Counters (section 11.5.2) -/

/-- The names of the counters. -/
inductive Counter where
  | feedFormat
  | feedCheck
  | feedRange
  | feedAccepted
  | intakeOverrun
  | tableFull
  | integrityFaults
  | staleAcks
  | framesSent
  | framesDeferred
  | collisions
  | framesDropped
  | rxGood
  | rxBad
  | rxRefused
  | rxOverrun
  | cuesSent
  | cuesDropped
  deriving DecidableEq, Repr

/-- One event more, saturating at 65535 (00_scope.md section 4.5). -/
def Counters.bump (c : Counters) : Counter → Counters
  | .feedFormat => { c with feedFormat := satAdd satMax c.feedFormat 1 }
  | .feedCheck => { c with feedCheck := satAdd satMax c.feedCheck 1 }
  | .feedRange => { c with feedRange := satAdd satMax c.feedRange 1 }
  | .feedAccepted => { c with feedAccepted := satAdd satMax c.feedAccepted 1 }
  | .intakeOverrun => { c with intakeOverrun := satAdd satMax c.intakeOverrun 1 }
  | .tableFull => { c with tableFull := satAdd satMax c.tableFull 1 }
  | .integrityFaults => { c with integrityFaults := satAdd satMax c.integrityFaults 1 }
  | .staleAcks => { c with staleAcks := satAdd satMax c.staleAcks 1 }
  | .framesSent => { c with framesSent := satAdd satMax c.framesSent 1 }
  | .framesDeferred => { c with framesDeferred := satAdd satMax c.framesDeferred 1 }
  | .collisions => { c with collisions := satAdd satMax c.collisions 1 }
  | .framesDropped => { c with framesDropped := satAdd satMax c.framesDropped 1 }
  | .rxGood => { c with rxGood := satAdd satMax c.rxGood 1 }
  | .rxBad => { c with rxBad := satAdd satMax c.rxBad 1 }
  | .rxRefused => { c with rxRefused := satAdd satMax c.rxRefused 1 }
  | .rxOverrun => { c with rxOverrun := satAdd satMax c.rxOverrun 1 }
  | .cuesSent => { c with cuesSent := satAdd satMax c.cuesSent 1 }
  | .cuesDropped => { c with cuesDropped := satAdd satMax c.cuesDropped 1 }

/-- The event of a counter is counted once. -/
def State.count (k : Counter) (s : State) : State := { s with counters := s.counters.bump k }

/-! ## Entries -/

def Entry.record (e : Entry) : Kind → Record
  | .battery => e.recBattery
  | .mute => e.recMute
  | .signal => e.recSignal

/-- A held SILENT entry, its lost-forget timer marked elapsed, whose SIGNAL record is acknowledged: it is removed in the event that
set the flag (R29). -/
def Entry.letGo (e : Entry) : Bool :=
  decide (e.presence = .silent) && decide (e.lostForget = .expired) && e.recSignal.acked

def Entry.setRecord (k : Kind) (r : Record) (e : Entry) : Entry :=
  match k with
  | .battery => { e with recBattery := r }
  | .mute => { e with recMute := r }
  | .signal => { e with recSignal := r }

/-- The entry of a mic ID, if the table holds one. -/
def State.entry? (s : State) (mic : Nat) : Option Entry := s.table.find? fun e => e.mic == mic

/-- The sighting in processing; its processing ends at once when its entry is removed (R33). -/
def State.underway (s : State) : Option Processing :=
  match s.inProcessing with
  | none => none
  | some p => if s.entry? p.sighting.mic = none then none else some p

/-- The mic IDs of the table, ascending (R17). -/
def State.mics (s : State) : List Nat := s.table.map Entry.mic

/-- The entry of `mic` changed by `f`, its check word left as `f` leaves it. -/
def State.mapEntry (mic : Nat) (f : Entry → Entry) (s : State) : State :=
  { s with table := s.table.map fun e => if e.mic = mic then f e else e }

/-- The entry of `mic` changed by `f`, its check word computed anew (R35). -/
def State.modEntry (mic : Nat) (f : Entry → Entry) (s : State) : State :=
  s.mapEntry mic fun e => { f e with checkGood := true }

/-- The record of `kind` in the entry of `mic` changed by `f`. -/
def State.modRecord (mic : Nat) (kind : Kind) (f : Record → Record) (s : State) : State :=
  s.modEntry mic fun e => e.setRecord kind (f (e.record kind))

/-- An entry placed where its mic ID belongs (R17). -/
def insertEntry (e : Entry) : List Entry → List Entry
  | [] => [e]
  | x :: rest => if x.mic < e.mic then x :: insertEntry e rest else e :: x :: rest

/-- The entry of `mic` taken out of the table; the neighbours close up (R34). -/
def State.dropEntry (mic : Nat) (s : State) : State :=
  { s with table := s.table.filter fun e => decide (e.mic ≠ mic) }

/-- A visit to the entry of `mic` by an event that verifies it (R35): nothing when the table holds none, `onFault` when its
check word is bad (R36), else `act` on the verified entry. -/
def State.verified (onFault : Nat → State → State) (mic : Nat) (act : Entry → State → State) (s : State) : State :=
  match s.entry? mic with
  | none => s
  | some e => if e.checkGood then act e s else onFault mic s

/-- A sweep (R35): every entry of the table as it stands at the start, in ascending mic-ID order, each verified; an entry gone
by its turn is passed over (notes/assumptions/28.md). -/
def State.sweep (onFault : Nat → State → State) (act : Nat → State → State) (s : State) : State :=
  s.mics.foldl (fun s mic => s.verified onFault mic fun _ => act mic) s

/-! ## The roster (R106) -/

/-- The absence timer of a slot. -/
def Slot.timer : Slot → Timer
  | .absent => .stopped
  | .present due => .running due

/-- The slot of a station number. -/
def State.slot (n : Nat) (s : State) : Slot := s.roster.getD n .absent

/-- The station is PRESENT. -/
def State.hasPeer (n : Nat) (s : State) : Bool := decide (s.slot n ≠ .absent)

/-! ## Floor set and claim lists -/

/-- A mic ID placed in an ascending list. -/
def insertAsc (n : Nat) : List Nat → List Nat
  | [] => [n]
  | x :: rest => if x ≤ n then x :: insertAsc n rest else n :: x :: rest

/-- One field of a FLOOR frame against the three tests of R82. -/
def keepField (kept : List Nat) (mic : Nat) : List Nat :=
  if mic = 0 ∨ micMax < mic then kept
  else if mic ∈ kept then kept
  else if floorMax ≤ kept.length then kept
  else kept ++ [mic]

/-- The floor set a FLOOR frame's list builds: the kept mic IDs, ascending (R82). -/
def floorSetOf (fields : List Nat) : List Nat := (fields.foldl keepField []).foldr insertAsc []

/-- The effective score of a claim (R109). -/
def Claim.score (p : Params) (c : Claim) : Nat := c.q + if c.reporter then p.roleMargin else 0

/-- `a` sorts before `b` (R109): higher effective score, and between equal scores the lower station number. -/
def Claim.before (p : Params) (a b : Claim) : Bool :=
  decide (b.score p < a.score p) || (decide (a.score p = b.score p) && decide (a.station < b.station))

/-- A claim inserted at its place in the order (R109). -/
def insertClaim (p : Params) (c : Claim) : List Claim → List Claim
  | [] => [c]
  | x :: rest => if c.before p x then c :: x :: rest else x :: insertClaim p c rest

/-- The claim of `station` taken out of a list. -/
def withoutStation (station : Nat) (l : List Claim) : List Claim := l.filter fun c => decide (c.station ≠ station)

/-- The cases of R110, the first that applies; `none` when the new claim is dropped. -/
def enterClaim (p : Params) (c : Claim) (l : List Claim) : Option (List Claim) :=
  if l.any (fun x => x.station == c.station) then some (insertClaim p c (withoutStation c.station l))
  else if l.length < claimMax then some (insertClaim p c l)
  else
    match l.getLast? with
    | some x => if c.before p x then some (insertClaim p c l.dropLast) else none
    | none => none

end Sys2Proof.Machine
end

