-- ==== Sys2Proof/Machine/Battery.lean ====
section
/-! DEFINITION. The Battery Estimator's arithmetic on the battery block of an entry (section 3): samples, charge curve, epochs,
swap, rate, minutes and candidate. -/

namespace Sys2Proof.Machine

/-- The block of a new entry (R38). -/
def Battery.fresh : Battery where
  cell := none
  epochCount := 0
  minutes := none
  epoch := .stopped
  sampled := false
  cand := .none
  stale := .stopped

/-- old + (new − old) / d, the division truncated toward zero (R8, R41, R46). -/
def truncStep (old new : Int) (d : Int) : Int := old + (new - old).tdiv d

/-- C between two knots and onward; at or above the last knot it is 1000 (R43). -/
def chargeFrom : List Knot → Nat → Nat
  | a :: b :: rest, vf =>
    if vf < b.mV then a.permille + (vf - a.mV) * (b.permille - a.permille) / (b.mV - a.mV)
    else chargeFrom (b :: rest) vf
  | _, _ => 1000

/-- C from Vf through the curve in use; 0 below knot 1 (R43). -/
def chargeOf (curve : List Knot) (vf : Nat) : Nat :=
  match curve with
  | [] => 0
  | k :: _ => if vf < k.mV then 0 else chargeFrom curve vf

/-- The raw level (R49): a settled block by its minutes and the cutoff test, an unsettled one by voltage and charge. -/
def rawLevel (p : Params) (c : Cell) : Option Nat → Level
  | some m => if m < p.critMinutes ∨ c.vf < p.cutoffMV then .higher else if m < p.lowMinutes then .lower else .none
  | none => if c.vf < p.cutoffMV then .higher else if c.charge < p.lowPermille then .lower else .none

/-- The exit margin from CRITICAL (R50). -/
def criticalMargin (p : Params) (c : Cell) : Option Nat → Bool
  | some m => decide (p.critMinutes + 3 ≤ m) && decide (p.cutoffMV + 50 ≤ c.vf)
  | none => decide (p.cutoffMV + 50 ≤ c.vf)

/-- The exit margin from LOW (R50). -/
def lowMargin (p : Params) (c : Cell) : Option Nat → Bool
  | some m => decide (p.lowMinutes + 5 ≤ m)
  | none => decide (p.lowPermille + 30 ≤ c.charge)

/-- The candidate recomputed from the previous one (R50). -/
def nextCandidate (p : Params) (c : Cell) (minutes : Option Nat) (prev : Level) : Level :=
  match rawLevel p c minutes, prev with
  | .higher, _ => .higher
  | .lower, .higher => if criticalMargin p c minutes then .lower else .higher
  | .lower, _ => .lower
  | .none, .higher =>
    if criticalMargin p c minutes then (if lowMargin p c minutes then .none else .lower) else .higher
  | .none, .lower => if lowMargin p c minutes then .none else .lower
  | .none, .none => .none

/-- The block seeded with sample voltage `v`, or re-seeded with it at a swap: the candidate is the raw level, without margins
(R40, R45). The stale timer is as it was. -/
def Battery.seed (p : Params) (now v : Nat) (b : Battery) : Battery :=
  let charge := chargeOf p.curve v
  let cell : Cell := { last := v, vf := v, charge := charge, chargeRef := charge, rate := p.nominalRate }
  { b with
    cell := some cell
    epochCount := 0
    minutes := none
    epoch := .running (now + p.epochMs)
    sampled := false
    cand := rawLevel p cell none }

/-- A sample after the seed (R39, R41): Vf filtered, C recomputed, the sample-in-epoch flag set, the candidate recomputed through
the margins of R50 (R51). R51 adds that a settled cell's candidate falls only at an epoch end, while R50's CRITICAL margin can
hold at a sample, and the example of section 4.7.3 has it fall there: the model follows R50 and the example (DEDUCED,
notes/assumptions/39.md). -/
def Battery.filter (p : Params) (v : Nat) (c : Cell) (b : Battery) : Battery :=
  let vf := (truncStep c.vf v 8).toNat
  let cell : Cell := { c with last := v, vf := vf, charge := chargeOf p.curve vf }
  { b with cell := some cell, sampled := true, cand := nextCandidate p cell b.minutes b.cand }

/-- A sample of battery code `code` (R39); the stale timer is restarted (R42). -/
def Battery.sample (p : Params) (now code : Nat) (b : Battery) : Battery :=
  let v := 2900 + 10 * code
  let taken := match b.cell with
    | none => b.seed p now v
    | some c => b.filter p v c
  { taken with stale := .running (now + p.staleMs) }

/-- The rate after a drop of `drop` per-mille (R46). -/
def nextRate (p : Params) (rate drop : Nat) : Nat := clampNat (truncStep rate (16 * drop) 4).toNat p.rateMin 4000

/-- M from C and R (R48). -/
def minutesOf (charge rate : Nat) : Nat := min 999 (16 * charge / rate)

/-- The end of an epoch with samples (R44): swap test (R45), else rate (R46), count and settling (R47), minutes (R48) and
candidate (R51). -/
def Battery.endEpoch (p : Params) (now : Nat) (c : Cell) (b : Battery) : Battery :=
  if c.chargeRef + p.swapRise ≤ c.charge then b.seed p now c.last
  else
    let rate := nextRate p c.rate (c.chargeRef - c.charge)
    let cell : Cell := { c with rate := rate, chargeRef := c.charge }
    let epochCount := satAdd 15 b.epochCount 1
    let minutes :=
      if b.minutes.isSome ∨ p.settleEpochs ≤ epochCount then some (minutesOf cell.charge rate) else none
    { b with
      cell := some cell
      epochCount := epochCount
      minutes := minutes
      epoch := .running (now + p.epochMs)
      sampled := false
      cand := nextCandidate p cell minutes b.cand }

/-- The epoch has samples: it is ended with them and an input is given; otherwise it is skipped (R44). -/
def Battery.epochSample (b : Battery) : Option Cell := if b.sampled then b.cell else none

end Sys2Proof.Machine
end

