-- ==== Sys2Proof/Machine/Records.lean ====
section
/-! DEFINITION. The persistence machine of a warning record (section 4.3): its steps on a condition input (R60 to R66) and on
the expiry of its persistence timer (R62, R65, R67), its residency (R78) and its effect on the chamber fields (R69 to R74). -/

namespace Sys2Proof.Machine

/-- A record at its starting values (R57). -/
def Record.fresh : Record where
  state := .quiet
  level := .none
  pending := none
  persist := .stopped
  acked := false
  chamber := .unknown
  chamberAcked := false
  repeatTimer := .stopped
  logLower := false
  logHigher := false
  residencyBase := 0
  spellStart := none
  raiseCount := 0

/-- The order of levels within a kind (section 3.2). -/
def Level.rank : Level → Nat
  | .none => 0
  | .lower => 1
  | .higher => 2

/-- qualify(L), ms (R59). -/
def qualifyMs (p : Params) : Kind → Level → Nat
  | .battery, .higher => p.qualifyBatteryCritical
  | .battery, _ => p.qualifyBatteryLow
  | .mute, .higher => p.qualifyOpenOffFloor
  | .mute, _ => p.qualifyMutedOnFloor
  | .signal, .higher => p.qualifyLost
  | .signal, _ => p.qualifyWeak

/-- The release time of a kind, ms (R59). -/
def releaseMs (p : Params) : Kind → Nat
  | .battery => p.releaseBattery
  | .mute => p.releaseMute
  | .signal => p.releaseSignal

/-- ACTIVE at the level held: pending level and persistence timer discarded. -/
def Record.toActive (r : Record) : Record := { r with state := .active, pending := none, persist := .stopped }

/-- RELEASING: pending level discarded, the release time loaded. -/
def Record.toReleasing (p : Params) (now : Nat) (k : Kind) (r : Record) : Record :=
  { r with state := .releasing, pending := none, persist := .running (now + releaseMs p k) }

/-- SHIFTING toward `l`: qualify(L) above the level, the release time below it (R63, R64, R66). -/
def Record.toShifting (p : Params) (now : Nat) (k : Kind) (l : Level) (r : Record) : Record :=
  { r with
    state := .shifting
    pending := some l
    persist := .running (now + if r.level.rank < l.rank then qualifyMs p k l else releaseMs p k) }

/-- QUALIFYING toward `l` from the full qualify time (R60, R61). -/
def Record.toQualifying (p : Params) (now : Nat) (k : Kind) (l : Level) (r : Record) : Record :=
  { r with state := .qualifying, pending := some l, persist := .running (now + qualifyMs p k l) }

/-- QUIET without ever having raised (R61). -/
def Record.toQuiet (r : Record) : Record := { r with state := .quiet, pending := none, persist := .stopped }

/-- A record steps on a condition input (R60, R61, R63, R64, R66). -/
def Record.step (p : Params) (now : Nat) (k : Kind) (i : Input) (r : Record) : Record :=
  match r.state with
  | .quiet =>
    match i with
    | .unknown => r
    | .level l => if l = .none then r else r.toQualifying p now k l
  | .qualifying =>
    match i with
    | .unknown => r.toQuiet
    | .level l =>
      if l = .none then r.toQuiet else if r.pending = some l then r else r.toQualifying p now k l
  | .active =>
    match i with
    | .unknown => r
    | .level l =>
      if l = .none then r.toReleasing p now k else if l = r.level then r else r.toShifting p now k l
  | .shifting =>
    match i with
    | .unknown => r.toActive
    | .level l =>
      if l = r.level then r.toActive
      else if r.pending = some l then r
      else if l = .none then r.toReleasing p now k
      else r.toShifting p now k l
  | .releasing =>
    match i with
    | .unknown => r.toActive
    | .level l =>
      if l = .none then r else if l = r.level then r.toActive else r.toShifting p now k l

/-- The chamber has accepted this level: it was told of it and has acknowledged it (R69). -/
def Record.accepted (r : Record) (l : Level) : Bool := decide (r.chamber = .told l) && r.chamberAcked

/-- A level joins the log (R79). -/
def Record.logged (r : Record) (l : Level) : Record :=
  { r with logLower := r.logLower || decide (l = .lower), logHigher := r.logHigher || decide (l = .higher) }

/-- The residency read at `now` (R78). -/
def Record.residency (now : Nat) (r : Record) : Nat :=
  match r.spellStart with
  | some t => satAdd satMax r.residencyBase ((now - t) / 1000)
  | none => r.residencyBase

/-- The level a waiting record takes at its expiry. -/
def Record.target (r : Record) : Level := r.pending.getD .none

/-- The record part of R62: QUALIFYING to ACTIVE at the pending level. -/
def Record.raised (now : Nat) (r : Record) : Record :=
  { r.toActive.logged r.target with
    level := r.target
    spellStart := some now
    raiseCount := satAdd raiseMax r.raiseCount 1
    acked := r.accepted r.target }

/-- The record part of R65: SHIFTING to ACTIVE at the pending level. -/
def Record.shifted (r : Record) : Record :=
  { r.toActive.logged r.target with level := r.target, acked := r.accepted r.target }

/-- The record part of R67: RELEASING to QUIET; the full seconds of the spell are added, the part-second is discarded. -/
def Record.released (now : Nat) (r : Record) : Record :=
  { r.toQuiet with
    level := .none
    residencyBase := r.residency now
    spellStart := none
    acked := false
    repeatTimer := .stopped }

/-- A matching ACK (R70). -/
def Record.acknowledge (r : Record) : Record :=
  { r with acked := true, chamber := .told r.level, chamberAcked := true, repeatTimer := .stopped }

/-- A peer's acknowledged WARN matches the record: its flag is set and its level is the record's and not NONE (R72). -/
def Record.matchesWarn (r : Record) (w : Warn) : Bool :=
  w.acked && decide (w.level = r.level) && decide (w.level ≠ .none)

/-- A peer WARN applied to the record of its kind (R72). -/
def Record.absorb (w : Warn) (r : Record) : Record :=
  let told := { r with chamber := .told w.level, chamberAcked := decide (w.level ≠ .none) && w.acked }
  if r.matchesWarn w then { told with acked := true, repeatTimer := .stopped } else told

/-- An accepted WARN of this station (R73). -/
def Record.announced (l : Level) (acked : Bool) (r : Record) : Record :=
  { r with chamber := .told l, chamberAcked := acked }

/-- A WARN discarded before sending (R74). -/
def Record.forgotten (r : Record) : Record := { r with chamber := .unknown, chamberAcked := false }

/-- The repeat timer runs while the role is held, the level is not NONE and the acknowledged flag is clear (R76). -/
def Record.repeats (r : Record) (role : Role) : Bool :=
  decide (role = .reporter) && decide (r.level ≠ .none) && !r.acked

/-- The repeat timer at an announcement request or a gain of the role: loaded and started while the conditions hold, stopped
otherwise (R76). -/
def Record.treatRepeat (role : Role) (due : Nat) (r : Record) : Record :=
  { r with repeatTimer := if r.repeats role then .running due else .stopped }

/-- The record counts toward the lost count (R97). -/
def Record.countsLost (r : Record) : Bool :=
  (decide (r.state = .qualifying) && decide (r.pending = some .higher)) || decide (r.level = .higher)

end Sys2Proof.Machine
end

