-- ==== Sys2Proof/Machine/Flags.lean ====
section
/-! DEFINITION. What the blocks compute from the state without changing it: the mute candidate and signal band, the three
condition inputs, the reporter decision, the cue pattern, the lamp patterns, the lost count and ATTN. -/

namespace Sys2Proof.Machine

/-! ## Candidates, band and inputs -/

/-- The mute candidate from the mute state and the floor set (R87). -/
def muteCandidate (floorSet : List Nat) (mic : Nat) : MuteState → Level
  | .muted => if mic ∈ floorSet then .lower else .none
  | .open_ => if mic ∈ floorSet then .none else .higher
  | .unknown => .none

/-- The signal band after a sighting of quality `q` (R94). -/
def bandAfter (p : Params) (q : Nat) (band : Band) : Band :=
  if q < p.weakThreshold then .weak else if p.weakThreshold + 15 ≤ q then .none else band

/-- The battery input (R52). -/
def batteryInput (st : StationState) (e : Entry) : Input :=
  if st = .feedDown ∨ e.presence ≠ .heard ∨ e.battery.cell = none ∨ e.battery.stale = .expired then .unknown
  else .level e.battery.cand

/-- The MUTE input (R88). -/
def muteInput (st : StationState) (floor : FloorKnowledge) (e : Entry) : Input :=
  if st = .feedDown ∨ floor = .stale ∨ e.presence ≠ .heard ∨ e.mute = .unknown then .unknown else .level e.muteCand

/-- The SIGNAL input (R95). -/
def signalInput (st : StationState) (e : Entry) : Input :=
  if st = .feedDown then .unknown
  else
    match e.presence with
    | .heard =>
      match e.band with
      | .none => .level .none
      | .weak => .level .lower
    | .covered => .level .none
    | .silent => .level .higher

/-- The condition input of a kind (R52, R88, R95). -/
def State.input (s : State) (k : Kind) (e : Entry) : Input :=
  match k with
  | .battery => batteryInput s.station e
  | .mute => muteInput s.station s.floor e
  | .signal => signalInput s.station e

/-! ## The lost count (R97) -/

/-- The number of entries whose SIGNAL record counts, read without verifying them (R35). -/
def lostOf (table : List Entry) : Nat := table.countP fun e => e.recSignal.countsLost

/-! ## The reporter role (R113) -/

/-- REPORTER against the claim list for an own effective score. -/
def reporterWins (p : Params) (number own : Nat) : List Claim → Bool
  | [] => true
  | top :: _ => decide (top.score p < own) || (decide (own = top.score p) && decide (number < top.station))

/-- The own effective score: Q with the margin while the role is REPORTER. -/
def ownScore (p : Params) (e : Entry) : Nat := e.q + if e.role = .reporter then p.roleMargin else 0

/-! ## Cues (R160) -/

/-- Cues are sent in RUNNING and FEED_DOWN. -/
def StationState.cues : StationState → Bool
  | .running => true
  | .feedDown => true
  | _ => false

/-- An entry is cued while it is HEARD, REPORTER, and the station RUNNING or FEED_DOWN. -/
def cued (st : StationState) (e : Entry) : Bool :=
  decide (e.presence = .heard) && decide (e.role = .reporter) && st.cues

/-- The cue pattern of a cued entry, read from the levels of its records. -/
def cuePattern (e : Entry) : Nat :=
  if e.recBattery.level = .higher then 2
  else if e.recMute.level = .higher then 4
  else if e.recMute.level = .lower then 3
  else if e.recBattery.level = .lower then 1
  else 0

/-! ## Lamps (R168, R169) -/

/-- The pattern of a warning lamp from the records of its kind in every entry (R168). -/
def warningPattern (k : Kind) (table : List Entry) : Nat :=
  if table.any (fun e => decide ((e.record k).level = .higher) && !(e.record k).acked) then 2
  else if table.any (fun e => decide ((e.record k).level = .lower) && !(e.record k).acked) then 1
  else if table.any (fun e => decide ((e.record k).level ≠ .none)) then 7
  else 0

/-- The pattern of the STATION lamp (R169). -/
def stationPattern (s : State) : Nat :=
  if s.station = .starting then 0
  else if s.station = .listenOnly then 2
  else if s.station = .feedDown ∨ s.zone ≠ .notInForce then 1
  else if s.station = .joining then 5
  else if s.source = .defaults then 6
  else 7

/-- The pattern each lamp's selection gives. -/
def State.lampPattern (s : State) : Lamp → Nat
  | .battery => warningPattern .battery s.table
  | .mute => warningPattern .mute s.table
  | .signal => warningPattern .signal s.table
  | .station => stationPattern s

/-! ## ATTN (R182) -/

/-- ATTN is asserted in LISTEN_ONLY, in FEED_DOWN, while ZONE_SILENT is in force and with source DEFAULTS, and never in
STARTING. -/
def State.attnValue (s : State) : Bool :=
  decide (s.station ≠ .starting) &&
    (decide (s.station = .listenOnly) || decide (s.station = .feedDown) || decide (s.zone ≠ .notInForce) ||
      decide (s.source = .defaults))

end Sys2Proof.Machine
end

