-- ==== Sys2Proof/Machine/Lamps.lean ====
section
/-! DEFINITION. The Lamp Driver's generators (R167, R171, R172) and the Cue Scheduler's selection and queue (R161, R163). -/

namespace Sys2Proof.Machine

/-! ## Generators -/

def State.gen (s : State) : Lamp → Generator
  | .battery => s.lampBattery
  | .mute => s.lampMute
  | .signal => s.lampSignal
  | .station => s.lampStation

def State.setGen (l : Lamp) (g : Generator) (s : State) : State :=
  match l with
  | .battery => { s with lampBattery := g }
  | .mute => { s with lampMute := g }
  | .signal => { s with lampSignal := g }
  | .station => { s with lampStation := g }

/-- A generator that begins pattern `pat` at once: dark, steady, or a full on phase (R171, R172). -/
def Generator.show (p : Params) (now pat : Nat) : Generator :=
  if pat = 0 then ⟨0, .dark, .stopped, none⟩
  else if pat = 7 then ⟨7, .steady, .stopped, none⟩
  else ⟨pat, .on, .running (now + (p.cadence pat).on), none⟩

/-- The generator is in a phase of a blinking pattern. -/
def Generator.blinking (g : Generator) : Bool :=
  match g.phase with
  | .on => true
  | .off => true
  | .dark => false
  | .steady => false

/-- A selection that gives `pat` (R171). -/
def Generator.select (p : Params) (now pat : Nat) (g : Generator) : Generator :=
  if g.blinking then { g with staged := if pat = g.pattern then none else some pat }
  else if pat = g.pattern then g
  else Generator.show p now pat

/-- The expiry of the phase timer (R172). -/
def Generator.phaseEnd (p : Params) (now : Nat) (g : Generator) : Generator :=
  match g.phase with
  | .on => { g with phase := .off, timer := .running (now + (p.cadence g.pattern).off) }
  | .off =>
    match g.staged with
    | none => { g with phase := .on, timer := .running (now + (p.cadence g.pattern).on) }
    | some pat => Generator.show p now pat
  | .dark => g
  | .steady => g

/-- LD selects the pattern of one lamp (R170, R171). -/
def State.selectLamp (l : Lamp) (s : State) : State :=
  s.setGen l ((s.gen l).select s.params s.now (s.lampPattern l))

/-- LD selects the BATTERY, MUTE and SIGNAL lamps. -/
def State.selectWarningLamps (s : State) : State :=
  ((s.selectLamp .battery).selectLamp .mute).selectLamp .signal

/-- LD selects all four lamps. -/
def State.selectAllLamps (s : State) : State := s.selectWarningLamps.selectLamp .station

/-- The lamp of a kind of warning (R167). -/
def lampOf : Kind → Lamp
  | .battery => .battery
  | .mute => .mute
  | .signal => .signal

/-- SC re-evaluates ATTN (R182). -/
def State.evaluateAttn (s : State) : State := { s with attn := s.attnValue }

/-- The two hand-offs that end a change of station state: all four lamps, then ATTN (R174). -/
def State.stationHandOff (s : State) : State := s.selectAllLamps.evaluateAttn

/-- The two hand-offs that end a change of zone state: the STATION lamp, then ATTN (R98). -/
def State.zoneHandOff (s : State) : State := (s.selectLamp .station).evaluateAttn

/-! ## Cues -/

/-- The places a cue offer can take (R163): the same microphone's cue in place, the tail, or none in a full queue. -/
def placeCue (c : Cue) (q : List Cue) : Option (List Cue) :=
  if q.any (fun x => x.mic == c.mic) then some (q.map fun x => if x.mic = c.mic then c else x)
  else if q.length < cueMax then some (q ++ [c])
  else none

/-- A cue offered to the cue queue; CUES_DROPPED counts an offer that finds it full (R163). -/
def State.offerCue (c : Cue) (s : State) : State :=
  match placeCue c s.cueQueue with
  | some q => { s with cueQueue := q }
  | none => s.count .cuesDropped

/-- CS selects the cue of the entry of `mic` (R161). -/
def State.selectCue (mic : Nat) (s : State) : State :=
  match s.entry? mic with
  | none => s
  | some e =>
    if cued s.station e then
      if cuePattern e = e.cue then s
      else
        (s.modEntry mic fun e =>
            { e with
              cue := cuePattern e
              cueRefresh := if cuePattern e = 0 then .stopped else s.after s.params.cueRefreshMs }).offerCue
          ⟨mic, cuePattern e⟩
    else s.modEntry mic fun e => { e with cue := 0, cueRefresh := .stopped }

end Sys2Proof.Machine
end

