-- ==== Sys2Proof/Machine/Queue.lean ====
section
/-! DEFINITION. The Announcement Queue (section 9): classes and placing (R141, R142), gates (R143, R144), coalescing (R145,
R146), a full queue (R147), removals (R148), and the composition of frames (R75, R144, R150, R154). -/

namespace Sys2Proof.Machine

/-! ## Classes and places -/

/-- The class of a frame (R142). -/
def Frame.cls : Frame → Nat
  | .station _ => 0
  | .warn w =>
    match w.reason with
    | .raise => 1
    | .shift => 1
    | .clear => 2
    | .repeated => 2
    | .adopt => 2
  | .entry .. => 3
  | .stats _ => 3
  | .claim .. => 4

/-- A queued frame that was handed back after a collision stands at the head whatever its class (R133, R141). -/
def TxFrame.returned (f : TxFrame) : Bool := decide (f.collisions ≠ 0)

/-- A frame placed behind every frame of its own and of lower class numbers and ahead of every higher one; a returned frame
stays ahead of it (R142). -/
def placeTx (f : TxFrame) : List TxFrame → List TxFrame
  | [] => [f]
  | g :: rest => if g.returned ∨ g.frame.cls ≤ f.frame.cls then g :: placeTx f rest else f :: g :: rest

/-- The highest class number present. -/
def topClass (q : List TxFrame) : Nat := q.foldl (fun n f => max n f.frame.cls) 0

/-- The queue without the newest frame of class `c`, and that frame: within a class the order of the queue is the order of
acceptance, so the newest is the last (R141, R147; notes/assumptions/16.md). -/
def takeNewest (c : Nat) : List TxFrame → Option (TxFrame × List TxFrame)
  | [] => none
  | f :: rest =>
    match takeNewest c rest with
    | some (g, rest') => some (g, f :: rest')
    | none => if f.frame.cls = c then some (f, rest) else none

/-- The victim of a frame of class `c` in a full queue: the newest frame of the highest class number present, if that number
is above `c` (R147). -/
def victimFor (c : Nat) (q : List TxFrame) : Option (TxFrame × List TxFrame) :=
  if c < topClass q then takeNewest (topClass q) q else none

/-- The frame is a WARN for this microphone and kind. -/
def Frame.warnFor (mic : Nat) (k : Kind) : Frame → Bool
  | .warn w => decide (w.mic = mic) && decide (w.kind = k)
  | _ => false

/-- The frame is a WARN for this microphone. -/
def Frame.warnOf (mic : Nat) : Frame → Bool
  | .warn w => decide (w.mic = mic)
  | _ => false

/-- The frame is a WARN of kind SIGNAL at level LOST (R98). -/
def Frame.lostWarn : Frame → Bool
  | .warn w => decide (w.kind = .signal) && decide (w.level = .higher)
  | _ => false

def Frame.isStation : Frame → Bool
  | .station _ => true
  | _ => false

/-- The frame is a CLAIM of a round older than `round` (R146). -/
def Frame.olderClaim (round : Nat) : Frame → Bool
  | .claim r _ => decide (r < round)
  | _ => false

/-! ## Discards -/

/-- R74 for one record: its chamber level becomes UNKNOWN and its flag is cleared. The entry is not verified by this (R35); its
check word is computed anew when a field changes. -/
def State.forgetChamber (mic : Nat) (k : Kind) (s : State) : State :=
  s.mapEntry mic fun e =>
    if (e.record k).chamber = .unknown ∧ (e.record k).chamberAcked = false then e
    else { e.setRecord k (e.record k).forgotten with checkGood := true }

/-- R74 for a frame that has left the queue or the line unsent: its record forgets, unless a newer WARN for the same
microphone and kind is queued, whose acceptance set the chamber level (R74; notes/assumptions/14.md). The record is found by
microphone and kind: whatever has set its chamber level since (notes/assumptions/15.md), and also when its entry was removed and
admitted again while the frame was in flight (DEDUCED, notes/assumptions/36.md). -/
def State.discardFrame (f : Frame) (s : State) : State :=
  match f with
  | .warn w => if s.tx.any (fun t => t.frame.warnFor w.mic w.kind) then s else s.forgetChamber w.mic w.kind
  | _ => s

/-- Frames removed from the transmit queue, each WARN a discard before sending (R74, R148). -/
def State.discardWhere (drop : Frame → Bool) (s : State) : State :=
  (s.tx.filter fun t => drop t.frame).foldl (fun s t => s.discardFrame t.frame)
    { s with tx := s.tx.filter fun t => !drop t.frame }

/-- Frames removed from the transmit queue with no effect on a record (R145, R146, and R34, whose records end). -/
def State.removeWhere (drop : Frame → Bool) (s : State) : State := { s with tx := s.tx.filter fun t => !drop t.frame }

/-! ## Acceptance -/

/-- An accepted and composed frame joins the queue; the result says whether it took a place. In a full queue the newest frame
of a less urgent class gives way and is counted and discarded, or the new frame is dropped and counted (R147). -/
def State.submit (f : Frame) (s : State) : State × Bool :=
  if s.tx.length < txMax then ({ s with tx := placeTx ⟨f, 0⟩ s.tx }, true)
  else
    match victimFor f.cls s.tx with
    | some (v, rest) =>
      ((({ s with tx := placeTx ⟨f, 0⟩ rest }).count .framesDropped).discardFrame v.frame, true)
    | none => (s.count .framesDropped, false)

/-- WARN, CLAIM, ENTRY and STATS frames are accepted in RUNNING and FEED_DOWN (R143; no CLAIM request arises in FEED_DOWN). -/
def StationState.sendsAll : StationState → Bool
  | .running => true
  | .feedDown => true
  | _ => false

/-- STATION frames are accepted in RUNNING, FEED_DOWN and LISTEN_ONLY (R143). -/
def StationState.sendsStation : StationState → Bool
  | .running => true
  | .feedDown => true
  | .listenOnly => true
  | _ => false

/-- The WARN frame of a record (R75, R144). A BATTERY frame carries M while the block is settled. -/
def composeWarn (now : Nat) (e : Entry) (k : Kind) (reason : Reason) : Warn :=
  let r := e.record k
  { mic := e.mic
    kind := k
    level := r.level
    reason := reason
    acked := r.acked
    hears := decide (e.presence = .heard)
    reporter := true
    q := e.q
    residency := r.residency now
    raiseCount := r.raiseCount
    minutes := if k = .battery then e.battery.minutes else none }

/-- The gates of a WARN request (R143, R144). -/
def State.warnGate (s : State) (e : Entry) (k : Kind) : Bool :=
  s.station.sendsAll && decide (e.role = .reporter) &&
    !(decide (s.zone ≠ .notInForce) && decide (k = .signal) && decide ((e.record k).level = .higher))

/-- A request for a WARN frame (R75, R143 to R145, R147); its acceptance sets the chamber level (R73). -/
def State.requestWarn (mic : Nat) (k : Kind) (reason : Reason) (s : State) : State :=
  match s.entry? mic with
  | none => s
  | some e =>
    if s.warnGate e k then
      let w := composeWarn s.now e k reason
      let placed := (s.removeWhere (Frame.warnFor mic k)).submit (.warn w)
      if placed.2 then placed.1.modRecord mic k (Record.announced w.level w.acked) else placed.1
    else s

/-- An announcement: the request, and the repeat timer as R76 treats it at a request. A restart or a stop discards a repeat expiry
that is due and not yet taken: R77 says so of a stop, and of a level change taken first only that "the REPEAT carries the new level".
After a SHIFT taken first that REPEAT comes a full `repeat_interval` later (DESIGN CHOICE, notes/assumptions/37.md). -/
def State.announce (mic : Nat) (k : Kind) (reason : Reason) (s : State) : State :=
  (s.requestWarn mic k reason).modEntry mic fun e =>
    e.setRecord k ((e.record k).treatRepeat e.role (s.now + s.params.repeatMs))

/-- The STATION frame of the station as it stands (R150). -/
def composeStation (s : State) : StationReport where
  state := s.station
  zone := s.zone
  occupancy := s.table.length
  source := s.source
  partialImage := s.partialImage
  fault := s.fault

/-- A request for a STATION frame (R143, R146, R147, R151). The station repeat timer is restarted when it runs, and started
when `start` is set in RUNNING or FEED_DOWN (R177, R178). -/
def State.requestStation (start : Bool) (s : State) : State :=
  if s.station.sendsStation then
    let placed := (s.removeWhere Frame.isStation).submit (.station (composeStation s))
    if placed.2 && (s.stationRepeat.isRunning || (start && s.station.sendsAll)) then
      { placed.1 with stationRepeat := s.after s.params.repeatMs }
    else placed.1
  else s

/-- A request for a reply or a CLAIM frame (R143, R147). -/
def State.requestFrame (f : Frame) (s : State) : State :=
  if s.station.sendsAll then (s.submit f).1 else s

/-- The queued WARN of a record acknowledged at level `l` has its flag set in place (R149). -/
def markAcked (mic : Nat) (k : Kind) (l : Level) (t : TxFrame) : TxFrame :=
  match t.frame with
  | .warn w =>
    if w.mic = mic ∧ w.kind = k ∧ w.level = l then { t with frame := .warn { w with acked := true } } else t
  | _ => t

def State.ackQueued (mic : Nat) (k : Kind) (l : Level) (s : State) : State :=
  { s with tx := s.tx.map (markAcked mic k l) }

/-! ## Replies (R154) -/

def recordReport (now : Nat) (r : Record) : RecordReport where
  state := r.state
  level := r.level
  acked := r.acked
  raiseCount := r.raiseCount
  residency := r.residency now
  logLower := r.logLower
  logHigher := r.logHigher

/-- What an ENTRY frame carries of an entry (R154). -/
def entryReport (now : Nat) (e : Entry) : EntryReport where
  presence := e.presence
  sightings := e.sightings
  longestGap := e.longestGap
  qs := e.qs
  q := e.q
  role := e.role
  claims := e.claims.length
  mute := e.mute
  cell := e.battery.cell.map fun c => (c.charge, c.vf)
  minutes := e.battery.minutes
  battery := recordReport now e.recBattery
  muteRec := recordReport now e.recMute
  signal := recordReport now e.recSignal

/-! ## The validity recheck (R133) -/

/-- A returning frame placed at the head with its collision count (test 10). -/
def State.placeHead (t : TxFrame) (s : State) : State := { s with tx := t :: s.tx }

/-- A returning frame dropped and counted; for a WARN, R74 applies (tests 1 to 6 and 8). -/
def State.dropReturning (f : Frame) (s : State) : State := (s.count .framesDropped).discardFrame f

/-- Tests 1 to 6 of R133: the returning frame is dropped. -/
def State.recheckDrops (f : Frame) (s : State) : Bool :=
  decide (s.station = .joining) ||
  (decide (s.station = .listenOnly) && !f.isStation) ||
  (match f with
   | .warn w =>
     match s.entry? w.mic with
     | none => true
     | some e => decide (e.role ≠ .reporter) || (decide (s.zone ≠ .notInForce) && f.lostWarn)
   | .claim r _ => decide (r < s.round)
   | _ => false)

/-- Test 7 of R133: the queue holds a newer form of the frame. -/
def State.recheckReplaced (f : Frame) (s : State) : Bool :=
  match f with
  | .warn w => s.tx.any fun t => t.frame.warnFor w.mic w.kind
  | .station _ => s.tx.any fun t => t.frame.isStation
  | _ => false

/-- A frame handed back after a collision goes through the validity recheck (R133). -/
def State.recheck (t : TxFrame) (s : State) : State :=
  if s.recheckDrops t.frame then s.dropReturning t.frame
  else if s.recheckReplaced t.frame then s
  else if s.tx.length < txMax then s.placeHead t
  else
    match victimFor t.frame.cls s.tx with
    | some (v, rest) => ((({ s with tx := rest }).placeHead t).count .framesDropped).discardFrame v.frame
    | none => s.dropReturning t.frame

end Sys2Proof.Machine
end

