-- ==== Sys2Proof/Machine/Blocks.lean ====
section
/-! DEFINITION. What several commands share: condition inputs given and stepped (R58), the lost count and ZONE_SILENT (R97 to
R103), removal and integrity faults (R34, R36, R180), LISTEN_ONLY (R181), the reporter role (R113 to R118), presence changes
(R23 to R28), claim list changes (R110), and the entries into and out of FEED_DOWN and RUNNING (R177 to R179).

An operation that can verify further entries takes `fx`, what a failed verification does (R36). `State.entryFault` ties the knot:
each fault removes an entry, so the number of entries bounds how deep faults nest. -/

namespace Sys2Proof.Machine

/-! ## Inputs -/

/-- The owner of `k` gives the entry of `mic` its condition input and the record steps on it (R58). -/
def State.giveInput (mic : Nat) (k : Kind) (s : State) : State :=
  match s.entry? mic with
  | none => s
  | some e => s.modRecord mic k (Record.step s.params s.now k (s.input k e))

/-- The three inputs, and the three records stepped on them (R23, section 2.2 steps 5 and 6). -/
def State.giveInputs (mic : Nat) (s : State) : State :=
  ((s.giveInput mic .battery).giveInput mic .mute).giveInput mic .signal

/-! ## The reporter role -/

/-- Whether R117 asks for an ADOPT of a record. -/
def Record.wantsAdopt (r : Record) : Bool :=
  match r.level, r.chamber with
  | .none, .unknown => false
  | .none, .told l => decide (l ≠ .none)
  | l, c => decide (c ≠ .told l)

/-- The adoption of one record (R117). -/
def State.adopt (mic : Nat) (k : Kind) (s : State) : State :=
  match s.entry? mic with
  | none => s
  | some e => if (e.record k).wantsAdopt then s.announce mic k .adopt else s

/-- The adoption of an entry: BATTERY, MUTE and SIGNAL in that order (R117). -/
def State.adoptAll (mic : Nat) (s : State) : State :=
  ((s.adopt mic .battery).adopt mic .mute).adopt mic .signal

/-- The repeat timers of the three records as the role and the records ask (R76). -/
def Entry.treatRepeats (due : Nat) (e : Entry) : Entry :=
  { e with
    recBattery := e.recBattery.treatRepeat e.role due
    recMute := e.recMute.treatRepeat e.role due
    recSignal := e.recSignal.treatRepeat e.role due }

/-- A gain of REPORTER (R117). -/
def State.gainReporter (mic : Nat) (s : State) : State :=
  let gained := s.modEntry mic fun e => { e with role := .reporter, takeover := .stopped }
  ((gained.adoptAll mic).modEntry mic (Entry.treatRepeats (s.now + s.params.repeatMs))).selectCue mic

/-- The three repeat timers stopped (R118). -/
def Entry.stopRepeats (e : Entry) : Entry :=
  { e with
    recBattery := { e.recBattery with repeatTimer := .stopped }
    recMute := { e.recMute with repeatTimer := .stopped }
    recSignal := { e.recSignal with repeatTimer := .stopped } }

/-- A loss of REPORTER (R118). -/
def State.loseReporter (mic : Nat) (s : State) : State :=
  let lost := s.modEntry mic fun e => { e with role := .follower }
  ((lost.discardWhere (Frame.warnOf mic)).modEntry mic Entry.stopRepeats).selectCue mic

/-- The entry becomes FOLLOWER; from REPORTER that is a loss (R118). -/
def State.makeFollower (mic : Nat) (s : State) : State :=
  match s.entry? mic with
  | none => s
  | some e =>
    if e.role = .reporter then s.loseReporter mic else s.modEntry mic fun e => { e with role := .follower }

/-- The role decided against the claim list for the own effective score `own` (R113). -/
def State.decideRole (mic own : Nat) (s : State) : State :=
  match s.entry? mic with
  | none => s
  | some e =>
    if reporterWins s.params s.number own e.claims then
      (if e.role = .reporter then s else s.gainReporter mic)
    else s.makeFollower mic

/-- The role computed, for a HEARD entry that is not PENDING while the station is not LISTEN_ONLY (R113). -/
def State.computeRole (mic : Nat) (s : State) : State :=
  match s.entry? mic with
  | none => s
  | some e =>
    if e.presence = .heard ∧ e.role ≠ .pending ∧ s.station ≠ .listenOnly then s.decideRole mic (ownScore s.params e)
    else s

/-! ## The zone and the lost count -/

/-- ZONE_SILENT comes into force (R98; R102 with cause FEED). -/
def State.zoneEnter (cause : ZoneCause) (s : State) : State :=
  let cleared := s.discardWhere Frame.lostWarn
  let asked := ({ cleared with zone := .inForce cause }).requestStation false
  ({ asked with zoneRepeat := asked.after asked.params.repeatMs }).zoneHandOff

/-- The cause of a zone in force becomes `cause` (R102, R103). -/
def State.zoneCause (cause : ZoneCause) (s : State) : State :=
  let asked := ({ s with zone := .inForce cause }).requestStation false
  ({ asked with zoneRepeat := asked.after asked.params.repeatMs }).zoneHandOff

/-- One entry of the re-announcement sweep (R101). -/
def State.reannounce (mic : Nat) (s : State) : State :=
  match s.entry? mic with
  | none => s
  | some e =>
    if e.role = .reporter ∧ e.recSignal.level = .higher ∧ e.recSignal.chamber ≠ .told .higher then
      s.announce mic .signal .adopt
    else s

/-- ZONE_SILENT ends (R101). -/
def State.zoneEnd (fx : Nat → State → State) (s : State) : State :=
  let ended := ({ s with zone := .notInForce, zoneRepeat := .stopped }).requestStation false
  (ended.sweep fx State.reannounce).zoneHandOff

/-- SG updates its lost count, and ZONE_SILENT comes into force or ends with it (R97, R98, R101). -/
def State.updateLost (fx : Nat → State → State) (s : State) : State :=
  let n := lostOf s.table
  let counted := { s with lostCount := n }
  if s.zone = .notInForce ∧ s.lostCount < s.params.zoneThreshold ∧ s.params.zoneThreshold ≤ n then
    counted.zoneEnter .count
  else if s.zone = .inForce .count ∧ n < s.lostCount ∧ n ≤ s.params.zoneExit then counted.zoneEnd fx
  else counted

/-- The cause FEED ends: the lost count is read against the exit level (R103). -/
def State.feedCauseEnds (fx : Nat → State → State) (s : State) : State :=
  if s.zone = .inForce .feed then
    (if s.params.zoneExit < s.lostCount then s.zoneCause .count else s.zoneEnd fx)
  else s

/-! ## Sweeps of the presence timers (R30) -/

/-- The presence timers of an entry changed alike. -/
def Entry.mapPresence (f : Timer → Timer) (e : Entry) : Entry :=
  { e with loss := f e.loss, forget := f e.forget, lostForget := f e.lostForget }

/-- One entry of the pause sweep; on entry from JOINING its cue is selected too (R30, R178). The timers pause while the station
is FEED_DOWN (notes/assumptions/28.md). -/
def State.pauseEntry (fx : Nat → State → State) (fromJoining : Bool) (mic : Nat) (s : State) : State :=
  let paused := if s.station = .feedDown then s.modEntry mic (Entry.mapPresence (Timer.pause s.now)) else s
  let given := (paused.giveInputs mic).updateLost fx
  if fromJoining then given.selectCue mic else given

/-- One entry of the resume sweep (R30, R179). -/
def State.resumeEntry (fx : Nat → State → State) (mic : Nat) (s : State) : State :=
  ((s.modEntry mic (Entry.mapPresence (Timer.resume s.now))).giveInputs mic).updateLost fx

def State.pauseSweep (fx : Nat → State → State) (fromJoining : Bool) (s : State) : State :=
  s.sweep fx (State.pauseEntry fx fromJoining)

def State.resumeSweep (fx : Nat → State → State) (s : State) : State := s.sweep fx (State.resumeEntry fx)

/-! ## Removal, faults and LISTEN_ONLY -/

/-- An entry is removed (R34). -/
def State.removeEntry (fx : Nat → State → State) (mic : Nat) (s : State) : State :=
  (((s.dropEntry mic).removeWhere (Frame.warnOf mic)).updateLost fx).selectWarningLamps

/-- One entry of the role sweep (R114). -/
def State.quietEntry (mic : Nat) (s : State) : State :=
  (s.makeFollower mic).modEntry mic fun e => { e with pendingTimer := .stopped, takeover := .stopped }

/-- The station enters LISTEN_ONLY (R181, R158). The fault record has been set by the cause. -/
def State.enterListenOnly (fx : Nat → State → State) (s : State) : State :=
  let quiet := ({ s with station := .listenOnly, joining := .stopped }).sweep fx State.quietEntry
  let emptied := ({ quiet with claimRound := .stopped }).discardWhere fun f => !f.isStation
  let stopped := { emptied with stationRepeat := .stopped }
  let resumed := if s.station = .feedDown then (stopped.resumeSweep fx).feedCauseEnds fx else stopped
  (resumed.requestStation false).stationHandOff

/-- SC takes an integrity fault of the entry of `mic` (R180; notes/assumptions/24.md). -/
def State.faultReport (fx : Nat → State → State) (mic : Nat) (s : State) : State :=
  match s.station with
  | .starting => s
  | .listenOnly => s.requestStation false
  | .joining | .running | .feedDown =>
    if s.window.isRunning then
      ({ s with fault := some .doubleFault, window := .stopped }).enterListenOnly fx
    else ({ s with fault := some (.table mic), window := s.after windowMs }).requestStation false

/-- An integrity fault (R36); `fuel` bounds the faults that its own sweeps can find. -/
def integrityFault : Nat → Nat → State → State
  | 0, _, s => s
  | fuel + 1, mic, s =>
    ((s.removeEntry (integrityFault fuel) mic).count .integrityFaults).faultReport (integrityFault fuel) mic

/-- What a failed verification of the entry of `mic` does (R36). -/
def State.entryFault (mic : Nat) (s : State) : State := integrityFault s.table.length mic s

/-! ## Presence changes outside a sighting -/

/-- The role consequence of a change of presence (R23 step 1, R112, R114, R116). -/
def State.presenceRole (mic : Nat) (s : State) : State :=
  match s.entry? mic with
  | none => s
  | some e =>
    match e.presence with
    | .heard => s
    | .covered =>
      (s.makeFollower mic).modEntry mic fun e => { e with pendingTimer := .stopped, takeover := .stopped }
    | .silent =>
      if e.role = .reporter then s
      else
        s.modEntry mic fun e =>
          { e with
            role := .follower
            pendingTimer := .stopped
            takeover := if s.station = .listenOnly then e.takeover else s.after s.params.repeatMs }

/-- A change of presence is handed on (R23). -/
def State.presenceHandOff (mic : Nat) (s : State) : State :=
  (((((s.presenceRole mic).giveInputs mic).updateLost State.entryFault).selectCue mic)).selectWarningLamps

/-- The entry becomes COVERED; with its forget timer expired it is removed at once (R24, R26, R27; notes/assumptions/19.md). -/
def State.becomeCovered (mic : Nat) (s : State) : State :=
  let moved := s.modEntry mic fun e => { e with presence := .covered, loss := .stopped, lostForget := .stopped }
  match s.entry? mic with
  | none => s
  | some e => if e.forget = .expired then moved.removeEntry State.entryFault mic else moved.presenceHandOff mic

/-- The entry becomes SILENT (R24, R25, R28). -/
def State.becomeSilent (mic : Nat) (s : State) : State :=
  (s.modEntry mic fun e =>
    { e with presence := .silent, loss := .stopped, lostForget := s.presenceTimer s.params.lostForgetMs }).presenceHandOff mic

/-- A change of a claim list is handed on: presence, then the role of a HEARD entry (R110). -/
def State.claimsChanged (mic : Nat) (s : State) : State :=
  match s.entry? mic with
  | none => s
  | some e =>
    let moved :=
      if e.presence = .silent ∧ e.claims ≠ [] then s.becomeCovered mic
      else if e.presence = .covered ∧ e.claims = [] then s.becomeSilent mic
      else s
    moved.computeRole mic

/-- A claim for the entry of `mic` is entered in its list; a dropped claim changes nothing (R108, R110). A list holds claims of
stations PRESENT in the roster only (R109; notes/assumptions/18.md). -/
def State.enterClaimFor (mic : Nat) (c : Claim) (s : State) : State :=
  match s.entry? mic with
  | none => s
  | some e =>
    match (if s.hasPeer c.station then enterClaim s.params c e.claims else none) with
    | none => s
    | some l => (s.modEntry mic fun e => { e with claims := l }).claimsChanged mic

/-- The claim of `station` leaves the list of the entry of `mic` (R107, R111). -/
def State.removeClaim (mic station : Nat) (s : State) : State :=
  match s.entry? mic with
  | none => s
  | some e =>
    if e.claims.any fun c => c.station == station then
      (s.modEntry mic fun e => { e with claims := withoutStation station e.claims }).claimsChanged mic
    else s

/-! ## Station states -/

/-- One entry of the adoption sweep on entering RUNNING (R117, R161, R177; notes/assumptions/29.md). -/
def State.adoptionEntry (mic : Nat) (s : State) : State :=
  match s.entry? mic with
  | none => s
  | some e => if e.role = .reporter then (s.adoptAll mic).selectCue mic else s

/-- Steps 2 to 4 of R177. The claim-round timer runs only in RUNNING (R121). -/
def State.runningWork (s : State) : State :=
  let asked := s.requestStation true
  let timed := if asked.station = .running then { asked with claimRound := asked.after asked.params.claimInterval } else asked
  timed.sweep State.entryFault State.adoptionEntry

/-- The station enters RUNNING from JOINING (R177). -/
def State.enterRunning (s : State) : State := ({ s with station := .running }).runningWork.stationHandOff

/-- The zone follows the entry into FEED_DOWN (R102). -/
def State.zoneFeed (s : State) : State :=
  if s.zone = .notInForce then s.zoneEnter .feed else s.zoneCause .feed

/-- The station enters FEED_DOWN (R178). -/
def State.enterFeedDown (fromJoining : Bool) (s : State) : State :=
  let zoned := ({ s with station := .feedDown, claimRound := .stopped }).zoneFeed
  ((zoned.pauseSweep State.entryFault fromJoining).requestStation fromJoining).stationHandOff

/-- The station leaves FEED_DOWN at feed return (R179). -/
def State.leaveFeedDown (s : State) : State :=
  let resumed := ({ s with station := .running }).resumeSweep State.entryFault
  ((resumed.feedCauseEnds State.entryFault).runningWork).stationHandOff

end Sys2Proof.Machine
end

