-- ==== Sys2Proof/Machine/EntryTimers.lean ====
section
/-! DEFINITION. The expiries of the timers held in an entry: LOSS, FORGET, LOST_FORGET (section 2), EPOCH, STALE (section 3),
PERSISTENCE, REPEAT (section 4), CLAIM, PENDING, TAKEOVER (section 7). Each verifies the entry before anything else (R35), and an
expiry of a timer that is not due does nothing (notes/assumptions/2.md). -/

namespace Sys2Proof.Machine

/-- The expiry of a timer of the entry of `mic`: when it is due, the entry is verified and `act` follows (R35, R36). -/
def State.expiry (mic : Nat) (timer : Entry → Timer) (act : Entry → State → State) (s : State) : State :=
  match s.entry? mic with
  | none => s
  | some e => if (timer e).isDue s.now then s.verified State.entryFault mic act else s

/-! ## Presence -/

/-- R24. -/
def State.lossExpiry (mic : Nat) (s : State) : State :=
  s.expiry mic Entry.loss fun e s => if e.claims = [] then s.becomeSilent mic else s.becomeCovered mic

/-- LOSS_TIMER_EXPIRY (R24). -/
def execLossTimerExpiry (mic : Nat) (s : State) : Host.Outcome State Fault Refusal := .next (s.lossExpiry mic)

/-- R27. -/
def State.forgetExpiry (mic : Nat) (s : State) : State :=
  s.expiry mic Entry.forget fun e s =>
    if e.presence = .covered then s.removeEntry State.entryFault mic
    else s.modEntry mic fun e => { e with forget := .expired }

/-- FORGET_TIMER_EXPIRY (R27). -/
def execForgetTimerExpiry (mic : Nat) (s : State) : Host.Outcome State Fault Refusal := .next (s.forgetExpiry mic)

/-- R28. -/
def State.lostForgetExpiry (mic : Nat) (s : State) : State :=
  s.expiry mic Entry.lostForget fun e s =>
    if e.recSignal.state = .quiet ∨ e.recSignal.acked then s.removeEntry State.entryFault mic
    else s.modEntry mic fun e => { e with lostForget := .expired }

/-- LOST_FORGET_EXPIRY (R28). -/
def execLostForgetExpiry (mic : Nat) (s : State) : Host.Outcome State Fault Refusal := .next (s.lostForgetExpiry mic)

/-! ## Battery -/

/-- R44: an epoch with samples is ended and the input given; an epoch without is skipped. -/
def State.epochExpiry (mic : Nat) (s : State) : State :=
  s.expiry mic (fun e => e.battery.epoch) fun e s =>
    match e.battery.epochSample with
    | none =>
      s.modEntry mic fun e => { e with battery := { e.battery with epoch := .running (s.now + s.params.epochMs) } }
    | some c =>
      (s.modEntry mic fun e => { e with battery := e.battery.endEpoch s.params s.now c }).giveInput mic .battery

/-- EPOCH_TIMER_EXPIRY (R44). -/
def execEpochTimerExpiry (mic : Nat) (s : State) : Host.Outcome State Fault Refusal := .next (s.epochExpiry mic)

/-- R42. -/
def State.staleExpiry (mic : Nat) (s : State) : State :=
  s.expiry mic (fun e => e.battery.stale) fun _ s =>
    (s.modEntry mic fun e => { e with battery := { e.battery with stale := .expired } }).giveInput mic .battery

/-- STALE_TIMER_EXPIRY (R42). -/
def execStaleTimerExpiry (mic : Nat) (s : State) : Host.Outcome State Fault Refusal := .next (s.staleExpiry mic)

/-! ## Warning records -/

/-- A transition that changed a record's level is handed on (R80). An acknowledgement carried over (R69) that lets a held SILENT
entry go removes it (R29), in place of the hand-offs (notes/assumptions/32.md). -/
def State.levelHandOff (mic : Nat) (k : Kind) (s : State) : State :=
  match s.entry? mic with
  | none => s
  | some e =>
    if k = .signal ∧ e.letGo then s.removeEntry State.entryFault mic
    else
      let counted := if k = .signal then s.updateLost State.entryFault else s
      (counted.selectCue mic).selectLamp (lampOf k)

/-- The expiry of a persistence timer by the record's state (R62, R65, R67). -/
def State.persistenceEnds (mic : Nat) (k : Kind) (e : Entry) (s : State) : State :=
  match (e.record k).state with
  | .qualifying => ((s.modRecord mic k (Record.raised s.now)).announce mic k .raise).levelHandOff mic k
  | .shifting => ((s.modRecord mic k Record.shifted).announce mic k .shift).levelHandOff mic k
  | .releasing => ((s.modRecord mic k (Record.released s.now)).announce mic k .clear).levelHandOff mic k
  | .quiet => s
  | .active => s

def State.persistenceExpiry (mic : Nat) (k : Kind) (s : State) : State :=
  s.expiry mic (fun e => (e.record k).persist) (State.persistenceEnds mic k)

/-- PERSISTENCE_TIMER_EXPIRY (R62). -/
def execPersistenceTimerExpiry (mic : Nat) (k : Kind) (s : State) : Host.Outcome State Fault Refusal :=
  .next (s.persistenceExpiry mic k)

/-- R77. -/
def State.repeatExpiry (mic : Nat) (k : Kind) (s : State) : State :=
  s.expiry mic (fun e => (e.record k).repeatTimer) fun _ s =>
    (s.requestWarn mic k .repeated).modRecord mic k fun r => { r with repeatTimer := s.after s.params.repeatMs }

/-- REPEAT_TIMER_EXPIRY (R77). -/
def execRepeatTimerExpiry (mic : Nat) (k : Kind) (s : State) : Host.Outcome State Fault Refusal :=
  .next (s.repeatExpiry mic k)

/-! ## Claims and roles -/

/-- The timer of a listed claim: it expires `claim_fresh` after the arrival (R111). -/
def Entry.claimTimer (p : Params) (station : Nat) (e : Entry) : Timer :=
  match e.claims.find? fun c => c.station == station with
  | some c => .running (c.arrival + p.claimFresh)
  | none => .stopped

/-- R111. -/
def State.claimExpires (mic station : Nat) (s : State) : State :=
  s.expiry mic (Entry.claimTimer s.params station) fun _ s => s.removeClaim mic station

/-- CLAIM_EXPIRY (R111). -/
def execClaimExpiry (mic station : Nat) (s : State) : Host.Outcome State Fault Refusal := .next (s.claimExpires mic station)

/-- R112: the role of a HEARD entry is computed with the own score taken without margin. -/
def State.pendingExpiry (mic : Nat) (s : State) : State :=
  s.expiry mic Entry.pendingTimer fun e s =>
    let stopped := s.modEntry mic fun e => { e with pendingTimer := .stopped }
    if e.presence = .heard ∧ s.station ≠ .listenOnly then stopped.decideRole mic e.q else stopped

/-- PENDING_TIMER_EXPIRY (R112). -/
def execPendingTimerExpiry (mic : Nat) (s : State) : Host.Outcome State Fault Refusal := .next (s.pendingExpiry mic)

/-- R116. -/
def State.takeoverExpiry (mic : Nat) (s : State) : State :=
  s.expiry mic Entry.takeover fun e s =>
    let stopped := s.modEntry mic fun e => { e with takeover := .stopped }
    if e.recSignal.chamber = .told .higher then stopped else stopped.gainReporter mic

/-- TAKEOVER_TIMER_EXPIRY (R116). -/
def execTakeoverTimerExpiry (mic : Nat) (s : State) : Host.Outcome State Fault Refusal := .next (s.takeoverExpiry mic)

end Sys2Proof.Machine
end

