-- ==== Sys2Proof/Machine/Cues.lean ====
section
/-! DEFINITION. CUE_REFRESH_EXPIRY, CUE_TRANSFER_START, CUE_TRANSFER_COMPLETE and PHASE_TIMER_EXPIRY (section 10). -/

namespace Sys2Proof.Machine

/-- R162: the cue is offered again and the timer restarted, whatever became of the offer. -/
def State.refreshExpiry (mic : Nat) (s : State) : State :=
  s.expiry mic Entry.cueRefresh fun e s =>
    (s.offerCue ⟨mic, e.cue⟩).modEntry mic fun e => { e with cueRefresh := s.after s.params.cueRefreshMs }

/-- CUE_REFRESH_EXPIRY (R162). -/
def execCueRefreshExpiry (mic : Nat) (s : State) : Host.Outcome State Fault Refusal := .next (s.refreshExpiry mic)

/-- The head cue leaves the queue when none is in transfer and CRDY is asserted; not in STARTING (R164). The
start waits for this command (notes/assumptions/38.md). -/
def State.startTransfer (crdy : Bool) (s : State) : State :=
  match s.cueTransfer, s.cueQueue with
  | none, c :: rest =>
    if crdy ∧ s.station ≠ .starting then { s with cueQueue := rest, cueTransfer := some c } else s
  | _, _ => s

/-- CUE_TRANSFER_START (R164). -/
def execCueTransferStart (crdy : Bool) (s : State) : Host.Outcome State Fault Refusal := .next (s.startTransfer crdy)

/-- The last bit of a cue word has been clocked out (R164). -/
def State.endTransfer (s : State) : State :=
  match s.cueTransfer with
  | some _ => ({ s with cueTransfer := none }).count .cuesSent
  | none => s

/-- CUE_TRANSFER_COMPLETE (R164). -/
def execCueTransferComplete (s : State) : Host.Outcome State Fault Refusal := .next s.endTransfer

/-- R172. -/
def State.phaseExpiry (l : Lamp) (s : State) : State :=
  if (s.gen l).timer.isDue s.now then s.setGen l ((s.gen l).phaseEnd s.params s.now) else s

/-- PHASE_TIMER_EXPIRY (R172). -/
def execPhaseTimerExpiry (l : Lamp) (s : State) : Host.Outcome State Fault Refusal := .next (s.phaseExpiry l)

end Sys2Proof.Machine
end

