-- ==== Sys2Proof/Machine/Wire.lean ====
section
/-! DEFINITION. Bytes on the wires: the CRC (R126), the layouts of section 12 that this part composes (R188), the order of
bits on the peer line and the cue port (R124, R164), and the transaction on the configuration bus (R184). -/

namespace Sys2Proof.Machine

/-! ## Bits and bytes -/

/-- A 16-bit field, high byte first (section 12). -/
def word16 (n : Nat) : List Byte := [BitVec.ofNat 8 (n / 256), BitVec.ofNat 8 n]

/-- One byte of a field. -/
def byte (n : Nat) : Byte := BitVec.ofNat 8 n

/-- A flag as 0 or 1. -/
def flag (b : Bool) : Nat := if b then 1 else 0

/-- The number a run of bytes holds, high byte first. -/
def beNat (bytes : List Byte) : Nat := bytes.foldl (fun n b => 256 * n + b.toNat) 0

/-! ## CRC (R126) -/

/-- One bit into the CRC register: generator x^16 + x^12 + x^5 + 1. -/
def crcBit (reg : BitVec 16) (bit : Bool) : BitVec 16 :=
  if xor (reg.getLsbD 15) bit then (reg <<< 1) ^^^ 0x1021#16 else reg <<< 1

/-- One byte into the CRC register, most significant bit first. -/
def crcByte (reg : BitVec 16) (b : Byte) : BitVec 16 :=
  [7, 6, 5, 4, 3, 2, 1, 0].foldl (fun r i => crcBit r (b.getLsbD i)) reg

/-- The CRC: the register starts at all ones and is not inverted at the end. -/
def crc16 (bytes : List Byte) : BitVec 16 := bytes.foldl crcByte 0xFFFF#16

/-! ## Codes (section 12) -/

def kindCode : Kind → Nat
  | .battery => 0
  | .mute => 1
  | .signal => 2

def levelCode : Level → Nat
  | .none => 0
  | .lower => 1
  | .higher => 2

def reasonCode : Reason → Nat
  | .raise => 0
  | .shift => 1
  | .clear => 2
  | .repeated => 3
  | .adopt => 4

def stationCode : StationState → Nat
  | .starting => 0
  | .joining => 1
  | .running => 2
  | .feedDown => 3
  | .listenOnly => 4

def presenceCode : Presence → Nat
  | .heard => 0
  | .covered => 1
  | .silent => 2

def roleCode : Role → Nat
  | .pending => 0
  | .reporter => 1
  | .follower => 2

def muteCode : MuteState → Nat
  | .unknown => 0
  | .muted => 1
  | .open_ => 2

def recStateCode : RecState → Nat
  | .quiet => 0
  | .qualifying => 1
  | .active => 2
  | .shifting => 3
  | .releasing => 4

def sourceCode : Source → Nat
  | .site => 0
  | .factory => 1
  | .defaults => 2

def faultCode : Option FaultCause → Nat
  | none => 0
  | some (.table _) => 1
  | some .doubleFault => 2
  | some .duplicateId => 3
  | some .badId => 4

/-- The mic ID beside a fault cause: that of TABLE, otherwise 0 (section 12.2). -/
def faultMic : Option FaultCause → Nat
  | some (.table mic) => mic
  | _ => 0

def zoneFlag : Zone → Bool
  | .notInForce => false
  | .inForce _ => true

/-- The zone cause bit: 0 COUNT, 1 FEED, and 0 while the zone flag is clear (R188). -/
def zoneCauseBit : Zone → Nat
  | .inForce .feed => 1
  | _ => 0

/-- The kind code of a composed frame (section 12.2). -/
def frameKind : Frame → Nat
  | .claim .. => 1
  | .warn _ => 2
  | .station _ => 3
  | .entry .. => 4
  | .stats _ => 5

/-! ## Payloads (section 12.2, R188) -/

/-- A mic ID field with its flag in bit 15. -/
def micField (mic : Nat) (top : Bool) : List Byte := word16 (mic + 32768 * flag top)

def pairBytes (p : Pair) : List Byte := micField p.mic p.reporter ++ [byte p.q]

def warnPayload (w : Warn) : List Byte :=
  micField w.mic false ++
  [byte (kindCode w.kind + 4 * levelCode w.level + 16 * reasonCode w.reason),
   byte (flag w.acked + 2 * flag w.hears + 4 * flag w.reporter + 8 * flag w.minutes.isSome),
   byte w.q] ++ word16 w.residency ++ [byte w.raiseCount] ++
  (match w.minutes with
   | some m => word16 m
   | none => [])

def stationPayload (r : StationReport) : List Byte :=
  [byte (stationCode r.state),
   byte (flag (zoneFlag r.zone) + 2 * zoneCauseBit r.zone + 4 * sourceCode r.source + 16 * flag r.partialImage +
     32 * faultCode r.fault),
   byte r.occupancy] ++ micField (faultMic r.fault) false

def recordBytes (r : RecordReport) : List Byte :=
  [byte (recStateCode r.state + 16 * levelCode r.level), byte (flag r.acked), byte r.raiseCount] ++ word16 r.residency ++
  [byte (flag r.logLower + 2 * flag r.logHigher)]

/-- A present ENTRY whose C, Vf or M is absent carries 0 in that field (section 12.2). -/
def entryReportBytes (r : EntryReport) : List Byte :=
  [byte (presenceCode r.presence)] ++ word16 r.sightings ++ word16 r.longestGap ++
  [byte r.qs, byte r.q, byte (roleCode r.role), byte r.claims, byte (muteCode r.mute),
   byte (flag r.cell.isSome + 2 * flag r.minutes.isSome)] ++
  word16 ((r.cell.map (·.1)).getD 0) ++ word16 ((r.cell.map (·.2)).getD 0) ++ word16 (r.minutes.getD 0) ++
  recordBytes r.battery ++ recordBytes r.muteRec ++ recordBytes r.signal

def entryPayload (mic : Nat) : Option EntryReport → List Byte
  | none => micField mic false
  | some r => micField mic true ++ entryReportBytes r

/-- The counters in the order of the counter table (section 11.5.2). -/
def Counters.toList (c : Counters) : List Nat :=
  [c.feedFormat, c.feedCheck, c.feedRange, c.feedAccepted, c.intakeOverrun, c.tableFull, c.integrityFaults, c.staleAcks,
   c.framesSent, c.framesDeferred, c.collisions, c.framesDropped, c.rxGood, c.rxBad, c.rxRefused, c.rxOverrun,
   c.cuesSent, c.cuesDropped, c.configClamps]

def payload : Frame → List Byte
  | .claim _ pairs => byte pairs.length :: pairs.flatMap pairBytes
  | .warn w => warnPayload w
  | .station r => stationPayload r
  | .entry mic report => entryPayload mic report
  | .stats c => c.toList.flatMap word16

/-- The sync byte of every frame, 96H (section 12.2). -/
def syncByte : Byte := 0x96#8

/-- The bytes of a frame in line order (R125): sync, header, length, payload, CRC over header to payload. -/
def frameBytes (number : Nat) (f : Frame) : List Byte :=
  let covered := byte (16 * number + frameKind f) :: byte (payload f).length :: payload f
  syncByte :: covered ++ word16 (crc16 covered).toNat

/-! ## Serial order -/

/-- One byte on the peer line: start bit 0, eight data bits least significant first, stop bit 1 (R124). -/
def lineBits (b : Byte) : List Bool :=
  false :: [0, 1, 2, 3, 4, 5, 6, 7].map (fun i => b.getLsbD i) ++ [true]

/-- The bits of a frame on the line, byte after byte (R124). -/
def frameBits (number : Nat) (f : Frame) : List Bool := (frameBytes number f).flatMap lineBits

/-- The line carries the AND of the bits sent in one bit time; `true` is a released line (R124). -/
def wiredAnd (a b : Bool) : Bool := a && b

/-- The place of the first bit read back as 0 where the part drove a 1 (R132). -/
def firstMismatch : List Bool → List Bool → Option Nat
  | sent :: ss, line :: ls => if sent && !line then some 0 else (firstMismatch ss ls).map (· + 1)
  | _, _ => none

/-- A byte most significant bit first, as on the feed port, the cue port and the configuration bus (section 12). -/
def msbFirst (b : Byte) : List Bool := [7, 6, 5, 4, 3, 2, 1, 0].map fun i => b.getLsbD i

/-- The check byte that makes the sum of the bytes 0 modulo 256 (section 12.1). -/
def checkByte (bytes : List Byte) : Byte := byte (256 - (bytes.map BitVec.toNat).sum % 256)

/-- The four bytes of a cue word (section 12.1). -/
def cueWord (c : Cue) : List Byte :=
  let body := micField c.mic false ++ [byte c.pattern]
  body ++ [checkByte body]

/-- The 32 bits of a cue word on QDAT (R164). -/
def cueBits (c : Cue) : List Bool := (cueWord c).flatMap msbFirst

/-- A step of a transaction on the configuration bus (R184). -/
inductive BusStep where
  | start
  /-- a byte from the part, acknowledged by the memory -/
  | send (b : Byte)
  /-- a byte from the memory, and whether the part acknowledges it -/
  | read (acknowledge : Bool)
  | stop
  deriving DecidableEq, Repr

/-- The offset of an area (R184). -/
def areaOffset : Area → Nat
  | .factory => 0
  | .site => 128

/-- The reading of `n` bytes, each acknowledged by the part except the last (R184). -/
def busReads : Nat → List BusStep
  | 0 => []
  | 1 => [.read false]
  | n + 2 => .read true :: busReads (n + 1)

/-- The transaction that reads an area: device address 1010000B, with the write and then the read bit (R184). -/
def areaTransaction (a : Area) : List BusStep :=
  [.start, .send 0xA0#8, .send (byte (areaOffset a)), .start, .send 0xA1#8] ++ busReads areaBytes ++ [.stop]

end Sys2Proof.Machine
end

