-- ==== Sys2Proof/Machine/Operands.lean ====
section
/-! DEFINITION. The operands the commands carry: a sighting record (R2, R3, section 12.1), a frame of the line (R126, R136,
R189, section 12.2) and an area of the configuration memory (R184 to R186, section 12.3). -/

namespace Sys2Proof.Machine

/-! ## The sighting record -/

/-- Bits in the order they came, most significant bit of the first byte first (R1), as whole bytes. -/
def bytesOfBits : List Bool → List Byte
  | b7 :: b6 :: b5 :: b4 :: b3 :: b2 :: b1 :: b0 :: rest =>
    byte (128 * flag b7 + 64 * flag b6 + 32 * flag b5 + 16 * flag b4 + 8 * flag b3 + 4 * flag b2 + 2 * flag b1 + flag b0) ::
      bytesOfBits rest
  | _ => []

/-- What validation makes of a completed record (R2). -/
inductive Validation where
  | badLength
  | badCheck
  | badRange
  | accepted
  deriving DecidableEq, Repr

/-- The mic ID of a record: byte 0 holds bits 8 to 1, bit 7 of byte 1 holds bit 0 (section 12.1). -/
def recordMic (bytes : List Byte) : Nat := 2 * (bytes.getD 0 0).toNat + (bytes.getD 1 0).toNat / 128

/-- The three tests of R2 in their order. -/
def validate (bits : List Bool) : Validation :=
  let bytes := bytesOfBits bits
  if bits.length ≠ 64 then .badLength
  else if (bytes.map BitVec.toNat).sum % 256 ≠ 0 then .badCheck
  else if recordMic bytes = 0 ∨ micMax < recordMic bytes then .badRange
  else .accepted

/-- The received RSSI clamped to −110 to −20 dBm (R3). -/
def clampRssi (x : Int) : Int := if x < -110 then -110 else if -20 < x then -20 else x

/-- The sighting formed from an accepted record at time `now` (R3, section 12.1). -/
def formSighting (now : Nat) (bits : List Bool) : Sighting :=
  let bytes := bytesOfBits bits
  let b1 := bytes.getD 1 0
  let status := b1.getLsbD 5
  { arrival := now
    mic := recordMic bytes
    rssi := clampRssi (bytes.getD 2 0).toInt
    errored := b1.getLsbD 6
    mute := if status then some (b1.getLsbD 3) else none
    battery := if status && b1.getLsbD 4 then some ((bytes.getD 3 0).toNat % 128) else none
    carried := false }

/-! ## Frames of the line -/

/-- A byte from its eight data bits, least significant first (R124). -/
def lineByte (b0 b1 b2 b3 b4 b5 b6 b7 : Bool) : Byte :=
  byte (flag b0 + 2 * flag b1 + 4 * flag b2 + 8 * flag b3 + 16 * flag b4 + 32 * flag b5 + 64 * flag b6 + 128 * flag b7)

/-- What the assembler makes of the line, one bit per bit time (R124, R125), `gap` released bit times after the last stop bit: a 0
is a start bit, the eight data bits and the stop bit follow, a stop bit read 0 is a framing error and assembly goes on, and the
frame ends when the gap passes 2 bit times. The bytes, and whether one had a framing error. -/
def assemble (gap : Nat) : List Bool → List Byte × Bool
  | false :: b0 :: b1 :: b2 :: b3 :: b4 :: b5 :: b6 :: b7 :: stop :: rest =>
    let more := assemble 0 rest
    (lineByte b0 b1 b2 b3 b4 b5 b6 b7 :: more.1, !stop || more.2)
  | true :: rest => if gap < 2 then assemble (gap + 1) rest else ([], false)
  | _ => ([], false)

/-- The bytes of a completed frame from what LRX read, and whether one had a framing error. After the last bit given the line
stays released until the gap ends the frame (R125). -/
def lineRead (bits : List Bool) : List Byte × Bool := assemble 0 (bits ++ List.replicate 9 true)

def kindOfCode : Nat → Option Kind
  | 0 => some .battery
  | 1 => some .mute
  | 2 => some .signal
  | _ => none

def levelOfCode : Nat → Option Level
  | 0 => some .none
  | 1 => some .lower
  | 2 => some .higher
  | _ => none

def reasonOfCode : Nat → Option Reason
  | 0 => some .raise
  | 1 => some .shift
  | 2 => some .clear
  | 3 => some .repeated
  | 4 => some .adopt
  | _ => none

/-- The field of two bytes, high byte first. -/
def field (hi lo : Byte) : Nat := 256 * hi.toNat + lo.toNat

/-- A mic ID field that may hold a flag in bit 15: the mic ID and the flag; `none` when one of bits 14 to 9 is set (R188). -/
def readMicFlag (hi lo : Byte) : Option (Nat × Bool) :=
  let n := field hi lo
  if n % 32768 / 512 = 0 then some (n % 512, n / 32768 == 1) else none

/-- A mic ID field without a flag: bits 15 to 9 are 0 (R188). A FLOOR field above 511 makes its frame bad, as R189 says; the example
of section 5.6.1 has such a field ignored in a frame that is taken (notes/assumptions/34.md). -/
def readMic (hi lo : Byte) : Option Nat :=
  if field hi lo / 512 = 0 then some (field hi lo) else none

/-- The pairs of a CLAIM frame: Q at most 240 (R189). -/
def readPairs : List Byte → Option (List Pair)
  | [] => some []
  | hi :: lo :: q :: rest =>
    match readMicFlag hi lo, readPairs rest with
    | some (mic, reporter), some ps => if q.toNat ≤ 240 then some (⟨mic, q.toNat, reporter⟩ :: ps) else none
    | _, _ => none
  | _ => none

def readClaim : List Byte → Option RxBody
  | n :: rest =>
    if n.toNat = 0 ∨ rest.length ≠ 3 * n.toNat then none else (readPairs rest).map .claim
  | [] => none

/-- The first eight bytes of a WARN, with the minutes read apart (section 12.2, R189). -/
def readWarnHead (hi lo b2 b3 q rhi rlo raises : Byte) (minutes : Option Nat) : Option RxBody :=
  match readMic hi lo, kindOfCode (b2.toNat % 4), levelOfCode (b2.toNat / 4 % 4), reasonOfCode (b2.toNat / 16) with
  | some mic, some kind, some level, some reason =>
    if b3.toNat / 16 ≠ 0 ∨ 240 < q.toNat ∨ (minutes.isSome ∧ kind ≠ .battery) ∨ 999 < minutes.getD 0 then none
    else some (.warn
      { mic := mic, kind := kind, level := level, reason := reason, acked := b3.getLsbD 0, hears := b3.getLsbD 1,
        reporter := b3.getLsbD 2, q := q.toNat, residency := field rhi rlo, raiseCount := raises.toNat,
        minutes := minutes })
  | _, _, _, _ => none

def readWarn : List Byte → Option RxBody
  | [hi, lo, b2, b3, q, rhi, rlo, raises] =>
    if b3.getLsbD 3 then none else readWarnHead hi lo b2 b3 q rhi rlo raises none
  | [hi, lo, b2, b3, q, rhi, rlo, raises, mhi, mlo] =>
    if b3.getLsbD 3 then readWarnHead hi lo b2 b3 q rhi rlo raises (some (field mhi mlo)) else none
  | _ => none

/-- The payload rules of a STATION frame (R189). The zone cause bit is 0 while the zone flag is clear, and the mic ID field
is 0 unless the cause is TABLE (R188, section 12.2; notes/assumptions/22.md). -/
def stationGood : List Byte → Bool
  | [b0, b1, occ, hi, lo] =>
    decide (b0.toNat ≤ 4) && decide (b1.toNat / 4 % 4 ≠ 3) && decide (b1.toNat / 32 ≤ 4) && decide (occ.toNat ≤ 96) &&
    (readMic hi lo).isSome && !(b1.getLsbD 1 && !b1.getLsbD 0) &&
    (decide (b1.toNat / 32 = 1) || decide (field hi lo = 0))
  | _ => false

/-- The zero bits of one record's six bytes in an ENTRY frame (R188). -/
def recordZeros : List Byte → Bool
  | [sl, ack, _, _, _, log] =>
    decide (sl.toNat / 64 = 0) && !sl.getLsbD 3 && decide (ack.toNat / 2 = 0) && decide (log.toNat / 4 = 0)
  | _ => false

/-- The payload rules of an ENTRY frame: length 2 with the present flag clear, 37 with it set, and the zero bits (R188,
R189). -/
def entryGood : List Byte → Bool
  | hi :: lo :: rest =>
    match readMicFlag hi lo with
    | some (_, false) => rest.isEmpty
    | some (_, true) =>
      decide (rest.length = 35) && decide ((rest.getD 10 0).toNat / 4 = 0) && recordZeros ((rest.drop 17).take 6) &&
      recordZeros ((rest.drop 23).take 6) && recordZeros ((rest.drop 29).take 6)
    | none => false
  | _ => false

def readMics : List Byte → Option (List Nat)
  | [] => some []
  | hi :: lo :: rest =>
    match readMic hi lo, readMics rest with
    | some mic, some ms => some (mic :: ms)
    | _, _ => none
  | _ => none

def readFloor : List Byte → Option RxBody
  | n :: rest => if rest.length ≠ 2 * n.toNat then none else (readMics rest).map .floor
  | [] => none

def readAck : List Byte → Option RxBody
  | [hi, lo, b2] =>
    match readMic hi lo, kindOfCode (b2.toNat % 4), levelOfCode (b2.toNat / 4 % 4) with
    | some mic, some kind, some level => if b2.toNat / 16 ≠ 0 then none else some (.ack mic kind level)
    | _, _, _ => none
  | _ => none

def readQuery : List Byte → Option RxBody
  | [b0] => if b0.toNat / 16 = 1 then some (.query (b0.toNat % 16) .stats) else none
  | [b0, hi, lo] =>
    match readMic hi lo with
    | some mic => if b0.toNat / 16 = 0 then some (.query (b0.toNat % 16) (.entry mic)) else none
    | none => none
  | _ => none

/-- What a payload of kind code `kind` says. -/
inductive PayloadReading where
  /-- a payload rule of a known kind is broken (R189) -/
  | bad
  /-- a kind code that is none of the nine (section 12.2) -/
  | unknownKind
  | good (body : RxBody)
  deriving DecidableEq, Repr

def PayloadReading.ofOption : Option RxBody → PayloadReading
  | some b => .good b
  | none => .bad

/-- The payload rules by kind code (section 12.2, R189). -/
def readPayload (kind : Nat) (p : List Byte) : PayloadReading :=
  match kind with
  | 1 => .ofOption (readClaim p)
  | 2 => .ofOption (readWarn p)
  | 3 => if stationGood p then .good (.report .station p) else .bad
  | 4 => if entryGood p then .good (.report .entry p) else .bad
  | 5 => if p.length = 38 then .good (.report .stats p) else .bad
  | 8 => .ofOption (readFloor p)
  | 9 => .ofOption (readAck p)
  | 10 => .ofOption (readQuery p)
  | 11 => if p.isEmpty then .good .restart else .bad
  | _ => .unknownKind

/-- What the reception checks make of a completed frame: bad (R126), or good from `source` with what its payload says. -/
inductive Reading where
  | bad
  | good (source : Nat) (body : Option RxBody)
  deriving DecidableEq, Repr

/-- The bad-frame tests of R126 on the bytes of a completed frame. -/
def readFrame (bytes : List Byte) (framing : Bool) : Reading :=
  match bytes with
  | sync :: header :: len :: rest =>
    let covered := header :: len :: rest.take len.toNat
    if framing ∨ sync ≠ syncByte ∨ 120 < len.toNat ∨ rest.length ≠ len.toNat + 2 ∨
        rest.drop len.toNat ≠ word16 (crc16 covered).toNat then .bad
    else
      match readPayload (header.toNat % 16) (rest.take len.toNat) with
      | .bad => .bad
      | .unknownKind => .good (header.toNat / 16) none
      | .good body => .good (header.toNat / 16) (some body)
  | _ => .bad

/-- The kinds a monitor sends, and no console (R136). -/
def RxBody.fromMonitor : RxBody → Bool
  | .claim _ => true
  | .warn _ => true
  | .report .. => true
  | .floor _ => false
  | .ack .. => false
  | .query .. => false
  | .restart => false

/-- Kind and source belong together (R136). -/
def acceptedFrom (source : Nat) (body : RxBody) : Bool :=
  if source = 0 then !body.fromMonitor else body.fromMonitor

/-! ## Configuration areas -/

/-- An area is good when the memory answered with its 128 bytes, and tag, format and CRC match (R184). -/
def areaGood : Option (List Byte) → Bool
  | none => false
  | some bytes =>
    decide (bytes.length = areaBytes) && decide (bytes.getD 0 0 = 0xC6#8) && decide (bytes.getD 1 0 = 1#8) &&
    decide (bytes.drop 126 = word16 (crc16 (bytes.take 126)).toNat)

/-- The stored values of the configured parameters, in table order (section 12.3). -/
def readValues : List ParamSpec → List Byte → List Nat
  | [], _ => []
  | spec :: specs, bytes => beNat (bytes.take spec.width) :: readValues specs (bytes.drop spec.width)

/-- Pairs of 16-bit fields (section 12.3: the knots and the pattern times). -/
def readWordPairs : Nat → List Byte → List (Nat × Nat)
  | 0, _ => []
  | n + 1, bytes => (beNat (bytes.take 2), beNat ((bytes.drop 2).take 2)) :: readWordPairs n (bytes.drop 4)

/-- The single checks of R185: each value clamped to its limits. -/
def clampValues : List ParamSpec → List Nat → List Nat
  | spec :: specs, v :: vs => clampNat v spec.lo spec.hi :: clampValues specs vs
  | _, _ => []

/-- The clamped times of a pattern (section 12.3). -/
def clampCadence (c : Nat × Nat) : Cadence := ⟨clampNat c.1 patternLo patternHi, clampNat c.2 patternLo patternHi⟩

/-- How many values a check changed (R185). -/
def changes : List Nat → List Nat → Nat
  | a :: as, b :: bs => (if a = b then 0 else 1) + changes as bs
  | _, _ => 0

/-- An image from the parameter values in table order, the knots and the pattern times. -/
def imageOf (v : List Nat) (curve : List Knot) (patterns : List Cadence) : Params where
  feedTimeout := v.getD 0 0
  lossTime := v.getD 1 0
  forgetTime := v.getD 2 0
  lostForget := v.getD 3 0
  epochS := v.getD 4 0
  nominalRate := v.getD 5 0
  rateMin := v.getD 6 0
  swapRise := v.getD 7 0
  settleEpochs := v.getD 8 0
  critMinutes := v.getD 9 0
  lowMinutes := v.getD 10 0
  cutoffMV := v.getD 11 0
  lowPermille := v.getD 12 0
  batteryStale := v.getD 13 0
  qualifyBatteryLow := v.getD 14 0
  qualifyBatteryCritical := v.getD 15 0
  releaseBattery := v.getD 16 0
  qualifyMutedOnFloor := v.getD 17 0
  qualifyOpenOffFloor := v.getD 18 0
  releaseMute := v.getD 19 0
  qualifyWeak := v.getD 20 0
  qualifyLost := v.getD 21 0
  releaseSignal := v.getD 22 0
  repeatInterval := v.getD 23 0
  floorTimeout := v.getD 24 0
  weakThreshold := v.getD 25 0
  zoneThreshold := v.getD 26 0
  claimInterval := v.getD 27 0
  roleMargin := v.getD 28 0
  cueRefresh := v.getD 29 0
  curve := curve
  patterns := patterns

/-- Knot voltages strictly increase and per-mille values do not decrease. -/
def curveRises : List Knot → Bool
  | a :: b :: rest => decide (a.mV < b.mV) && decide (a.permille ≤ b.permille) && curveRises (b :: rest)
  | _ => true

/-- The curve group holds (R186). -/
def curveHolds (c : List Knot) : Bool :=
  curveRises c && decide ((c.head?.map Knot.permille) = some 0) && decide ((c.getLast?.map Knot.permille) = some 1000)

/-- The group checks of R186: the image in use and the partial flag. -/
def groupCheck (p : Params) : Params × Bool :=
  let curveOk := curveHolds p.curve
  let batteryOk := decide (p.critMinutes < p.lowMinutes)
  let rateOk := decide (p.rateMin ≤ p.nominalRate)
  ({ p with
      curve := if curveOk then p.curve else defaultCurve
      critMinutes := if batteryOk then p.critMinutes else defaultParams.critMinutes
      lowMinutes := if batteryOk then p.lowMinutes else defaultParams.lowMinutes
      rateMin := if rateOk then p.rateMin else defaultParams.rateMin
      nominalRate := if rateOk then p.nominalRate else defaultParams.nominalRate },
   !(curveOk && batteryOk && rateOk))

/-- What a load forms from an area: the image, its partial flag and the number of clamps. -/
structure Image where
  params : Params
  partialImage : Bool
  clamps : Nat
  deriving DecidableEq, Repr

/-- The image of a good area (R185, R186, section 12.3). -/
def imageOfArea (bytes : List Byte) : Image :=
  let raw := readValues paramSpecs (bytes.drop 2)
  let values := clampValues paramSpecs raw
  let knots := (readWordPairs 9 (bytes.drop 60)).map fun k => (⟨k.1, k.2⟩ : Knot)
  let rawTimes := readWordPairs 6 (bytes.drop 96)
  let times := rawTimes.map clampCadence
  let formed := groupCheck (imageOf values knots times)
  { params := formed.1
    partialImage := formed.2
    clamps := changes raw values + changes (rawTimes.map (·.1)) (times.map Cadence.on) +
      changes (rawTimes.map (·.2)) (times.map Cadence.off) }

/-- The image when both areas are bad: the built-in defaults, whole and unclamped (R184 to R186). -/
def imageOfDefaults : Image := ⟨defaultParams, false, 0⟩

end Sys2Proof.Machine
end

