-- ==== Sys2Proof/Machine/Feed.lean ====
section
/-! DEFINITION. STROBE_ASSERTED, RECORD_COMPLETION, FEED_SILENCE_EXPIRY and SIGHTING_TAKEN (sections 1 and 2): the feed port,
feed silence and return, and the processing of a sighting through all the blocks. -/

namespace Sys2Proof.Machine

/-! ## The feed port -/

/-- FSTB is asserted (R1). -/
def State.strobeOn (s : State) : State :=
  { s with strobe := if s.station = .starting then .unheard else .collecting [] }

/-- STROBE_ASSERTED (R1). -/
def execStrobeAsserted (s : State) : Host.Outcome State Fault Refusal := .next s.strobeOn

/-- One entry of the gap-void marking (R13). -/
def State.voidGap (mic : Nat) (s : State) : State := s.modEntry mic fun e => { e with gapVoid := true }

/-- The carried mark set (R14). -/
def Sighting.carry (g : Sighting) : Sighting := { g with carried := true }

/-- The feed return, but for the offer of the arriving sighting (R16 steps 1 to 4). -/
def State.feedReturn (s : State) : State :=
  let live := { s with feed := .live, feedTimer := s.after s.params.feedTimeout }
  let marked := live.sweep State.entryFault State.voidGap
  let queued : State := { marked with intake := marked.intake.map Sighting.carry }
  if queued.station = .feedDown then queued.leaveFeedDown else queued

/-- A sighting offered to the intake queue (R4). -/
def State.offerSighting (g : Sighting) (s : State) : State :=
  if s.intake.length < intakeMax then { s with intake := s.intake ++ [g] } else s.count .intakeOverrun

/-- An accepted record (R3, R15, R16). -/
def State.acceptRecord (bits : List Bool) (s : State) : State :=
  let counted := s.count .feedAccepted
  let fed := match s.feed with
    | .silent => counted.feedReturn
    | .live => { counted with feedTimer := counted.after counted.params.feedTimeout }
  fed.offerSighting (formSighting s.now bits)

/-- A completed record is validated (R2). -/
def State.validateRecord (bits : List Bool) (s : State) : State :=
  match validate bits with
  | .badLength => s.count .feedFormat
  | .badCheck => s.count .feedCheck
  | .badRange => s.count .feedRange
  | .accepted => s.acceptRecord bits

/-- FSTB is deasserted: the collected bits and those of the command are the record (R1). -/
def State.recordDone (bits : List Bool) (s : State) : State :=
  let idle := { s with strobe := .low }
  if s.station = .starting then idle
  else
    match s.strobe with
    | .collecting c => idle.validateRecord (c ++ bits)
    | .low => s
    | .unheard => idle

/-- RECORD_COMPLETION (R2). -/
def execRecordCompletion (bits : List Bool) (s : State) : Host.Outcome State Fault Refusal := .next (s.recordDone bits)

/-- The feed falls silent (R15, R178). -/
def State.feedSilence (s : State) : State :=
  if s.feed = .live ∧ s.feedTimer.isDue s.now then
    let silent := { s with feed := .silent, feedTimer := .stopped }
    if s.station = .running then silent.enterFeedDown false else silent
  else s

/-- FEED_SILENCE_EXPIRY (R15). -/
def execFeedSilenceExpiry (s : State) : Host.Outcome State Fault Refusal := .next s.feedSilence

/-! ## Quality and gap -/

/-- qs from the clamped RSSI (R7). -/
def qsOf (rssi : Int) : Nat :=
  let x := rssi + 100
  3 * (if x < 0 then 0 else if 80 < x then 80 else x.toNat)

/-- The frame-error history with a newest flag (R9). -/
def pushFlag (history : List Bool) (f : Bool) : List Bool :=
  (history ++ [f]).drop (history.length + 1 - historyMax)

/-- The quality fields after a sighting; `creating` when the sighting creates the entry (R7 to R10). -/
def Entry.quality (creating : Bool) (g : Sighting) (e : Entry) : Entry :=
  let qs := qsOf g.rssi
  let qf := if creating then qs else (truncStep e.qf qs 4).toNat
  let history := pushFlag e.history g.errored
  { e with qs := qs, qf := qf, history := history, q := qf - 10 * history.countP (· == true) }

/-- The gap fields after a sighting (R12 to R14). -/
def Entry.gap (creating : Bool) (g : Sighting) (e : Entry) : Entry :=
  let measured := min satMax (g.arrival - e.lastLocal)
  { e with
    gapVoid := g.carried
    lastLocal := g.arrival
    longestGap :=
      if creating then 0 else if g.carried || e.gapVoid then e.longestGap else max e.longestGap measured }

/-! ## Battery, mute and band -/

/-- The battery block after a sighting (R39). -/
def Entry.sample (p : Params) (now : Nat) (g : Sighting) (e : Entry) : Entry :=
  match g.battery with
  | some code => { e with battery := e.battery.sample p now code }
  | none => e

/-- The mute state and candidate after a sighting (R86, R87). -/
def Entry.muteStep (floorSet : List Nat) (g : Sighting) (e : Entry) : Entry :=
  match g.mute with
  | some m =>
    let st := if m then MuteState.muted else MuteState.open_
    { e with mute := st, muteCand := muteCandidate floorSet e.mic st }
  | none => e

/-- The signal band after a sighting (R94). -/
def Entry.bandStep (p : Params) (e : Entry) : Entry := { e with band := bandAfter p e.q e.band }

/-! ## Taking -/

/-- The presence part of a sighting taken for an entry (R19, R18); leaving SILENT stops the takeover timer (R116). -/
def State.hear (mic : Nat) (s : State) : State :=
  s.modEntry mic fun e =>
    { e with
      presence := .heard
      loss := s.presenceTimer s.params.lossTime
      forget := s.presenceTimer s.params.forgetMs
      lostForget := .stopped
      sightings := satAdd satMax e.sightings 1
      takeover := .stopped }

/-- An entry at its starting values (R20, R12, R112). Its quality fields come into being in step 2 of the sighting that creates it
(R11); between the taking and that step the table of R20 gives them no value, and the model holds qs, qf and Q at 0 and the error
history empty (DESIGN CHOICE, notes/assumptions/35.md). -/
def State.newEntry (g : Sighting) (s : State) : Entry where
  mic := g.mic
  presence := .heard
  lastLocal := g.arrival
  sightings := 1
  gapVoid := false
  longestGap := 0
  loss := s.presenceTimer s.params.lossTime
  forget := s.presenceTimer s.params.forgetMs
  lostForget := .stopped
  qs := 0
  qf := 0
  history := []
  q := 0
  mute := .unknown
  muteCand := .none
  battery := Battery.fresh
  band := .none
  claims := []
  role := if s.station = .listenOnly then .follower else .pending
  pendingTimer := if s.station = .listenOnly then .stopped else s.after s.params.claimFresh
  takeover := .stopped
  recBattery := Record.fresh
  recMute := Record.fresh
  recSignal := Record.fresh
  cue := 0
  cueRefresh := .stopped
  checkGood := true

/-- The last step of a sighting's processing (00_scope.md section 2.2). -/
def lastStep : Nat := 9

/-- Step `n` of a sighting's processing (00_scope.md section 2.2), after the taking, which is step 1: quality and gap; battery; mute;
the band and the three inputs, on which the records step as they are given, with the lost count (steps 5 and 6; R58, R80,
notes/assumptions/4.md); role; cue; lamps. -/
def State.processStep (creating : Bool) (g : Sighting) (n : Nat) (s : State) : State :=
  match n with
  | 2 => s.modEntry g.mic fun e => (e.quality creating g).gap creating g
  | 3 => s.modEntry g.mic (Entry.sample s.params s.now g)
  | 4 => s.modEntry g.mic (Entry.muteStep s.floorSet g)
  | 5 => ((s.modEntry g.mic (Entry.bandStep s.params)).giveInputs g.mic).updateLost State.entryFault
  | 7 => s.computeRole g.mic
  | 8 => s.selectCue g.mic
  | 9 => s.selectWarningLamps
  | _ => s

/-- A step of the processing `p`: with its entry removed there is nothing to act on (R33). -/
def State.workOn (p : Processing) (s : State) (n : Nat) : State :=
  match s.entry? p.sighting.mic with
  | none => s
  | some _ => s.processStep p.creating p.sighting n

/-- The steps `first`, …, `first + count - 1` of the processing `p`. -/
def State.workThrough (p : Processing) (first : Nat) : Nat → State → State
  | 0, s => s
  | count + 1, s => State.workThrough p (first + 1) count (s.workOn p first)

/-- The processing `p` goes on through step `through`; after step 9, or with its entry gone, it has ended (R5, R33). -/
def State.proceed (through : Nat) (p : Processing) (s : State) : State :=
  let done := max p.done (min through lastStep)
  let worked := s.workThrough p (p.done + 1) (done - p.done)
  { worked with
    inProcessing :=
      if lastStep ≤ done ∨ worked.entry? p.sighting.mic = none then none else some { p with done := done } }

/-- A new entry is admitted (R20), and the sighting's processing in it begins. -/
def State.addEntry (through : Nat) (g : Sighting) (s : State) : State :=
  ({ s with table := insertEntry (s.newEntry g) s.table }).proceed through ⟨g, true, 1⟩

/-- `a` gives way before `b`: the older last local sighting time, and between equal times the lower mic ID (R21). -/
def Entry.older (a b : Entry) : Bool :=
  decide (a.lastLocal < b.lastLocal) || (decide (a.lastLocal = b.lastLocal) && decide (a.mic < b.mic))

/-- The first to give way among the entries that `ok` admits. -/
def oldest (ok : Entry → Bool) : List Entry → Option Entry
  | [] => none
  | e :: rest =>
    match oldest ok rest with
    | none => if ok e then some e else none
    | some f => if ok e && e.older f then some e else some f

/-- A SILENT entry that may give way (R21 step 2). -/
def Entry.spent (e : Entry) : Bool :=
  decide (e.presence = .silent) && decide (e.lostForget = .expired) && decide (e.recSignal.state = .quiet)

/-- The victim of R21, if any. -/
def victim (table : List Entry) : Option Entry :=
  match oldest (fun e => decide (e.presence = .covered)) table with
  | some e => some e
  | none => oldest Entry.spent table

/-- A sighting for a microphone with no entry and a full table (R21). The entries are examined in ascending order; the first
whose check word is bad is removed, and the examination stops there. -/
def State.evictFor (through : Nat) (g : Sighting) (s : State) : State :=
  match s.table.find? fun e => !e.checkGood with
  | some bad => (s.entryFault bad.mic).addEntry through g
  | none =>
    match victim s.table with
    | some e => (s.removeEntry State.entryFault e.mic).addEntry through g
    | none => s.count .tableFull

/-- A sighting for a microphone with no entry (R20, R21). -/
def State.admitOrEvict (through : Nat) (g : Sighting) (s : State) : State :=
  if s.table.length < tableMax then s.addEntry through g else s.evictFor through g

/-- The taking of a sighting (R19 to R21), and its processing through step `through`. -/
def State.sight (through : Nat) (g : Sighting) (s : State) : State :=
  match s.entry? g.mic with
  | some e =>
    if e.checkGood then (s.hear g.mic).proceed through ⟨g, false, 1⟩ else (s.entryFault g.mic).admitOrEvict through g
  | none => s.admitOrEvict through g

/-- The sighting in processing goes on; with none in processing the head of the intake queue is taken (R5), when this command comes (notes/assumptions/38.md). -/
def State.takeSighting (through : Nat) (s : State) : State :=
  match s.underway with
  | some p => s.proceed through p
  | none =>
    match s.intake with
    | g :: rest => ({ s with intake := rest, inProcessing := none }).sight through g
    | [] => s

/-- SIGHTING_TAKEN (R19). -/
def execSightingTaken (s : State) (through : Nat := 9) : Host.Outcome State Fault Refusal := .next (s.takeSighting through)

end Sys2Proof.Machine
end

