-- ==== Sys2Proof/Machine/StartLoad.lean ====
section
/-! DEFINITION. START, LOAD_BEGIN, AREA_READ_COMPLETE, AREA_READ_TIMEOUT, JOINING_TIMER_EXPIRY, INTEGRITY_WINDOW_EXPIRY and
RESTART (section 11). -/

namespace Sys2Proof.Machine

/-- FSTB after a start: a strobe period that the start cut is not collected further (R1). -/
def Strobe.cut : Strobe → Strobe
  | .low => .low
  | .collecting _ => .unheard
  | .unheard => .unheard

/-- When the start may end: a power-on start lasts 20 ms, and RESET does not cut it short (R190). -/
def State.heldUntil (cause : StartCause) (s : State) : Nat :=
  match cause with
  | .powerOn => s.now + powerOnMs
  | .reset => s.holdUntil

/-- Every block at its start values (R183); time goes on and the waiting commands wait (notes/assumptions/8.md). -/
def State.started (cause : StartCause) (s : State) : State :=
  { State.reset with
    now := s.now
    pending := s.pending
    strobe := s.strobe.cut
    holdUntil := s.heldUntil cause }

/-- START (R183). -/
def execStart (s : State) (cause : StartCause := .reset) : Host.Outcome State Fault Refusal := .next (s.started cause)

/-- The straps are read and the read of SITE begins (R183, R184), not before a power-on start has ended (R190). -/
def State.beginLoad (straps : BitVec 4) (s : State) : State :=
  if s.station = .starting ∧ s.load = .held ∧ s.holdUntil ≤ s.now then
    { s with number := straps.toNat, load := .reading .site (s.now + areaReadMs) }
  else s

/-- LOAD_BEGIN (R183). -/
def execLoadBegin (straps : BitVec 4) (s : State) : Host.Outcome State Fault Refusal := .next (s.beginLoad straps)

/-- The image in use, its source and flag, and what the other blocks do at the end of STARTING (R175, R6, R127). -/
def State.withImage (src : Source) (im : Image) (s : State) : State :=
  { s with
    params := im.params
    source := src
    partialImage := im.partialImage
    load := .done
    counters := { s.counters with configClamps := satAdd satMax s.counters.configClamps im.clamps }
    feed := .live
    feedTimer := .running (s.now + im.params.feedTimeout)
    access := .busy
    assembler := { s.assembler with joinedLate := true } }

/-- The load completes and STARTING is left (R175). -/
def State.completeLoad (src : Source) (im : Image) (s : State) : State :=
  let fixed := s.withImage src im
  if s.number = 0 then ({ fixed with fault := some .badId }).enterListenOnly State.entryFault
  else ({ fixed with station := .joining, joining := fixed.after im.params.joiningMs }).stationHandOff

/-- A bad area is passed over: SITE leads to FACTORY, FACTORY to the built-in defaults (R184). -/
def State.badArea (area : Area) (s : State) : State :=
  match area with
  | .site => { s with load := .reading .factory (s.now + areaReadMs) }
  | .factory => s.completeLoad .defaults imageOfDefaults

/-- The source an area gives (R184). -/
def Area.source : Area → Source
  | .site => .site
  | .factory => .factory

/-- An area read completes; a read that took longer than 50 ms is bad (R184; notes/assumptions/25.md). -/
def State.areaRead (answer : Option (List Byte)) (s : State) : State :=
  match s.load with
  | .reading area limit =>
    if areaGood answer && decide (s.now ≤ limit) then s.completeLoad area.source (imageOfArea (answer.getD []))
    else s.badArea area
  | .held => s
  | .done => s

/-- AREA_READ_COMPLETE (R184). -/
def execAreaReadComplete (answer : Option (List Byte)) (s : State) : Host.Outcome State Fault Refusal :=
  .next (s.areaRead answer)

/-- An area read has not completed within 50 ms (R184). -/
def State.areaTimeout (s : State) : State :=
  match s.load with
  | .reading area limit => if limit ≤ s.now then s.badArea area else s
  | .held => s
  | .done => s

/-- AREA_READ_TIMEOUT (R184). -/
def execAreaReadTimeout (s : State) : Host.Outcome State Fault Refusal := .next s.areaTimeout

/-- JOINING ends according to the feed state (R176). -/
def State.joiningEnds (s : State) : State :=
  if s.station = .joining ∧ s.joining.isDue s.now then
    match s.feed with
    | .live => ({ s with joining := .stopped }).enterRunning
    | .silent => ({ s with joining := .stopped }).enterFeedDown true
  else s

/-- JOINING_TIMER_EXPIRY (R176). -/
def execJoiningTimerExpiry (s : State) : Host.Outcome State Fault Refusal := .next s.joiningEnds

/-- The fault record after the window has closed (R180). -/
def faultAfterWindow : Option FaultCause → Option FaultCause
  | some (.table _) => none
  | f => f

/-- The integrity window closes (R180). -/
def State.windowEnds (s : State) : State :=
  if s.window.isDue s.now then { s with window := .stopped, fault := faultAfterWindow s.fault } else s

/-- INTEGRITY_WINDOW_EXPIRY (R180). -/
def execIntegrityWindowExpiry (s : State) : Host.Outcome State Fault Refusal := .next s.windowEnds

/-- What a sitting restart empties, stops and zeroes: steps 1 to 4 of R187, and the lamps darkened (R173). -/
def State.cleared (s : State) : State :=
  { s with
    rx := []
    tx := []
    stationRepeat := .stopped
    cueQueue := []
    claimRound := .stopped
    zone := .notInForce
    zoneRepeat := .stopped
    table := []
    lostCount := 0
    floorSet := []
    floor := .stale
    floorTimer := .stopped
    counters := Counters.zero
    lampBattery := Generator.dark
    lampMute := Generator.dark
    lampSignal := Generator.dark
    lampStation := Generator.dark }

/-- Step 5 of R187. -/
def State.rejoin (s : State) : State :=
  if s.station = .listenOnly then s.requestStation false
  else { s with station := .joining, joining := s.after s.params.joiningMs }

/-- A sitting restart (R187). -/
def State.restarted (s : State) : State := (s.cleared.rejoin.selectLamp .station).evaluateAttn

end Sys2Proof.Machine
end

