-- ==== Sys2Proof/Machine/StationTimers.lean ====
section
/-! DEFINITION. The expiries of the station's own timers: ZONE_REPEAT (section 6), STATION_REPEAT (section 9), FLOOR (section 5),
ABSENCE and CLAIM_ROUND (section 7), and the floor sweep. -/

namespace Sys2Proof.Machine

/-- R100. -/
def State.zoneRepeatExpiry (s : State) : State :=
  if s.zoneRepeat.isDue s.now then { s.requestStation false with zoneRepeat := s.after s.params.repeatMs } else s

/-- ZONE_REPEAT_TIMER_EXPIRY (R100). -/
def execZoneRepeatTimerExpiry (s : State) : Host.Outcome State Fault Refusal := .next s.zoneRepeatExpiry

/-- R151. -/
def State.stationRepeatExpiry (s : State) : State :=
  if s.stationRepeat.isDue s.now then { s.requestStation false with stationRepeat := s.after s.params.repeatMs } else s

/-- STATION_REPEAT_TIMER_EXPIRY (R151). -/
def execStationRepeatTimerExpiry (s : State) : Host.Outcome State Fault Refusal := .next s.stationRepeatExpiry

/-- One entry of the floor sweep (R90): its candidate is recomputed and its MUTE input given. -/
def State.floorEntry (mic : Nat) (s : State) : State :=
  (s.modEntry mic fun e => { e with muteCand := muteCandidate s.floorSet mic e.mute }).giveInput mic .mute

/-- The floor sweep (R90). -/
def State.floorSweep (s : State) : State := s.sweep State.entryFault State.floorEntry

/-- R84. -/
def State.floorExpiry (s : State) : State :=
  if s.floorTimer.isDue s.now then ({ s with floor := .stale, floorTimer := .stopped }).floorSweep else s

/-- FLOOR_TIMER_EXPIRY (R84). -/
def execFloorTimerExpiry (s : State) : Host.Outcome State Fault Refusal := .next s.floorExpiry

/-- R107. -/
def State.absenceExpiry (n : Nat) (s : State) : State :=
  if (s.slot n).timer.isDue s.now then
    ({ s with roster := s.roster.set n .absent }).sweep State.entryFault fun mic s => s.removeClaim mic n
  else s

/-- ABSENCE_TIMER_EXPIRY (R107). -/
def execAbsenceTimerExpiry (n : Nat) (s : State) : Host.Outcome State Fault Refusal := .next (s.absenceExpiry n)

/-- A claim round under way: the state, and the pairs not yet submitted. -/
structure Round where
  state : State
  pairs : List Pair
  deriving DecidableEq, Repr

/-- The pair of a HEARD entry (R122). -/
def Entry.pair (e : Entry) : Pair := ⟨e.mic, e.q, decide (e.role = .reporter)⟩

/-- A CLAIM frame of the round is submitted (R122, R152). -/
def State.submitClaims (pairs : List Pair) (s : State) : State := s.requestFrame (.claim s.round pairs)

/-- The round's visit to the entry of `mic`: verified, and its pair taken while it is HEARD; a frame is submitted as it is
filled (R122). -/
def Round.visit (r : Round) (mic : Nat) : Round :=
  match r.state.entry? mic with
  | none => r
  | some e =>
    if !e.checkGood then { r with state := r.state.entryFault mic }
    else if e.presence ≠ .heard then r
    else if r.pairs.length + 1 < pairMax then { r with pairs := r.pairs ++ [e.pair] }
    else ⟨r.state.submitClaims (r.pairs ++ [e.pair]), []⟩

/-- A claim round (R122). -/
def State.makeRound (s : State) : State :=
  let fresh := ({ s with round := s.round + 1 }).removeWhere (Frame.olderClaim (s.round + 1))
  let visited := fresh.mics.foldl Round.visit ⟨fresh, []⟩
  if visited.pairs = [] then visited.state else visited.state.submitClaims visited.pairs

/-- R121: the timer is restarted after the round while the station is RUNNING (notes/assumptions/21.md). -/
def State.claimRoundExpiry (s : State) : State :=
  if s.claimRound.isDue s.now then
    let made := s.makeRound
    if made.station = .running then { made with claimRound := made.after made.params.claimInterval } else made
  else s

/-- CLAIM_ROUND_TIMER_EXPIRY (R121). -/
def execClaimRoundTimerExpiry (s : State) : Host.Outcome State Fault Refusal := .next s.claimRoundExpiry

end Sys2Proof.Machine
end

