-- ==== Sys2Proof/Machine/FramesTaken.lean ====
section
/-! DEFINITION. The frames taken from the receive queue (R138): CLAIM_TAKEN, WARN_TAKEN (section 7), FLOOR_TAKEN (section 5),
ACK_TAKEN (section 4), ENTRY_QUERY, STATS_QUERY (section 9), RESTART (section 11) and PEER_REPORT_TAKEN (section 8). -/

namespace Sys2Proof.Machine

/-- The head of the receive queue is taken when it is a frame that `act` is for and no frame is in dispatch; its dispatch is
complete before the next is taken (R138). The frame waits for this command (notes/assumptions/38.md). -/
def State.dispatch (act : Nat → RxBody → Option (State → State)) (s : State) : State :=
  match s.inDispatch, s.rx with
  | none, f :: rest =>
    match act f.source f.body with
    | some work => { work { s with rx := rest, inDispatch := some f } with inDispatch := none }
    | none => s
  | _, _ => s

/-! ## CLAIM -/

/-- One claim of a frame (R108). -/
def State.takeClaim (c : Claim) (mic : Nat) (s : State) : State :=
  if c.station = 0 then s else s.verified State.entryFault mic fun _ s => s.enterClaimFor mic c

/-- The pairs of a CLAIM frame in frame order (R108). -/
def State.takeClaims (source : Nat) (pairs : List Pair) (s : State) : State :=
  pairs.foldl (fun s p => s.takeClaim ⟨source, p.q, p.reporter, s.now⟩ p.mic) s

def claimWork (source : Nat) : RxBody → Option (State → State)
  | .claim pairs => some (State.takeClaims source pairs)
  | _ => none

/-- CLAIM_TAKEN (R108). -/
def execClaimTaken (s : State) : Host.Outcome State Fault Refusal := .next (s.dispatch claimWork)

/-! ## ACK -/

/-- The hand-offs after a matching acknowledgement (R71): a held SILENT entry is removed (R29), else the lamp of the kind is
selected. -/
def State.ackHandOff (mic : Nat) (k : Kind) (s : State) : State :=
  match s.entry? mic with
  | none => s
  | some e =>
    if k = .signal ∧ e.letGo then s.removeEntry State.entryFault mic
    else s.selectLamp (lampOf k)

/-- An ACK for a verified entry (R70, R149). -/
def State.acknowledge (mic : Nat) (k : Kind) (l : Level) (e : Entry) (s : State) : State :=
  if (e.record k).level = l ∧ l ≠ .none then
    ((s.modRecord mic k Record.acknowledge).ackQueued mic k l).ackHandOff mic k
  else s.count .staleAcks

def ackWork (_ : Nat) : RxBody → Option (State → State)
  | .ack mic k l => some (State.verified State.entryFault mic (State.acknowledge mic k l))
  | _ => none

/-- ACK_TAKEN (R70). -/
def execAckTaken (s : State) : Host.Outcome State Fault Refusal := .next (s.dispatch ackWork)

/-! ## WARN -/

/-- Step 2 of R119: the frame applied to the record of its kind (R72), with the hand-offs of R71. -/
def State.absorbWarn (w : Warn) (e : Entry) (s : State) : State :=
  let told := s.modRecord w.mic w.kind (Record.absorb w)
  if (e.record w.kind).matchesWarn w then (told.ackQueued w.mic w.kind w.level).ackHandOff w.mic w.kind else told

/-- Step 3 of R119: the claim of a sender that hears the microphone. -/
def State.warnClaim (source : Nat) (w : Warn) (s : State) : State :=
  if w.hears ∧ source ≠ 0 then s.enterClaimFor w.mic ⟨source, w.q, w.reporter, s.now⟩ else s

/-- Step 4 of R119: the yield (R115). -/
def State.yieldTo (source : Nat) (w : Warn) (s : State) : State :=
  match s.entry? w.mic with
  | none => s
  | some e =>
    if e.presence = .silent ∧ e.role = .reporter ∧ w.reporter ∧ source < s.number then
      (s.loseReporter w.mic).modEntry w.mic fun e => { e with takeover := s.after s.params.repeatMs }
    else s

/-- Step 5 of R119: the takeover cancel (R116). -/
def State.cancelTakeover (w : Warn) (s : State) : State :=
  match s.entry? w.mic with
  | none => s
  | some e =>
    if e.presence = .silent ∧ e.takeover.isRunning ∧ w.kind = .signal ∧ w.level = .higher then
      s.modEntry w.mic fun e => { e with takeover := .stopped }
    else s

/-- A peer WARN for a verified entry (R119 steps 2 to 5). -/
def State.applyWarn (source : Nat) (w : Warn) (e : Entry) (s : State) : State :=
  (((s.absorbWarn w e).warnClaim source w).yieldTo source w).cancelTakeover w

def warnWork (source : Nat) : RxBody → Option (State → State)
  | .warn w => some (State.verified State.entryFault w.mic (State.applyWarn source w))
  | _ => none

/-- WARN_TAKEN (R119). -/
def execWarnTaken (s : State) : Host.Outcome State Fault Refusal := .next (s.dispatch warnWork)

/-! ## FLOOR -/

/-- A FLOOR frame (R82, R83). -/
def State.takeFloor (mics : List Nat) (s : State) : State :=
  ({ s with floorSet := floorSetOf mics, floor := .fresh, floorTimer := s.after s.params.floorMs }).floorSweep

def floorWork (_ : Nat) : RxBody → Option (State → State)
  | .floor mics => some (State.takeFloor mics)
  | _ => none

/-- FLOOR_TAKEN (R82). -/
def execFloorTaken (s : State) : Host.Outcome State Fault Refusal := .next (s.dispatch floorWork)

/-! ## QUERY -/

/-- The answer to an ENTRY query (R154): a failed or absent entry is answered as absent. -/
def State.answerEntry (mic : Nat) (s : State) : State :=
  match s.entry? mic with
  | none => s.requestFrame (.entry mic none)
  | some e =>
    if e.checkGood then s.requestFrame (.entry mic (some (entryReport s.now e)))
    else (s.entryFault mic).requestFrame (.entry mic none)

/-- A QUERY is answered when it names this station and the station is RUNNING or FEED_DOWN (R153). -/
def State.answers (target : Nat) (s : State) : Bool := decide (target = s.number) && s.station.sendsAll

def entryQueryWork (_ : Nat) : RxBody → Option (State → State)
  | .query target (.entry mic) => some fun s => if s.answers target then s.answerEntry mic else s
  | _ => none

/-- ENTRY_QUERY (R154). -/
def execEntryQuery (s : State) : Host.Outcome State Fault Refusal := .next (s.dispatch entryQueryWork)

def statsQueryWork (_ : Nat) : RxBody → Option (State → State)
  | .query target .stats => some fun s => if s.answers target then s.requestFrame (.stats s.counters) else s
  | _ => none

/-- STATS_QUERY (R155). -/
def execStatsQuery (s : State) : Host.Outcome State Fault Refusal := .next (s.dispatch statsQueryWork)

/-! ## RESTART and reports -/

def restartWork (_ : Nat) : RxBody → Option (State → State)
  | .restart => some State.restarted
  | _ => none

/-- RESTART (R187). -/
def execRestart (s : State) : Host.Outcome State Fault Refusal := .next (s.dispatch restartWork)

def reportWork (_ : Nat) : RxBody → Option (State → State)
  | .report .. => some id
  | _ => none

/-- PEER_REPORT_TAKEN (R138): a STATION, ENTRY or STATS frame ends at its taking. -/
def execPeerReportTaken (s : State) : Host.Outcome State Fault Refusal := .next (s.dispatch reportWork)

end Sys2Proof.Machine
end

