-- ==== Sys2Proof/Machine/Line.lean ====
section
/-! DEFINITION. LINE_IDLE, LINE_ACTIVITY, SLOT_BOUNDARY, FRAME_SENT, COLLISION and FRAME_COMPLETION (section 8). -/

namespace Sys2Proof.Machine

/-! ## Access -/

/-- 24 bit times have passed with the line released: BUSY becomes IDLE, at its idle point (R127). -/
def State.lineQuiet (s : State) : State :=
  match s.access with
  | .busy => { s with access := .idle 0, assembler := { s.assembler with joinedLate := false } }
  | .off => s
  | .idle _ => s
  | .sending => s

/-- LINE_IDLE (R127). -/
def execLineIdle (s : State) : Host.Outcome State Fault Refusal := .next s.lineQuiet

/-- Another station's start bit ends an idle period (R130). -/
def State.lineStart (s : State) : State :=
  match s.access with
  | .idle _ =>
    let busy := { s with access := .busy }
    if s.tx.isEmpty then busy else busy.count .framesDeferred
  | .off => s
  | .busy => s
  | .sending => s

/-- LINE_ACTIVITY (R130). -/
def execLineActivity (s : State) : Host.Outcome State Fault Refusal := .next s.lineStart

/-- The access wait of a frame, in slots (R128, R129). -/
def State.accessWait (f : Frame) (s : State) : Nat := f.cls * 24 + s.number + if s.lastSender then 16 else 0

/-- A slot boundary `k` slots after the idle point (R128). -/
def State.slotEnds (s : State) : State :=
  match s.access with
  | .idle k =>
    match s.tx with
    | t :: rest =>
      if s.accessWait t.frame ≤ k then { s with tx := rest, inFlight := some t, access := .sending }
      else { s with access := .idle (k + 1) }
    | [] => { s with access := .idle (k + 1) }
  | .off => s
  | .busy => s
  | .sending => s

/-- SLOT_BOUNDARY (R128). -/
def execSlotBoundary (s : State) : Host.Outcome State Fault Refusal := .next s.slotEnds

/-! ## Sending -/

/-- The in-flight frame is complete (R131, R129). -/
def State.sendDone (s : State) : State :=
  match s.access, s.inFlight with
  | .sending, some _ =>
    ({ s with access := .busy, inFlight := none, lastSender := true, assembler := Assembler.empty }).count .framesSent
  | _, _ => s

/-- FRAME_SENT (R131). -/
def execFrameSent (s : State) : Host.Outcome State Fault Refusal := .next s.sendDone

/-- A frame that has collided: dropped at its fourth collision, otherwise handed back (R132). -/
def State.handBack (t : TxFrame) (s : State) : State :=
  if collisionMax ≤ t.collisions then s.dropReturning t.frame else s.recheck t

/-- A bit is read back as 0 against a released 1 (R132). -/
def State.collide (s : State) : State :=
  match s.access, s.inFlight with
  | .sending, some t =>
    (({ s with access := .busy, inFlight := none }).count .collisions).handBack { t with collisions := t.collisions + 1 }
  | _, _ => s

/-- COLLISION (R132). -/
def execCollision (s : State) : Host.Outcome State Fault Refusal := .next s.collide

/-! ## Receiving -/

/-- A duplicate station number is reported (R135, R181). -/
def State.duplicateNumber (s : State) : State :=
  match s.station with
  | .starting => s
  | .listenOnly => s
  | .joining | .running | .feedDown => ({ s with fault := some .duplicateId }).enterListenOnly State.entryFault

/-- A good frame makes its source PRESENT (R106). -/
def State.refreshRoster (source : Nat) (s : State) : State :=
  { s with roster := s.roster.set source (.present (s.now + s.params.absenceMs)) }

/-- An accepted frame offered to the receive queue (R137). -/
def State.offerRx (f : RxFrame) (s : State) : State :=
  if s.rx.length < rxMax then { s with rx := s.rx ++ [f] } else s.count .rxOverrun

/-- A good frame of another station is accepted or refused by kind and source (R136). -/
def State.acceptFrame (source : Nat) (body : Option RxBody) (s : State) : State :=
  match body with
  | some b => if acceptedFrom source b then (s.count .rxGood).offerRx ⟨source, b⟩ else s.count .rxRefused
  | none => s.count .rxRefused

/-- A completed frame goes through the checks (R134). -/
def State.receive (bytes : List Byte) (framing : Bool) (s : State) : State :=
  let cleared := { s with lastSender := false, assembler := Assembler.empty }
  match readFrame bytes framing with
  | .bad => cleared.count .rxBad
  | .good source body =>
    if source = s.number then cleared.duplicateNumber else (cleared.refreshRoster source).acceptFrame source body

/-- A frame of the line is complete: more than 2 bit times have passed since its last stop bit (R125), and the assembler has made
bytes of its bits (R124). One whose first bytes passed before the part began to listen is discarded unchecked (R127;
notes/assumptions/11.md). -/
def State.frameDone (bits : List Bool) (gap : Nat) (headMissed : Bool) (s : State) : State :=
  if s.access = .off ∨ gap ≤ 2 then s
  else if s.assembler.joinedLate && headMissed then { s with assembler := Assembler.empty }
  else
    let read := lineRead bits
    s.receive (s.assembler.bytes ++ read.1) (s.assembler.framing || read.2)

/-- FRAME_COMPLETION (R134). -/
def execFrameCompletion (bits : List Bool) (gap : Nat) (headMissed : Bool) (s : State) : Host.Outcome State Fault Refusal :=
  .next (s.frameDone bits gap headMissed)

end Sys2Proof.Machine
end

