-- ==== Sys2Proof/Machine/Dispatch.lean ====
section
/-! DEFINITION. One arm per command, each a direct call of its meaning. -/

namespace Sys2Proof.Machine

def exec (i : Instr) (s : State) : Host.Outcome State Fault Refusal :=
  match i with
  | .start cause => Sys2Proof.Machine.execStart s cause
  | .loadBegin straps => Sys2Proof.Machine.execLoadBegin straps s
  | .areaReadComplete answer => Sys2Proof.Machine.execAreaReadComplete answer s
  | .areaReadTimeout => Sys2Proof.Machine.execAreaReadTimeout s
  | .strobeAsserted => Sys2Proof.Machine.execStrobeAsserted s
  | .recordCompletion bits => Sys2Proof.Machine.execRecordCompletion bits s
  | .feedSilenceExpiry => Sys2Proof.Machine.execFeedSilenceExpiry s
  | .sightingTaken through => Sys2Proof.Machine.execSightingTaken s through
  | .lossTimerExpiry mic => Sys2Proof.Machine.execLossTimerExpiry mic s
  | .forgetTimerExpiry mic => Sys2Proof.Machine.execForgetTimerExpiry mic s
  | .lostForgetExpiry mic => Sys2Proof.Machine.execLostForgetExpiry mic s
  | .epochTimerExpiry mic => Sys2Proof.Machine.execEpochTimerExpiry mic s
  | .staleTimerExpiry mic => Sys2Proof.Machine.execStaleTimerExpiry mic s
  | .persistenceTimerExpiry mic kind => Sys2Proof.Machine.execPersistenceTimerExpiry mic kind s
  | .repeatTimerExpiry mic kind => Sys2Proof.Machine.execRepeatTimerExpiry mic kind s
  | .zoneRepeatTimerExpiry => Sys2Proof.Machine.execZoneRepeatTimerExpiry s
  | .stationRepeatTimerExpiry => Sys2Proof.Machine.execStationRepeatTimerExpiry s
  | .floorTimerExpiry => Sys2Proof.Machine.execFloorTimerExpiry s
  | .absenceTimerExpiry station => Sys2Proof.Machine.execAbsenceTimerExpiry station s
  | .claimExpiry mic station => Sys2Proof.Machine.execClaimExpiry mic station s
  | .pendingTimerExpiry mic => Sys2Proof.Machine.execPendingTimerExpiry mic s
  | .takeoverTimerExpiry mic => Sys2Proof.Machine.execTakeoverTimerExpiry mic s
  | .claimRoundTimerExpiry => Sys2Proof.Machine.execClaimRoundTimerExpiry s
  | .cueRefreshExpiry mic => Sys2Proof.Machine.execCueRefreshExpiry mic s
  | .cueTransferStart crdy => Sys2Proof.Machine.execCueTransferStart crdy s
  | .cueTransferComplete => Sys2Proof.Machine.execCueTransferComplete s
  | .phaseTimerExpiry lamp => Sys2Proof.Machine.execPhaseTimerExpiry lamp s
  | .joiningTimerExpiry => Sys2Proof.Machine.execJoiningTimerExpiry s
  | .integrityWindowExpiry => Sys2Proof.Machine.execIntegrityWindowExpiry s
  | .lineIdle => Sys2Proof.Machine.execLineIdle s
  | .lineActivity => Sys2Proof.Machine.execLineActivity s
  | .slotBoundary => Sys2Proof.Machine.execSlotBoundary s
  | .frameSent => Sys2Proof.Machine.execFrameSent s
  | .collision => Sys2Proof.Machine.execCollision s
  | .frameCompletion bits gap headMissed => Sys2Proof.Machine.execFrameCompletion bits gap headMissed s
  | .claimTaken => Sys2Proof.Machine.execClaimTaken s
  | .warnTaken => Sys2Proof.Machine.execWarnTaken s
  | .floorTaken => Sys2Proof.Machine.execFloorTaken s
  | .ackTaken => Sys2Proof.Machine.execAckTaken s
  | .entryQuery => Sys2Proof.Machine.execEntryQuery s
  | .statsQuery => Sys2Proof.Machine.execStatsQuery s
  | .restart => Sys2Proof.Machine.execRestart s
  | .peerReportTaken => Sys2Proof.Machine.execPeerReportTaken s

end Sys2Proof.Machine
end

