-- ==== Sys2Proof/Machine/Step.lean ====
section
/-! DEFINITION. One step: the command at the front of the queue; when none waits, the rest of a sighting's processing, or one
millisecond. -/

namespace Sys2Proof.Machine

/-- The command at the front runs with the queue's rest. On an empty queue a sighting in processing is processed to its end, and
with none in processing one millisecond passes and nothing else changes (notes/assumptions/1.md), also while a sighting, a frame
or a cue is queued that R5, R138 or R164 would take at once: its taking waits for its command (DESIGN CHOICE,
notes/assumptions/38.md). -/
def step (s : State) : Host.Outcome State Fault Refusal :=
  match s.pending with
  | c :: rest => exec c { s with pending := rest }
  | [] =>
    match s.underway with
    | some _ => exec (.sightingTaken lastStep) s
    | none => .next { s with now := s.now + 1 }

/-- The command that a word spells, put at the front of the queue. No row of the table has bits, so no word spells one
(notes/assumptions/31.md). -/
def State.withFetchWord (s : State) (nbits w : Nat) : State :=
  match decodeTableWord nbits w with
  | some c => { s with pending := c :: s.pending }
  | none => s

end Sys2Proof.Machine
end

