-- ==== Sys2Proof/Machine/Pins.lean ====
section
/-! DEFINITION. The outputs of the part as functions of its state (R190, section 12.4). `true` is a high level. -/

namespace Sys2Proof.Machine

/-- ATTN drives low while it is asserted, and is released otherwise (R190, R182). -/
def State.attnLow (s : State) : Bool := s.attn

/-- LDE is high exactly while the access state is SENDING and the part drives the in-flight frame (R190). -/
def State.lde (s : State) : Bool := decide (s.access = .sending) && s.inFlight.isSome

/-- The bits of the in-flight frame on the line (R124, R125). -/
def State.sendingBits (s : State) : List Bool :=
  match s.inFlight with
  | some t => frameBits s.number t.frame
  | none => []

/-- LTX in bit time `i` of a sending: low drives a 0; it is held high while LDE is low (R190). -/
def State.ltx (i : Nat) (s : State) : Bool := if s.lde then s.sendingBits.getD i true else true

/-- A LAMP output is high in ON and STEADY and low in OFF and DARK (R167, R190). -/
def State.lampLit (l : Lamp) (s : State) : Bool :=
  match (s.gen l).phase with
  | .on => true
  | .steady => true
  | .off => false
  | .dark => false

/-- QDAT at bit `i` of a transfer; QCLK and QDAT are low except during a transfer (R164, R190). -/
def State.qdat (i : Nat) (s : State) : Bool :=
  match s.cueTransfer with
  | some c => (cueBits c).getD i false
  | none => false

/-- QCLK at bit `i` of a transfer: high in the one pulse of each of the word's bits, low beside it and outside a transfer (R164,
R190). Where in the bit time the pulse stands is pin timing (notes/assumptions/26.md): `inPulse` says whether this is in it. -/
def State.qclk (i : Nat) (inPulse : Bool) (s : State) : Bool :=
  match s.cueTransfer with
  | some c => decide (i < (cueBits c).length) && inPulse
  | none => false

/-- The transaction under way on the configuration bus (R184); idle otherwise (R183). -/
def State.busSteps (s : State) : List BusStep :=
  match s.load with
  | .reading area _ => areaTransaction area
  | .held => []
  | .done => []

end Sys2Proof.Machine
end

