-- ==== Sys2Proof/Safety.lean ====
section
/-! DEFINITION. The laws of the device, in the terms the statements use: what holds of the part between two commands. Each is
taken from a sentence of the spec that says what holds at every moment. -/

namespace Sys2Proof.Machine

/-! ## The table and the queues -/

/-- R17: at most 96 entries, in strictly ascending order of mic ID, each a seat number 1 to 480; the queued sightings name
seats too. -/
structure TableLaw (s : State) : Prop where
  ascending : s.mics.Pairwise (· < ·)
  atMost96 : s.table.length ≤ tableMax
  seats : ∀ e ∈ s.table, 1 ≤ e.mic ∧ e.mic ≤ micMax
  queuedSeats : ∀ g ∈ s.intake, 1 ≤ g.mic ∧ g.mic ≤ micMax

/-- The capacities of R4, R137, R141, R163, R109 and R9, one cue per microphone (R163), and the floor set: at most 8 distinct
seat numbers, ascending (R81). -/
structure QueueLaw (s : State) : Prop where
  intake : s.intake.length ≤ intakeMax
  rx : s.rx.length ≤ rxMax
  tx : s.tx.length ≤ txMax
  cues : s.cueQueue.length ≤ cueMax
  oneCue : s.cueQueue.Pairwise fun a b => a.mic ≠ b.mic
  claims : ∀ e ∈ s.table, e.claims.length ≤ claimMax
  history : ∀ e ∈ s.table, e.history.length ≤ historyMax
  floor : s.floorSet.length ≤ floorMax
  floorAscending : s.floorSet.Pairwise (· < ·)
  floorSeats : ∀ n ∈ s.floorSet, 1 ≤ n ∧ n ≤ micMax

/-- R35: the check word of every entry agrees with its contents. -/
def SoundLaw (s : State) : Prop := ∀ e ∈ s.table, e.checkGood = true

/-- R23 to R26: a COVERED entry's claim list holds a claim, and a SILENT entry's list is empty. -/
structure PresenceLaw (s : State) : Prop where
  covered : ∀ e ∈ s.table, e.presence = .covered → e.claims ≠ []
  silent : ∀ e ∈ s.table, e.presence = .silent → e.claims = []

/-- R109: every listed claim is of a station PRESENT in the roster. -/
def RosterLaw (s : State) : Prop := ∀ e ∈ s.table, ∀ c ∈ e.claims, s.hasPeer c.station = true

/-! ## Warning records -/

/-- The two laws of section 4.1, and the timers and spell that go with the states (R57 to R67, R78). -/
structure Record.Lawful (r : Record) : Prop where
  level : r.level = .none ↔ r.state = .quiet ∨ r.state = .qualifying
  pending : r.pending.isSome ↔ r.state = .qualifying ∨ r.state = .shifting
  toward : ∀ l, r.pending = some l → l ≠ .none ∧ l ≠ r.level
  timed : r.persist.isRunning ↔ r.state = .qualifying ∨ r.state = .shifting ∨ r.state = .releasing
  acked : r.acked → r.level ≠ .none
  spell : r.spellStart.isSome ↔ r.level ≠ .none
  log : (r.level = .lower → r.logLower) ∧ (r.level = .higher → r.logHigher)

/-- Every record of the table keeps its laws. -/
def RecordLaw (s : State) : Prop := ∀ e ∈ s.table, ∀ k, (e.record k).Lawful

/-- R76: a repeat timer runs exactly while the role is held, the level is not NONE and the acknowledged flag is clear. -/
def RepeatLaw (s : State) : Prop :=
  ∀ e ∈ s.table, ∀ k, (e.record k).repeatTimer.isRunning = (e.record k).repeats e.role

/-! ## The transmit queue -/

/-- R99: while ZONE_SILENT is in force the transmit queue holds no WARN of kind SIGNAL at level LOST. -/
def ZoneQueueLaw (s : State) : Prop := s.zone ≠ .notInForce → ∀ t ∈ s.tx, t.frame.lostWarn = false

/-- R141: never two WARN frames for one microphone and kind, and every queued WARN names an entry that holds REPORTER. -/
structure WarnLaw (s : State) : Prop where
  one : s.tx.Pairwise fun a b => ∀ mic k, ¬(a.frame.warnFor mic k ∧ b.frame.warnFor mic k)
  reported : ∀ t ∈ s.tx, ∀ w, t.frame = .warn w → ∃ e, s.entry? w.mic = some e ∧ e.role = .reporter

/-- R141, R142, R133: the queue stands in order of class but for a returned frame, of which there is at most one, at the head,
and none while a frame is in flight. -/
structure OrderLaw (s : State) : Prop where
  ordered : (s.tx.filter fun t => !t.returned).Pairwise fun a b => a.frame.cls ≤ b.frame.cls
  head : ∀ t ∈ s.tx.tail, t.returned = false
  alone : s.inFlight.isSome → ∀ t ∈ s.tx, t.returned = false

/-! ## Station states -/

/-- STARTING (R1, R17, R104, R127, R143, R183): no entry, nothing queued, the zone not in force, the line OFF; the load is over
exactly when STARTING is. -/
structure StartingLaw (s : State) : Prop where
  loaded : s.load = .done ↔ s.station ≠ .starting
  table : s.station = .starting → s.table = []
  intake : s.station = .starting → s.intake = []
  line : s.station = .starting → s.access = .off ∧ s.rx = []
  zone : s.station = .starting → s.zone = .notInForce ∧ s.lostCount = 0

/-- R143: in STARTING and JOINING the transmit queue is empty. -/
structure JoiningLaw (s : State) : Prop where
  starting : s.station = .starting → s.tx = []
  joining : s.station = .joining → s.tx = []

/-- LISTEN_ONLY (R114, R121, R151, R158, R176): every entry is FOLLOWER with its role timers stopped, only STATION frames are
queued, and the JOINING, claim-round and station repeat timers are stopped. -/
structure ListenOnlyLaw (s : State) : Prop where
  follower : s.station = .listenOnly → ∀ e ∈ s.table, e.role = .follower ∧ e.pendingTimer = .stopped ∧ e.takeover = .stopped
  queue : s.station = .listenOnly → ∀ t ∈ s.tx, t.frame.isStation
  timers : s.station = .listenOnly → s.joining = .stopped ∧ s.claimRound = .stopped ∧ s.stationRepeat = .stopped

/-- R97, R98, R100, R101, R103 and R105: the lost count is the number of entries that count, the zone state agrees with it, the
zone repeat timer runs exactly while the zone is in force, and the cause is FEED exactly while the station is FEED_DOWN. The image's
`zone_threshold` is in its range. -/
structure ZoneLaw (s : State) : Prop where
  counted : s.lostCount = lostOf s.table
  quiet : s.zone = .notInForce → s.lostCount < s.params.zoneThreshold
  held : s.zone = .inForce .count → s.params.zoneExit < s.lostCount
  feed : s.zone = .inForce .feed ↔ s.station = .feedDown
  timed : s.zoneRepeat.isRunning ↔ s.zone ≠ .notInForce
  range : 4 ≤ s.params.zoneThreshold

/-! ## Outputs -/

/-- R182: ATTN is as the station state, the zone and the source ask. -/
def AttnLaw (s : State) : Prop := s.attn = s.attnValue

/-- The pattern a generator shows or is about to show (R171). -/
def Generator.target (g : Generator) : Nat := g.staged.getD g.pattern

/-- R167: the phase, the timer and the staged pattern fit the pattern. -/
structure Generator.Lawful (g : Generator) : Prop where
  dark : g.phase = .dark ↔ g.pattern = 0
  steady : g.phase = .steady ↔ g.pattern = 7
  timer : g.timer.isRunning = g.blinking
  staged : g.staged.isSome → g.blinking
  fresh : g.staged ≠ some g.pattern

/-- R168, R169, R173: each lamp shows, or has staged, the pattern of the latest selection. -/
def LampLaw (s : State) : Prop := ∀ l, (s.gen l).Lawful ∧ (s.gen l).target = s.lampPattern l

/-- A sighting of the microphone is in processing and its cue selection (step 8 of 00_scope.md section 2.2) is still to come. -/
def State.awaitsCue (s : State) (mic : Nat) : Prop := ∃ p, s.inProcessing = some p ∧ p.sighting.mic = mic ∧ p.done < 8

/-- R160, R162: a cued entry's pattern is the one its records give, any other entry's is 0, but for an entry in processing that has
not come to its cue selection; and the refresh timer runs exactly while the pattern is not 0. -/
def CueLaw (s : State) : Prop :=
  ∀ e ∈ s.table,
    (¬s.awaitsCue e.mic → e.cue = if cued s.station e then cuePattern e else 0) ∧ (e.cueRefresh.isRunning ↔ e.cue ≠ 0)

/-! ## What a command leaves unchanged

The hand-offs of a change (R23, R80, R98, R101, R117, R118) reach the queues, the zone, ATTN and the lamps, and in other entries
only what the chamber was told and the repeat timers. -/

/-- A record but for what the chamber was told and the repeat timer. -/
def Record.untold (r : Record) : Record := { r with chamber := .unknown, chamberAcked := false, repeatTimer := .stopped }

/-- An entry but for what the chamber was told, the repeat timers and the check word. -/
def Entry.untold (e : Entry) : Entry :=
  { e with
    recBattery := e.recBattery.untold
    recMute := e.recMute.untold
    recSignal := e.recSignal.untold
    checkGood := true }

/-- The table but for what the chamber was told and the repeat timers. -/
def State.view (s : State) : List Entry := s.table.map Entry.untold

/-- That view with the entry of `mic` replaced by `e`. -/
def State.viewWith (mic : Nat) (e : Entry) (s : State) : List Entry :=
  s.table.map fun x => (if x.mic = mic then e else x).untold

/-- Only what hand-offs reach differs: the table, the transmit queue with its two timers, the zone, the cue queue, ATTN, the
lamps, and the two counters of drops. -/
def State.onlyHandOffs (s t : State) : Prop :=
  t = { s with
    table := t.table
    tx := t.tx
    stationRepeat := t.stationRepeat
    lostCount := t.lostCount
    zone := t.zone
    zoneRepeat := t.zoneRepeat
    cueQueue := t.cueQueue
    attn := t.attn
    lampBattery := t.lampBattery
    lampMute := t.lampMute
    lampSignal := t.lampSignal
    lampStation := t.lampStation
    counters := { s.counters with
      framesDropped := t.counters.framesDropped
      cuesDropped := t.counters.cuesDropped } }

/-! ## What an entry becomes -/

/-- The records stepped on the inputs that the entry has in this state (R58). -/
def State.stepped (s : State) (e : Entry) : Entry :=
  { e with
    recBattery := e.recBattery.step s.params s.now .battery (batteryInput s.station e)
    recMute := e.recMute.step s.params s.now .mute (muteInput s.station s.floor e)
    recSignal := e.recSignal.step s.params s.now .signal (signalInput s.station e) }

/-- Steps 2 to 4 of a sighting's processing (00_scope.md section 2.2): quality and gap, battery, mute. -/
def Entry.gauged (p : Params) (now : Nat) (floorSet : List Nat) (creating : Bool) (g : Sighting) (e : Entry) : Entry :=
  (((e.quality creating g).gap creating g).sample p now g).muteStep floorSet g

/-- Those steps and the signal band of step 5. -/
def Entry.measure (p : Params) (now : Nat) (floorSet : List Nat) (creating : Bool) (g : Sighting) (e : Entry) : Entry :=
  (e.gauged p now floorSet creating g).bandStep p

/-- The entry after a cue selection (R161). -/
def State.recued (s : State) (e : Entry) : Entry :=
  if cued s.station e then
    if cuePattern e = e.cue then e
    else
      { e with
        cue := cuePattern e
        cueRefresh := if cuePattern e = 0 then .stopped else .running (s.now + s.params.cueRefreshMs) }
  else { e with cue := 0, cueRefresh := .stopped }

/-- The entry after a role decision for the own score `own` (R113, R117, R118). -/
def State.roleDecided (s : State) (own : Nat) (e : Entry) : Entry :=
  if reporterWins s.params s.number own e.claims then
    if e.role = .reporter then e else s.recued { e with role := .reporter, takeover := .stopped }
  else if e.role = .reporter then s.recued { e with role := .follower }
  else { e with role := .follower }

/-- The entry after a role computation (R113). -/
def State.roleComputed (s : State) (e : Entry) : Entry :=
  if e.presence = .heard ∧ e.role ≠ .pending ∧ s.station ≠ .listenOnly then
    s.roleDecided (e.q + if e.role = .reporter then s.params.roleMargin else 0) e
  else e

/-- The entry that has become SILENT (R23, R24, R28, R112, R116). -/
def State.silenced (s : State) (e : Entry) : Entry :=
  let moved := { e with
    presence := .silent
    loss := .stopped
    lostForget := if s.station = .feedDown then .paused s.params.lostForgetMs else .running (s.now + s.params.lostForgetMs) }
  let placed := if e.role = .reporter then moved else
    { moved with
      role := .follower
      pendingTimer := .stopped
      takeover := if s.station = .listenOnly then e.takeover else .running (s.now + s.params.repeatMs) }
  { s.stepped placed with cue := 0, cueRefresh := .stopped }

/-- The entry that has become COVERED and stays (R23, R24, R26, R114). -/
def State.covered (s : State) (e : Entry) : Entry :=
  { s.stepped { e with
      presence := .covered
      loss := .stopped
      lostForget := .stopped
      role := .follower
      pendingTimer := .stopped
      takeover := .stopped } with
    cue := 0, cueRefresh := .stopped }

/-- The entry whose claim list has become `l`, which does not make it COVERED (R110). -/
def State.claimed (s : State) (l : List Claim) (e : Entry) : Entry :=
  if e.presence = .covered ∧ l = [] then s.silenced { e with claims := l } else s.roleComputed { e with claims := l }

/-- What a claim of `source` for the pair `p` makes of an entry (R108 to R110, R26, R113): nothing when it names another microphone,
comes from station 0 or an ABSENT station, or finds no place; `none` when the entry is removed, SILENT with its forget timer
expired (R27). -/
def State.claimedBy (s : State) (source : Nat) (e : Entry) (p : Pair) : Option Entry :=
  if p.mic ≠ e.mic ∨ source = 0 ∨ s.hasPeer source = false then some e
  else
    match enterClaim s.params ⟨source, p.q, p.reporter, s.now⟩ e.claims with
    | none => some e
    | some l =>
      if e.presence = .silent then
        if e.forget = .expired then none else some (s.covered { e with claims := l })
      else some (s.roleComputed { e with claims := l })

/-- The pairs of a frame taken for an entry in frame order (R108). -/
def State.claimedByAll (s : State) (source : Nat) : List Pair → Entry → Option Entry
  | [], e => some e
  | p :: rest, e =>
    match s.claimedBy source e p with
    | none => none
    | some f => s.claimedByAll source rest f

/-- What the end of the load leaves with a station number 1 to 15 (R175, R6, R127, R176, R182). -/
def State.Loaded (s t : State) (src : Source) (im : Image) : Prop :=
  t.station = .joining ∧ t.params = im.params ∧ t.source = src ∧ t.partialImage = im.partialImage ∧ t.load = .done ∧
  t.joining = .running (s.now + 3 * im.params.claimInterval) ∧ t.feed = .live ∧
  t.feedTimer = .running (s.now + im.params.feedTimeout) ∧ t.access = .busy ∧
  t.counters = { s.counters with configClamps := min 65535 (s.counters.configClamps + im.clamps) } ∧
  (t.attn ↔ s.zone ≠ .notInForce ∨ src = .defaults) ∧ t.table = s.table ∧ t.number = s.number ∧ t.tx = s.tx

/-- The entry resumed: its paused presence timers go on from the time they had left (R30). -/
def State.resumed (s : State) (e : Entry) : Entry :=
  { e with loss := e.loss.resume s.now, forget := e.forget.resume s.now, lostForget := e.lostForget.resume s.now }

/-- The role of a HEARD entry after a sighting: PENDING stays, and in LISTEN_ONLY nothing is computed (R112, R113, R114); then
the cue is selected (section 2.2, steps 7 and 8). -/
def State.sightedEnd (s : State) (e : Entry) : Entry := s.recued (s.roleComputed e)

/-! ## What the chamber is told -/

/-- The chamber holds another level than the record, so that an adoption asks for an ADOPT: a level that is not NONE and was not
told, or NONE where a level was told (the table of R117). -/
def Record.unadopted (r : Record) : Bool :=
  decide (r.level ≠ .none ∧ r.chamber ≠ .told r.level) ||
  decide (r.level = .none ∧ (r.chamber = .told .lower ∨ r.chamber = .told .higher))

/-- R99, R144: a WARN of LOST while ZONE_SILENT is in force is held back. -/
def State.holdsBack (s : State) (k : Kind) (l : Level) : Bool :=
  decide (s.zone ≠ .notInForce) && decide (k = .signal) && decide (l = .higher)

/-- The ADOPT requests of a sweep over the reported entries that pass the gates, in the sweep's order (R117, R144). -/
def State.adoptions (s : State) : List (Entry × Kind) :=
  (s.table.filter fun e => e.role = .reporter).flatMap fun e =>
    (([.battery, .mute, .signal] : List Kind).filter fun k =>
      (e.record k).unadopted && !s.holdsBack k (e.record k).level).map fun k => (e, k)

/-- A record of an entry that has forgotten what the chamber was told (R74). An entry in which that changes nothing is left as it
is; in any other the check word is computed anew (R35, notes/assumptions/6.md). -/
def Entry.forgets (k : Kind) (e : Entry) : Entry :=
  if (e.record k).chamber = .unknown ∧ (e.record k).chamberAcked = false then e
  else { e.setRecord k { e.record k with chamber := .unknown, chamberAcked := false } with checkGood := true }

/-- What R74 makes of the table when the frame `f` is discarded before it has been sent while `queue` stays queued: the record of a
WARN, found by microphone and kind (notes/assumptions/36.md), forgets, unless a WARN of the pair is queued
(notes/assumptions/14.md). -/
def discarded (queue : List TxFrame) (f : Frame) (table : List Entry) : List Entry :=
  match f with
  | .warn w =>
    if queue.any fun g => g.frame.warnFor w.mic w.kind then table
    else table.map fun e => if e.mic = w.mic then e.forgets w.kind else e
  | _ => table

/-- What becoming `role` leaves of the chamber fields and repeat timers of the entry `e` of `s`. With the role kept, or moved
between PENDING and FOLLOWER, they stay. With REPORTER lost, the repeat timers stop, and a record whose WARN was queued forgets
what the chamber was told (R118, R74). With REPORTER gained, the repeat timers run for unacknowledged levels (R76), and where
frames are accepted and the queue has room each record that the chamber holds otherwise is announced with ADOPT and told
(R117, R73). The room asked for is that of the three requests of one entry; an event that visits more entries asks for more. -/
def State.tellings (s t : State) (e : Entry) (role : Role) (room : Nat := 3) : Prop :=
  ∀ f k, t.entry? e.mic = some f →
    let r := e.record k
    let r' := f.record k
    let kept := r'.chamber = r.chamber ∧ r'.chamberAcked = r.chamberAcked
    let sends := s.station = .running ∨ s.station = .feedDown
    (e.role = role ∨ e.role ≠ .reporter ∧ role ≠ .reporter → kept ∧ r'.repeatTimer = r.repeatTimer) ∧
    (e.role = .reporter → role ≠ .reporter → r'.repeatTimer = .stopped ∧
      ((∃ g ∈ s.tx, g.frame.warnFor e.mic k = true) → r'.chamber = .unknown ∧ r'.chamberAcked = false) ∧
      ((∀ g ∈ s.tx, g.frame.warnFor e.mic k = false) → kept)) ∧
    (e.role ≠ .reporter → role = .reporter →
      r'.repeatTimer =
        (if r.level ≠ .none ∧ r.acked = false then .running (s.now + s.params.repeatInterval * 1000) else .stopped) ∧
      (¬sends ∨ r.unadopted = false ∨ s.holdsBack k r.level = true → kept) ∧
      (sends → r.unadopted = true → s.holdsBack k r.level = false → s.tx.length + room ≤ 16 →
        r'.chamber = .told r.level ∧ r'.chamberAcked = r.acked ∧
        ∃ g ∈ t.tx, g.frame = .warn (composeWarn s.now e k .adopt)))

/-! ## The configuration area (section 12.3) -/

/-- A field of `width` bytes, high byte first. -/
def bigEndian (width n : Nat) : List Byte := (List.range width).reverse.map fun i => byte (n / 256 ^ i)

/-- The 30 configured parameters as they are stored, each with its width in bytes. -/
def storedFields (p : Params) : List (Nat × Nat) :=
  [(2, p.feedTimeout), (2, p.lossTime), (2, p.forgetTime), (2, p.lostForget), (2, p.epochS), (2, p.nominalRate), (1, p.rateMin),
   (2, p.swapRise), (1, p.settleEpochs), (1, p.critMinutes), (1, p.lowMinutes), (2, p.cutoffMV), (2, p.lowPermille),
   (1, p.batteryStale), (3, p.qualifyBatteryLow), (3, p.qualifyBatteryCritical), (3, p.releaseBattery),
   (3, p.qualifyMutedOnFloor), (3, p.qualifyOpenOffFloor), (3, p.releaseMute), (3, p.qualifyWeak), (3, p.qualifyLost),
   (3, p.releaseSignal), (1, p.repeatInterval), (1, p.floorTimeout), (1, p.weakThreshold), (1, p.zoneThreshold),
   (2, p.claimInterval), (1, p.roleMargin), (1, p.cueRefresh)]

/-- Bytes 0 to 119 of an area that holds `p`: tag, format, parameters, knots, patterns. -/
def areaOf (p : Params) : List Byte :=
  [0xC6#8, 1#8] ++ (storedFields p).flatMap (fun f => bigEndian f.1 f.2) ++
  p.curve.flatMap (fun k => bigEndian 2 k.mV ++ bigEndian 2 k.permille) ++
  p.patterns.flatMap (fun c => bigEndian 2 c.on ++ bigEndian 2 c.off)

/-- Every value of `p` fits its field, with nine knots and six patterns. -/
structure Storable (p : Params) : Prop where
  fields : ∀ f ∈ storedFields p, f.2 < 256 ^ f.1
  knots : p.curve.length = 9 ∧ ∀ k ∈ p.curve, k.mV < 65536 ∧ k.permille < 65536
  patterns : p.patterns.length = 6 ∧ ∀ c ∈ p.patterns, c.on < 65536 ∧ c.off < 65536

end Sys2Proof.Machine
end

