-- ==== Sys2Proof/Certificates/Slice0/Obligations.lean ====
section
/-! DEFINITION. The statements for the provers. Each docstring says which rules it formalises; OBLIGATIONS.json lists them. -/

open Sys2Proof Sys2Proof.Machine

/-! ## Steps, reset, start and load -/

/-- A step runs the command at the front of the queue with the queue's rest. The clauses for an empty queue are the model's choice
(notes/assumptions/1.md): a sighting in processing is processed to its end, else one millisecond passes, also while a sighting, a
frame or a cue is queued whose taking waits for its command (notes/assumptions/38.md). -/
def Obligations.StepRunsTheFront : Prop :=
  (∀ (s : State) (c : Instr) (rest : List Instr),
    s.pending = c :: rest → step s = exec c { s with pending := rest }) ∧
  ∀ s : State, s.pending = [] →
    (s.underway = none → step s = .next { s with now := s.now + 1 }) ∧
    ∀ p, s.underway = some p → step s = exec (.sightingTaken 9) s

/-- The start values of every block (R6, R17, R81, R104, R106, R127, R129, R137, R141, R163, R165, R167, R182, R183), and the laws
of the device, which hold right after a start. -/
def Obligations.ResetHasTheStartValues : Prop :=
  let s := State.reset
  (s.station = .starting ∧ s.intake = [] ∧ s.strobe = .low ∧ s.feed = .live ∧ s.feedTimer = .stopped ∧ s.inProcessing = none ∧
    s.table = [] ∧ s.floorSet = [] ∧ s.floor = .stale ∧ s.floorTimer = .stopped ∧ s.zone = .notInForce ∧ s.zoneRepeat = .stopped ∧
    s.lostCount = 0 ∧ (∀ n, n < 16 → s.roster[n]? = some .absent) ∧ s.claimRound = .stopped ∧ s.access = .off ∧
    s.lastSender = false ∧ s.inFlight = none ∧ s.rx = [] ∧ s.inDispatch = none ∧ s.tx = [] ∧ s.stationRepeat = .stopped ∧
    s.cueQueue = [] ∧ s.cueTransfer = none ∧ (∀ l, s.gen l = ⟨0, .dark, .stopped, none⟩) ∧ s.joining = .stopped ∧
    s.fault = none ∧ s.window = .stopped ∧ s.attn = false ∧ ∀ n ∈ s.counters.toList, n = 0) ∧
  TableLaw s ∧ QueueLaw s ∧ SoundLaw s ∧ PresenceLaw s ∧ RosterLaw s ∧ RecordLaw s ∧ RepeatLaw s ∧ OrderLaw s ∧ ZoneQueueLaw s ∧
  WarnLaw s ∧ StartingLaw s ∧ JoiningLaw s ∧ ListenOnlyLaw s ∧ ZoneLaw s ∧ AttnLaw s ∧ LampLaw s ∧ CueLaw s

/-- START, in any state: every block at its start values; a strobe period cut by it is not collected on (R183, R1); a power-on
start lasts 20 ms, which RESET does not cut short (R190). The model's choices here: the millisecond time and the waiting commands
are kept (notes/assumptions/8.md); the station number 0, the built-in image, the source DEFAULTS and the clear partial flag stand
until the load (notes/assumptions/7.md); the claim-round number is 0 (notes/assumptions/17.md). -/
def Obligations.StartReturnsToTheStartValues : Prop :=
  ∀ (s : State) (cause : StartCause), ∃ t, exec (.start cause) s = .next t ∧
    t = { State.reset with
      now := s.now
      pending := s.pending
      strobe := t.strobe
      holdUntil := if cause = .powerOn then s.now + 20 else s.holdUntil } ∧
    (t.strobe = .low ↔ s.strobe = .low) ∧ ∀ bits, t.strobe ≠ .collecting bits

/-- LOAD_BEGIN: with a power-on start over, the straps are read once, and the read of SITE begins with its 50 ms (R183, R184,
R190); before that nothing begins. A bad SITE area leads to a FACTORY read, whether the answer is bad or none came in 50 ms
(R184). What makes an area good: the memory answers, with 128 bytes that begin with the tag C6H and the format 1 and end with the
CRC of the other 126 (R184, section 12.3). The transaction that reads an area, with the acknowledgement of each byte but the last
(R184). -/
def Obligations.LoadReadsTheAreas : Prop :=
  (∀ (s : State) (straps : BitVec 4), s.station = .starting → s.load = .held →
    (s.holdUntil ≤ s.now →
      exec (.loadBegin straps) s = .next { s with number := straps.toNat, load := .reading .site (s.now + 50) }) ∧
    (s.now < s.holdUntil → exec (.loadBegin straps) s = .next s)) ∧
  (∀ (s : State) (answer : Option (List Byte)) (limit : Nat), s.load = .reading .site limit → areaGood answer = false →
    exec (.areaReadComplete answer) s = .next { s with load := .reading .factory (s.now + 50) }) ∧
  (∀ (s : State) (limit : Nat), s.load = .reading .site limit → limit ≤ s.now →
    exec .areaReadTimeout s = .next { s with load := .reading .factory (s.now + 50) }) ∧
  (areaGood none = false ∧ ∀ bytes : List Byte, areaGood (some bytes) = true ↔
    bytes.length = 128 ∧ bytes.head? = some 0xC6#8 ∧ bytes[1]? = some 1#8 ∧
    256 * (bytes.getD 126 0).toNat + (bytes.getD 127 0).toNat = (crc16 (bytes.take 126)).toNat) ∧
  ∀ a : Area, areaTransaction a =
    [.start, .send 0xA0#8, .send (if a = .site then 0x80#8 else 0x00#8), .start, .send 0xA1#8] ++
      List.replicate 127 (.read true) ++ [.read false, .stop]

/-- A good area, or the built-in defaults after a second bad one, ends the load, and STARTING is left for JOINING (R175, R184).
With the straps at 0 it ends in LISTEN_ONLY with BAD_ID, and ATTN is asserted whatever the source (R175, R181, R182); the table is
empty in STARTING (R17). -/
def Obligations.LoadEnds : Prop :=
  let listening := fun (s t : State) (src : Source) (im : Image) => t.station = .listenOnly ∧ t.fault = some .badId ∧
    t.attn = true ∧ t.joining = .stopped ∧ t.source = src ∧ t.params = im.params ∧ t.partialImage = im.partialImage ∧
    t.load = .done ∧ t.feed = .live ∧ t.feedTimer = .running (s.now + im.params.feedTimeout) ∧ t.access = .busy
  let ends := fun (s : State) (c : Instr) (src : Source) (im : Image) =>
    (s.number ≠ 0 → ∃ t, exec c s = .next t ∧ State.Loaded s t src im) ∧
    (s.number = 0 → s.table = [] → ∃ t, exec c s = .next t ∧ listening s t src im)
  (∀ (s : State) (area : Area) (limit : Nat) (bytes : List Byte), s.load = .reading area limit → s.now ≤ limit →
    areaGood (some bytes) = true → ends s (.areaReadComplete (some bytes)) area.source (imageOfArea bytes)) ∧
  (∀ (s : State) (answer : Option (List Byte)) (limit : Nat), s.load = .reading .factory limit →
    areaGood answer = false → ends s (.areaReadComplete answer) .defaults ⟨defaultParams, false, 0⟩) ∧
  ∀ (s : State) (limit : Nat), s.load = .reading .factory limit → limit ≤ s.now →
    ends s .areaReadTimeout .defaults ⟨defaultParams, false, 0⟩

/-- Whatever an area holds, the image formed from it has every parameter within its range and every group in order (R185, R186,
the parameter table of section 11.5.1). An area that holds an image within its ranges by the layout of section 12.3 reads back as
that image, whole, without a clamp, its partial flag clear. Any stored values are each clamped to their limits, every change
counted, and then a group that does not hold takes its defaults, the partial flag telling of it (R185, R186). The bytes from 120
on are free. The built-in defaults are those of the parameter table and of section 3.3. -/
def Obligations.ImageWithinRanges : Prop :=
  let curveHas := fun l : List Knot => l.Pairwise (fun a b => a.mV < b.mV ∧ a.permille ≤ b.permille) ∧
    l.head?.map Knot.permille = some 0 ∧ l.getLast?.map Knot.permille = some 1000
  let inRange := fun p : Params =>
    (200 ≤ p.feedTimeout ∧ p.feedTimeout ≤ 5000) ∧ (300 ≤ p.lossTime ∧ p.lossTime ≤ 10000) ∧
    (5 ≤ p.forgetTime ∧ p.forgetTime ≤ 600) ∧ (30 ≤ p.lostForget ∧ p.lostForget ≤ 900) ∧
    (30 ≤ p.epochS ∧ p.epochS ≤ 300) ∧ (p.rateMin ≤ p.nominalRate ∧ p.nominalRate ≤ 400) ∧
    (1 ≤ p.rateMin ∧ p.rateMin ≤ 64) ∧ (50 ≤ p.swapRise ∧ p.swapRise ≤ 500) ∧
    (2 ≤ p.settleEpochs ∧ p.settleEpochs ≤ 15) ∧ (1 ≤ p.critMinutes ∧ p.critMinutes ≤ 60) ∧
    (p.critMinutes + 1 ≤ p.lowMinutes ∧ p.lowMinutes ≤ 240) ∧ (3000 ≤ p.cutoffMV ∧ p.cutoffMV ≤ 3600) ∧
    (20 ≤ p.lowPermille ∧ p.lowPermille ≤ 500) ∧ (5 ≤ p.batteryStale ∧ p.batteryStale ≤ 120) ∧
    (100 ≤ p.qualifyBatteryLow ∧ p.qualifyBatteryLow ≤ 120000) ∧
    (100 ≤ p.qualifyBatteryCritical ∧ p.qualifyBatteryCritical ≤ 120000) ∧
    (100 ≤ p.releaseBattery ∧ p.releaseBattery ≤ 120000) ∧
    (100 ≤ p.qualifyMutedOnFloor ∧ p.qualifyMutedOnFloor ≤ 120000) ∧
    (100 ≤ p.qualifyOpenOffFloor ∧ p.qualifyOpenOffFloor ≤ 120000) ∧
    (100 ≤ p.releaseMute ∧ p.releaseMute ≤ 120000) ∧ (100 ≤ p.qualifyWeak ∧ p.qualifyWeak ≤ 120000) ∧
    (100 ≤ p.qualifyLost ∧ p.qualifyLost ≤ 120000) ∧ (100 ≤ p.releaseSignal ∧ p.releaseSignal ≤ 120000) ∧
    (2 ≤ p.repeatInterval ∧ p.repeatInterval ≤ 60) ∧ (2 ≤ p.floorTimeout ∧ p.floorTimeout ≤ 30) ∧
    (30 ≤ p.weakThreshold ∧ p.weakThreshold ≤ 200) ∧ (4 ≤ p.zoneThreshold ∧ p.zoneThreshold ≤ 32) ∧
    (200 ≤ p.claimInterval ∧ p.claimInterval ≤ 2000) ∧ p.roleMargin ≤ 60 ∧
    (1 ≤ p.cueRefresh ∧ p.cueRefresh ≤ 10) ∧ p.patterns.length = 6 ∧
    (∀ c ∈ p.patterns, 50 ≤ c.on ∧ c.on ≤ 2000 ∧ 50 ≤ c.off ∧ c.off ≤ 2000) ∧ p.curve.length = 9 ∧ curveHas p.curve
  (∀ bytes : List Byte, inRange (imageOfArea bytes).params) ∧
  (∀ (p : Params) (tail : List Byte), inRange p → (∀ k ∈ p.curve, k.mV < 65536) →
    imageOfArea (areaOf p ++ tail) = ⟨p, false, 0⟩) ∧
  (∀ (p : Params) (tail : List Byte), Storable p →
    let im := imageOfArea (areaOf p ++ tail)
    let within := fun (lo hi x : Nat) => max lo (min hi x)
    let time := within 100 120000
    let batteryHas := within 1 60 p.critMinutes < within 2 240 p.lowMinutes
    let rateHas := within 1 64 p.rateMin ≤ within 1 400 p.nominalRate
    let limits : List (Nat × Nat × Nat) :=
      [(200, 5000, p.feedTimeout), (300, 10000, p.lossTime), (5, 600, p.forgetTime), (30, 900, p.lostForget),
        (30, 300, p.epochS), (1, 400, p.nominalRate), (1, 64, p.rateMin), (50, 500, p.swapRise), (2, 15, p.settleEpochs),
        (1, 60, p.critMinutes), (2, 240, p.lowMinutes), (3000, 3600, p.cutoffMV), (20, 500, p.lowPermille),
        (5, 120, p.batteryStale)] ++
      ([p.qualifyBatteryLow, p.qualifyBatteryCritical, p.releaseBattery, p.qualifyMutedOnFloor, p.qualifyOpenOffFloor,
        p.releaseMute, p.qualifyWeak, p.qualifyLost, p.releaseSignal].map fun x => (100, 120000, x)) ++
      [(2, 60, p.repeatInterval), (2, 30, p.floorTimeout), (30, 200, p.weakThreshold), (4, 32, p.zoneThreshold),
        (200, 2000, p.claimInterval), (0, 60, p.roleMargin), (1, 10, p.cueRefresh)] ++
      p.patterns.flatMap fun c => [(50, 2000, c.on), (50, 2000, c.off)]
    im.params = {
      feedTimeout := within 200 5000 p.feedTimeout
      lossTime := within 300 10000 p.lossTime
      forgetTime := within 5 600 p.forgetTime
      lostForget := within 30 900 p.lostForget
      epochS := within 30 300 p.epochS
      nominalRate := if rateHas then within 1 400 p.nominalRate else 40
      rateMin := if rateHas then within 1 64 p.rateMin else 4
      swapRise := within 50 500 p.swapRise
      settleEpochs := within 2 15 p.settleEpochs
      critMinutes := if batteryHas then within 1 60 p.critMinutes else 8
      lowMinutes := if batteryHas then within 2 240 p.lowMinutes else 30
      cutoffMV := within 3000 3600 p.cutoffMV
      lowPermille := within 20 500 p.lowPermille
      batteryStale := within 5 120 p.batteryStale
      qualifyBatteryLow := time p.qualifyBatteryLow
      qualifyBatteryCritical := time p.qualifyBatteryCritical
      releaseBattery := time p.releaseBattery
      qualifyMutedOnFloor := time p.qualifyMutedOnFloor
      qualifyOpenOffFloor := time p.qualifyOpenOffFloor
      releaseMute := time p.releaseMute
      qualifyWeak := time p.qualifyWeak
      qualifyLost := time p.qualifyLost
      releaseSignal := time p.releaseSignal
      repeatInterval := within 2 60 p.repeatInterval
      floorTimeout := within 2 30 p.floorTimeout
      weakThreshold := within 30 200 p.weakThreshold
      zoneThreshold := within 4 32 p.zoneThreshold
      claimInterval := within 200 2000 p.claimInterval
      roleMargin := within 0 60 p.roleMargin
      cueRefresh := within 1 10 p.cueRefresh
      curve := im.params.curve
      patterns := p.patterns.map fun c => ⟨within 50 2000 c.on, within 50 2000 c.off⟩ } ∧
    (curveHas p.curve → im.params.curve = p.curve) ∧ (¬curveHas p.curve → im.params.curve = defaultParams.curve) ∧
    (im.partialImage = false ↔ curveHas p.curve ∧ batteryHas ∧ rateHas) ∧
    im.clamps = limits.countP fun l => decide (l.2.2 < l.1 ∨ l.2.1 < l.2.2)) ∧
  defaultParams =
    { feedTimeout := 1000, lossTime := 1500, forgetTime := 30, lostForget := 120, epochS := 60, nominalRate := 40, rateMin := 4,
      swapRise := 200, settleEpochs := 5, critMinutes := 8, lowMinutes := 30, cutoffMV := 3300, lowPermille := 150,
      batteryStale := 20, qualifyBatteryLow := 10000, qualifyBatteryCritical := 3000, releaseBattery := 30000,
      qualifyMutedOnFloor := 4000, qualifyOpenOffFloor := 2000, releaseMute := 1000, qualifyWeak := 3000, qualifyLost := 500,
      releaseSignal := 2000, repeatInterval := 10, floorTimeout := 5, weakThreshold := 90, zoneThreshold := 6,
      claimInterval := 500, roleMargin := 12, cueRefresh := 3,
      curve := [⟨3300, 0⟩, ⟨3450, 50⟩, ⟨3550, 120⟩, ⟨3650, 250⟩, ⟨3720, 400⟩, ⟨3800, 550⟩, ⟨3900, 700⟩, ⟨4020, 850⟩,
        ⟨4170, 1000⟩],
      patterns := [⟨500, 1500⟩, ⟨150, 150⟩, ⟨300, 700⟩, ⟨100, 400⟩, ⟨800, 200⟩, ⟨1000, 1000⟩] }

/-- JOINING_TIMER_EXPIRY (R176). With the feed LIVE the station enters RUNNING, a STATION frame that says so is queued, the claim
rounds start, and the reported entries' cues are selected (R177). From the empty queue of JOINING (R143), each record of a
reported entry that the chamber holds otherwise, but LOST under ZONE_SILENT (R99), is announced with ADOPT behind it and told to
the chamber, in ascending order up to the queue's room and the rest counted, and its repeat timer runs while it is unacknowledged
(R117, R73, R147, R76). With the feed SILENT it enters FEED_DOWN under cause FEED (R178): the claim rounds stop, every presence
timer pauses, every record takes UNKNOWN, the cues are selected, and one STATION frame that says so is queued and starts the
station repeat timer; nothing is announced. -/
def Obligations.JoiningEnds : Prop :=
  ∀ s : State, TableLaw s → SoundLaw s → s.station = .joining → s.joining.isDue s.now = true →
    let again := Timer.running (s.now + s.params.repeatInterval * 1000)
    let told := s.adoptions.take 15
    let station : TxFrame := ⟨.station ⟨.running, s.zone, s.table.length, s.source, s.partialImage, s.fault⟩, 0⟩
    let down : TxFrame := ⟨.station ⟨.feedDown, .inForce .feed, s.table.length, s.source, s.partialImage, s.fault⟩, 0⟩
    let paused := fun e : Entry => ({ s with station := .feedDown }).recued { e with
      loss := e.loss.pause s.now
      forget := e.forget.pause s.now
      lostForget := e.lostForget.pause s.now
      recBattery := e.recBattery.step s.params s.now .battery .unknown
      recMute := e.recMute.step s.params s.now .mute .unknown
      recSignal := e.recSignal.step s.params s.now .signal .unknown }
    (s.feed = .live → ∃ t, exec .joiningTimerExpiry s = .next t ∧ t.station = .running ∧ t.joining = .stopped ∧
      t.claimRound = .running (s.now + s.params.claimInterval) ∧
      t.stationRepeat = again ∧ (∃ f ∈ t.tx, f.frame = station.frame) ∧
      t.view = (s.table.map fun e =>
        (if e.role = .reporter then ({ s with station := .running }).recued e else e).untold) ∧
      (JoiningLaw s →
        t.tx = station :: told.map (fun a => ⟨.warn (composeWarn s.now a.1 a.2 .adopt), 0⟩) ∧
        t.counters = { s.counters with
          framesDropped := if s.adoptions.length ≤ 15 then s.counters.framesDropped
            else min 65535 (s.counters.framesDropped + (s.adoptions.length - 15))
          cuesDropped := t.counters.cuesDropped } ∧
        ∀ e ∈ s.table, ∀ k f, t.entry? e.mic = some f →
          ((f.record k).repeatTimer =
            if e.role = .reporter ∧ (e.record k).unadopted = true then
              if (e.record k).level ≠ .none ∧ (e.record k).acked = false then again else .stopped
            else (e.record k).repeatTimer) ∧
          (e.role = .reporter ∧ (e, k) ∈ told → (f.record k).chamber = .told (e.record k).level ∧
            (f.record k).chamberAcked = (e.record k).acked) ∧
          ((e, k) ∉ told → (f.record k).chamber = (e.record k).chamber ∧
            (f.record k).chamberAcked = (e.record k).chamberAcked))) ∧
    (s.feed = .silent → ∃ t, exec .joiningTimerExpiry s = .next t ∧ t.station = .feedDown ∧ t.joining = .stopped ∧
      t.zone = .inForce .feed ∧ t.zoneRepeat = again ∧ t.attn = true ∧ t.claimRound = .stopped ∧ t.stationRepeat = again ∧
      (t.tx.filter fun f => f.frame.isStation) = [down] ∧ t.view = (s.table.map fun e => (paused e).untold) ∧
      (JoiningLaw s → t.tx = [down] ∧ t.table = s.table.map paused ∧
        t.counters = { s.counters with cuesDropped := t.counters.cuesDropped }))

/-! ## The feed -/

/-- STROBE_ASSERTED and RECORD_COMPLETION with the feed LIVE (R1 to R4, R15): the assertion empties the bit collector, and in
STARTING nothing is collected; a record of a strobe period that was not collected, or that completes in STARTING, is discarded
uncounted; a collected one meets the three tests in their order, each failure counted once with nothing else changed; a record
that passes is counted, restarts the feed-silence timer, and joins the intake queue or is dropped and counted at 32. -/
def Obligations.RecordCompletes : Prop :=
  ∀ (s : State) (c bits : List Bool), let r := c ++ bits; let bytes := bytesOfBits r
    let idle := { s with strobe := .low }
    let fed := { idle with feedTimer := .running (s.now + s.params.feedTimeout) }
    let accepted := { s.counters with feedAccepted := min 65535 (s.counters.feedAccepted + 1) }
    (s.station ≠ .starting → exec .strobeAsserted s = .next { s with strobe := .collecting [] }) ∧
    (s.station = .starting → exec .strobeAsserted s = .next { s with strobe := .unheard }) ∧
    (s.station = .starting ∨ s.strobe = .unheard → exec (.recordCompletion bits) s = .next idle) ∧
    (s.station ≠ .starting → s.strobe = .collecting c →
      (r.length ≠ 64 → exec (.recordCompletion bits) s =
        .next { idle with counters := { s.counters with feedFormat := min 65535 (s.counters.feedFormat + 1) } }) ∧
      (r.length = 64 → (bytes.map BitVec.toNat).sum % 256 ≠ 0 → exec (.recordCompletion bits) s =
        .next { idle with counters := { s.counters with feedCheck := min 65535 (s.counters.feedCheck + 1) } }) ∧
      (r.length = 64 → (bytes.map BitVec.toNat).sum % 256 = 0 → recordMic bytes = 0 ∨ 480 < recordMic bytes →
        exec (.recordCompletion bits) s =
          .next { idle with counters := { s.counters with feedRange := min 65535 (s.counters.feedRange + 1) } }) ∧
      (r.length = 64 → (bytes.map BitVec.toNat).sum % 256 = 0 → 1 ≤ recordMic bytes → recordMic bytes ≤ 480 → s.feed = .live →
        (s.intake.length < 32 → exec (.recordCompletion bits) s =
          .next { fed with counters := accepted, intake := s.intake ++ [formSighting s.now r] }) ∧
        (32 ≤ s.intake.length → exec (.recordCompletion bits) s =
          .next { fed with counters := { accepted with intakeOverrun := min 65535 (s.counters.intakeOverrun + 1) } })))

/-- The sighting formed from the eight bytes of a record, field by field of section 12.1, with the RSSI clamped and the status
carried only when the status-present flag is set (R3). The bits not read are free. -/
def Obligations.SightingFields : Prop :=
  ∀ (now mic code junk : Nat) (rssi b4 b5 b6 b7 : Byte) (err status valid mute high : Bool),
    mic < 512 → code < 128 → junk < 8 →
    formSighting now
      ([byte (mic / 2), byte (128 * (mic % 2) + 64 * flag err + 32 * flag status + 16 * flag valid + 8 * flag mute + junk),
        rssi, byte (128 * flag high + code), b4, b5, b6, b7].flatMap msbFirst) =
      { arrival := now
        mic := mic
        rssi := max (-110) (min (-20) rssi.toInt)
        errored := err
        mute := if status then some mute else none
        battery := if status && valid then some code else none
        carried := false }

/-- The feed return outside FEED_DOWN (R16, R13, R14): every entry is marked gap-void, every queued sighting carried, and the
arriving sighting, not carried, joins the queue or is dropped. -/
def Obligations.FeedReturns : Prop :=
  ∀ (s : State) (c bits : List Bool), let r := c ++ bits
    let live := { s with
      strobe := .low
      feed := .live
      feedTimer := .running (s.now + s.params.feedTimeout)
      table := s.table.map fun (e : Entry) => { e with gapVoid := true } }
    let accepted := { s.counters with feedAccepted := min 65535 (s.counters.feedAccepted + 1) }
    let queued := s.intake.map Sighting.carry
    TableLaw s → SoundLaw s → s.station ≠ .starting → s.station ≠ .feedDown → s.strobe = .collecting c →
    s.feed = .silent → validate r = .accepted →
    (s.intake.length < 32 → exec (.recordCompletion bits) s =
      .next { live with counters := accepted, intake := queued ++ [formSighting s.now r] }) ∧
    (32 ≤ s.intake.length → exec (.recordCompletion bits) s =
      .next { live with
        counters := { accepted with intakeOverrun := min 65535 (s.counters.intakeOverrun + 1) },
        intake := queued })

/-- The feed return in FEED_DOWN (R179): the station becomes RUNNING, the presence timers resume and every entry is given its
inputs, the cause FEED ends in cause COUNT above the exit level and otherwise with the zone (R103), a STATION frame that says so
is queued, the claim rounds start, and the reported entries are adopted (R117), their cues selected. The record is counted and
restarts the feed-silence timer, the queued sightings are carried, and the arriving one, not carried, joins the queue behind them
or is dropped at 32 and counted (R16, R14, R3, R4). -/
def Obligations.FeedReturnLeavesFeedDown : Prop :=
  ∀ (s : State) (c bits : List Bool), let run := { s with station := .running }
    let again := Timer.running (s.now + s.params.repeatInterval * 1000)
    let asks := { s with zone := .notInForce }
    TableLaw s → SoundLaw s → s.station = .feedDown → s.zone = .inForce .feed → s.strobe = .collecting c →
    s.feed = .silent → validate (c ++ bits) = .accepted →
    ∃ t, exec (.recordCompletion bits) s = .next t ∧ t.station = .running ∧ t.feed = .live ∧ t.strobe = .low ∧
      t.feedTimer = .running (s.now + s.params.feedTimeout) ∧
      t.intake = s.intake.map Sighting.carry ++ (if s.intake.length < 32 then [formSighting s.now (c ++ bits)] else []) ∧
      t.counters = { s.counters with
        feedAccepted := min 65535 (s.counters.feedAccepted + 1)
        intakeOverrun := if s.intake.length < 32 then s.counters.intakeOverrun else min 65535 (s.counters.intakeOverrun + 1)
        framesDropped := t.counters.framesDropped
        cuesDropped := t.counters.cuesDropped } ∧
      (s.params.zoneThreshold - 3 < t.lostCount → t.zone = .inForce .count ∧ t.zoneRepeat = again) ∧
      (t.lostCount ≤ s.params.zoneThreshold - 3 → t.zone = .notInForce ∧ t.zoneRepeat = .stopped) ∧
      (s.table ≠ [] → t.lostCount = lostOf t.table) ∧ t.stationRepeat = again ∧
      (∃ f ∈ t.tx, f.frame = .station ⟨.running, t.zone, s.table.length, s.source, s.partialImage, s.fault⟩) ∧
      t.claimRound = .running (s.now + s.params.claimInterval) ∧
      t.view = (s.table.map fun e =>
        let back := run.stepped (s.resumed { e with gapVoid := true })
        (if e.role = .reporter then run.recued back else back).untold) ∧
      (s.tx.length + asks.adoptions.length + 1 ≤ 16 → ∀ e ∈ s.table, ∀ k, e.role = .reporter → (e.record k).unadopted = true →
        t.holdsBack k (e.record k).level = false →
        (∃ g ∈ t.tx, g.frame = .warn (composeWarn s.now e k .adopt)) ∧
        ∀ f, t.entry? e.mic = some f → (f.record k).chamber = .told (e.record k).level ∧
          (f.record k).chamberAcked = (e.record k).acked)

/-- FEED_SILENCE_EXPIRY (R15, R178): outside RUNNING only the feed state changes; in RUNNING the station enters FEED_DOWN under
cause FEED, the queued WARN frames of LOST leave when the zone was not in force (R102), one STATION frame that says so is queued,
the claim rounds stop, every presence timer pauses with the time it had left (R30), and every record takes UNKNOWN. -/
def Obligations.FeedFallsSilent : Prop :=
  ∀ s : State, s.feed = .live → s.feedTimer.isDue s.now = true →
    (s.station ≠ .running → exec .feedSilenceExpiry s = .next { s with feed := .silent, feedTimer := .stopped }) ∧
    (s.station = .running → TableLaw s → SoundLaw s → ∃ t, exec .feedSilenceExpiry s = .next t ∧
      t.station = .feedDown ∧ t.feed = .silent ∧ t.feedTimer = .stopped ∧ t.zone = .inForce .feed ∧
      t.claimRound = .stopped ∧ t.attn = true ∧ t.zoneRepeat = .running (s.now + s.params.repeatInterval * 1000) ∧
      (t.tx.filter fun f => f.frame.isStation) =
        [⟨.station ⟨.feedDown, .inForce .feed, s.table.length, s.source, s.partialImage, s.fault⟩, 0⟩] ∧
      (s.zone = .notInForce → ∀ f ∈ t.tx, f.frame.lostWarn = false) ∧
      t.view = s.table.map fun e => Entry.untold { e with
        loss := e.loss.pause s.now
        forget := e.forget.pause s.now
        lostForget := e.lostForget.pause s.now
        recBattery := e.recBattery.step s.params s.now .battery .unknown
        recMute := e.recMute.step s.params s.now .mute .unknown
        recSignal := e.recSignal.step s.params s.now .signal .unknown })

/-! ## Sightings -/

/-- The quality and gap arithmetic of a sighting (R7 to R10, R12 to R14). -/
def Obligations.QualityAndGap : Prop :=
  ∀ (e : Entry) (g : Sighting) (creating : Bool), let f := (e.quality creating g).gap creating g
    (-110 ≤ g.rssi → g.rssi ≤ -20 → (f.qs : Int) = 3 * max 0 (min 80 (g.rssi + 100)) ∧ f.qs ≤ 240) ∧
    (creating = true → f.qf = f.qs ∧ f.longestGap = 0) ∧
    (creating = false → (f.qf : Int) = e.qf + ((f.qs : Int) - e.qf).tdiv 4 ∧
      min e.qf f.qs ≤ f.qf ∧ f.qf ≤ max e.qf f.qs) ∧
    (e.history.length ≤ 16 → f.history = ((e.history ++ [g.errored]).reverse.take 16).reverse) ∧
    (f.q : Int) = max 0 (f.qf - 10 * (f.history.countP (· == true) : Int)) ∧
    f.lastLocal = g.arrival ∧ f.gapVoid = g.carried ∧
    (creating = false → g.carried = true ∨ e.gapVoid = true → f.longestGap = e.longestGap) ∧
    (creating = false → g.carried = false → e.gapVoid = false →
      f.longestGap = max e.longestGap (min 65535 (g.arrival - e.lastLocal)))

/-- SIGHTING_TAKEN, whole, for a microphone with an entry: the presence part (R19), the measures, the three inputs, the role and
the cue, in the order of section 2.2. Where the sighting moves no zone state, the chamber fields and repeat timers of the entry
are as its role kept, gained or lost leaves them (R117, R118, R74, R76); what the zone's end re-announces is ZoneComesAndGoes'.
The steps are spelled: the sample (R39), the mute state and candidate (R86, R87), the band (R94), and the inputs by station state,
presence and band (R52, R88, R95). -/
def Obligations.SightingOfKnownMicrophone : Prop :=
  (∀ (s : State) (g : Sighting) (rest : List Sighting) (e : Entry), TableLaw s → SoundLaw s →
    s.underway = none → s.intake = g :: rest → s.entry? g.mic = some e →
    let len := fun n => if s.station = .feedDown then Timer.paused n else .running (s.now + n)
    let heard := { e with
      presence := .heard
      loss := len s.params.lossTime
      forget := len (1000 * s.params.forgetTime)
      lostForget := .stopped
      sightings := min 65535 (e.sightings + 1)
      takeover := .stopped }
    ∃ t, exec (.sightingTaken 9) s = .next t ∧ ({ s with intake := rest, inProcessing := none }).onlyHandOffs t ∧
      t.lostCount = lostOf t.table ∧
      let sighted := s.stepped (heard.measure s.params s.now s.floorSet false g)
      t.view = s.viewWith g.mic (s.sightedEnd sighted) ∧ (t.zone = s.zone → s.tellings t sighted (s.sightedEnd sighted).role)) ∧
  (∀ (p : Params) (now : Nat) (floorSet : List Nat) (g : Sighting) (e : Entry),
    (g.battery = none → e.sample p now g = e) ∧
    (∀ code, g.battery = some code → e.sample p now g = { e with battery := e.battery.sample p now code }) ∧
    (g.mute = none → e.muteStep floorSet g = e) ∧
    (g.mute = some true → e.muteStep floorSet g =
      { e with mute := .muted, muteCand := if e.mic ∈ floorSet then .lower else .none }) ∧
    (g.mute = some false → e.muteStep floorSet g =
      { e with mute := .open_, muteCand := if e.mic ∈ floorSet then .none else .higher }) ∧
    e.bandStep p = { e with band :=
      if e.q < p.weakThreshold then .weak else if e.q ≤ p.weakThreshold + 14 then e.band else .none }) ∧
  ∀ (st : StationState) (floor : FloorKnowledge) (e : Entry),
    batteryInput st e = (if st = .feedDown ∨ e.presence ≠ .heard ∨ e.battery.cell = none ∨ e.battery.stale = .expired
      then .unknown else .level e.battery.cand) ∧
    muteInput st floor e = (if st = .feedDown ∨ floor = .stale ∨ e.presence ≠ .heard ∨ e.mute = .unknown
      then .unknown else .level e.muteCand) ∧
    (st = .feedDown → signalInput st e = .unknown) ∧
    (st ≠ .feedDown → e.presence = .heard → e.band = .none → signalInput st e = .level .none) ∧
    (st ≠ .feedDown → e.presence = .heard → e.band = .weak → signalInput st e = .level .lower) ∧
    (st ≠ .feedDown → e.presence = .covered → signalInput st e = .level .none) ∧
    (st ≠ .feedDown → e.presence = .silent → signalInput st e = .level .higher)

/-- SIGHTING_TAKEN, whole, for a microphone with no entry and a table with room: the new entry stands at its place with the
starting values of R20, and the processing has gone on in it exactly as in an existing one, its quality and gap fields those of a
creating sighting (R20, R12, R112); the other entries stay. The quality fields of `started` are the model's choice
(notes/assumptions/35.md), and step 2 sets each of them before the processing ends. -/
def Obligations.SightingAdmits : Prop :=
  ∀ (s : State) (g : Sighting) (rest : List Sighting), TableLaw s → SoundLaw s →
    s.underway = none → s.intake = g :: rest → s.entry? g.mic = none → s.table.length < 96 →
    let len := fun n => if s.station = .feedDown then Timer.paused n else .running (s.now + n)
    let quiet : Record :=
      { state := .quiet, level := .none, pending := none, persist := .stopped, acked := false, chamber := .unknown,
        chamberAcked := false, repeatTimer := .stopped, logLower := false, logHigher := false, residencyBase := 0,
        spellStart := none, raiseCount := 0 }
    let started : Entry :=
      { mic := g.mic, presence := .heard, lastLocal := g.arrival, sightings := 1, gapVoid := false, longestGap := 0,
        loss := len s.params.lossTime, forget := len (1000 * s.params.forgetTime), lostForget := .stopped, qs := 0, qf := 0,
        history := [], q := 0, mute := .unknown, muteCand := .none,
        battery := ⟨none, 0, none, .stopped, false, .none, .stopped⟩,
        band := .none, claims := [], role := (if s.station = .listenOnly then .follower else .pending),
        pendingTimer := (if s.station = .listenOnly then .stopped else .running (s.now + 2 * s.params.claimInterval)),
        takeover := .stopped, recBattery := quiet, recMute := quiet, recSignal := quiet, cue := 0, cueRefresh := .stopped,
        checkGood := true }
    let entry := s.stepped (started.measure s.params s.now s.floorSet true g)
    ∃ t, exec (.sightingTaken 9) s = .next t ∧ ({ s with intake := rest, inProcessing := none }).onlyHandOffs t ∧
      t.entry? g.mic = some entry ∧ t.mics.Pairwise (· < ·) ∧ t.table.length = s.table.length + 1 ∧
      (entry.qf = entry.qs ∧ entry.longestGap = 0) ∧
      ∀ mic, mic ≠ g.mic → (t.entry? mic).map Entry.untold = (s.entry? mic).map Entry.untold

/-- SIGHTING_TAKEN for a microphone with no entry and a full table (R21): refused and counted when no entry may give way; else a
COVERED entry with the oldest last local sighting time, the lower mic ID between equals, gives way first. -/
def Obligations.FullTable : Prop :=
  ∀ (s : State) (g : Sighting) (rest : List Sighting), TableLaw s → SoundLaw s →
    s.underway = none → s.intake = g :: rest → s.entry? g.mic = none → s.table.length = 96 →
    ((∀ e ∈ s.table, e.presence ≠ .covered ∧
        ¬(e.presence = .silent ∧ e.lostForget = .expired ∧ e.recSignal.state = .quiet)) →
      exec (.sightingTaken 9) s = .next { s with
        intake := rest
        inProcessing := none
        counters := { s.counters with tableFull := min 65535 (s.counters.tableFull + 1) } }) ∧
    ∀ v ∈ s.table,
      ((v.presence = .covered ∧ ∀ e ∈ s.table, e.presence = .covered → e ≠ v →
          v.lastLocal < e.lastLocal ∨ v.lastLocal = e.lastLocal ∧ v.mic < e.mic) ∨
        ((∀ e ∈ s.table, e.presence ≠ .covered) ∧ v.presence = .silent ∧ v.lostForget = .expired ∧
          v.recSignal.state = .quiet ∧
          ∀ e ∈ s.table, e.presence = .silent → e.lostForget = .expired → e.recSignal.state = .quiet → e ≠ v →
            v.lastLocal < e.lastLocal ∨ v.lastLocal = e.lastLocal ∧ v.mic < e.mic)) →
      ∃ t, exec (.sightingTaken 9) s = .next t ∧ t.entry? v.mic = none ∧ (t.entry? g.mic).isSome ∧ t.table.length = 96 ∧
        ∀ mic, mic ≠ g.mic → mic ≠ v.mic → (t.entry? mic).map Entry.untold = (s.entry? mic).map Entry.untold

/-- A sighting's processing met by other commands (R33, R54, R5): taken in two parts it ends as in one; after its first part,
through the mute step, the entry is HEARD and measured with its inputs still to come; and the rest, on whatever a command between
has left of the entry, gives the inputs anew, then role and cue. A removed entry ends the processing: the next sighting is taken.
That the parts are those of section 2.2's steps is the model's choice (notes/assumptions/4.md). -/
def Obligations.ProcessingInParts : Prop :=
  (∀ (s t : State) (a b : Nat), a ≤ b → exec (.sightingTaken a) s = .next t → t.underway ≠ none →
    exec (.sightingTaken b) t = exec (.sightingTaken b) s) ∧
  (∀ (s : State) (g : Sighting) (rest : List Sighting) (e : Entry), TableLaw s → SoundLaw s →
    s.underway = none → s.intake = g :: rest → s.entry? g.mic = some e →
    let len := fun n => if s.station = .feedDown then Timer.paused n else .running (s.now + n)
    let heard := { e with
      presence := .heard
      loss := len s.params.lossTime
      forget := len (1000 * s.params.forgetTime)
      lostForget := .stopped
      sightings := min 65535 (e.sightings + 1)
      takeover := .stopped }
    exec (.sightingTaken 4) s = .next { s with
      intake := rest
      inProcessing := some ⟨g, false, 4⟩
      table := s.table.map fun x => if x.mic = g.mic then heard.gauged s.params s.now s.floorSet false g else x }) ∧
  (∀ (s : State) (g : Sighting) (creating : Bool) (e : Entry), TableLaw s → SoundLaw s →
    s.inProcessing = some ⟨g, creating, 4⟩ → s.entry? g.mic = some e →
    ∃ t, exec (.sightingTaken 9) s = .next t ∧ ({ s with inProcessing := none }).onlyHandOffs t ∧ t.lostCount = lostOf t.table ∧
      t.view = s.viewWith g.mic (s.sightedEnd (s.stepped (e.bandStep s.params)))) ∧
  ∀ (s : State) (p : Processing) (n : Nat), s.inProcessing = some p → s.entry? p.sighting.mic = none → s.intake ≠ [] →
    exec (.sightingTaken n) s = exec (.sightingTaken n) { s with inProcessing := none }

/-! ## Presence timers -/

/-- LOSS_TIMER_EXPIRY (R24, R23): with an empty claim list the entry becomes SILENT and the lost-forget timer starts; with a claim
it becomes COVERED and FOLLOWER, or is removed when its forget timer has expired (R27). Where no zone state moves, or at a COVERED
move from a state that keeps WarnLaw, the chamber fields and repeat timers are as the role kept or lost leaves them (R118). -/
def Obligations.LossExpires : Prop :=
  ∀ (s : State) (mic : Nat) (e : Entry), TableLaw s → SoundLaw s → s.entry? mic = some e → e.loss.isDue s.now = true →
    (e.claims = [] → ∃ t, exec (.lossTimerExpiry mic) s = .next t ∧ s.onlyHandOffs t ∧ t.lostCount = lostOf t.table ∧
      t.view = s.viewWith mic (s.silenced e) ∧ (t.zone = s.zone → s.tellings t e (s.silenced e).role)) ∧
    (e.claims ≠ [] → e.forget ≠ .expired → ∃ t, exec (.lossTimerExpiry mic) s = .next t ∧ s.onlyHandOffs t ∧
      t.lostCount = lostOf t.table ∧ t.view = s.viewWith mic (s.covered e) ∧
      (t.zone = s.zone ∨ WarnLaw s → s.tellings t e .follower)) ∧
    (e.claims ≠ [] → e.forget = .expired → ∃ t, exec (.lossTimerExpiry mic) s = .next t ∧ s.onlyHandOffs t ∧
      t.entry? mic = none ∧ t.view = (s.table.filter fun x => x.mic ≠ mic).map Entry.untold)

/-- FORGET_TIMER_EXPIRY (R27, R34): a COVERED entry is removed with its queued WARN frames; any other keeps the mark.
LOST_FORGET_EXPIRY (R28): the entry is removed when its SIGNAL record is QUIET or acknowledged, else it is held with the timer
marked elapsed. -/
def Obligations.ForgettingExpires : Prop :=
  ∀ (s : State) (mic : Nat) (e : Entry), TableLaw s → SoundLaw s → s.entry? mic = some e →
    let removed := fun t : State => s.onlyHandOffs t ∧ t.entry? mic = none ∧
      t.view = (s.table.filter fun x => x.mic ≠ mic).map Entry.untold ∧ ∀ f ∈ t.tx, f.frame.warnOf mic = false
    (e.forget.isDue s.now = true → e.presence ≠ .covered → exec (.forgetTimerExpiry mic) s =
      .next { s with table := s.table.map fun x => if x.mic = mic then { x with forget := .expired } else x }) ∧
    (e.forget.isDue s.now = true → e.presence = .covered → ∃ t, exec (.forgetTimerExpiry mic) s = .next t ∧ removed t) ∧
    (e.lostForget.isDue s.now = true → e.recSignal.state ≠ .quiet → e.recSignal.acked = false →
      exec (.lostForgetExpiry mic) s =
        .next { s with table := s.table.map fun x => if x.mic = mic then { x with lostForget := .expired } else x }) ∧
    (e.lostForget.isDue s.now = true → e.recSignal.state = .quiet ∨ e.recSignal.acked = true →
      ∃ t, exec (.lostForgetExpiry mic) s = .next t ∧ removed t)

/-! ## Battery -/

/-- EPOCH_TIMER_EXPIRY (R44, R53) and STALE_TIMER_EXPIRY (R42): an epoch without samples is skipped and nothing else changes; an
epoch with samples is ended and the BATTERY input given; a stale expiry marks the timer and gives UNKNOWN. -/
def Obligations.BatteryTimersExpire : Prop :=
  ∀ (s : State) (mic : Nat) (e : Entry), TableLaw s → SoundLaw s → s.entry? mic = some e →
    let given := fun (b : Battery) (i : Input) => { s with table := s.table.map fun x => if x.mic = mic then
      { e with battery := b, recBattery := e.recBattery.step s.params s.now .battery i } else x }
    (e.battery.epoch.isDue s.now = true → e.battery.sampled = false → exec (.epochTimerExpiry mic) s =
      .next { s with table := s.table.map fun x => if x.mic = mic then
        { e with battery := { e.battery with epoch := .running (s.now + s.params.epochS * 1000) } } else x }) ∧
    (∀ c, e.battery.epoch.isDue s.now = true → e.battery.sampled = true → e.battery.cell = some c →
      exec (.epochTimerExpiry mic) s = .next (given (e.battery.endEpoch s.params s.now c)
        (if s.station = .feedDown ∨ e.presence ≠ .heard ∨ e.battery.stale = .expired then .unknown
          else .level (e.battery.endEpoch s.params s.now c).cand))) ∧
    (e.battery.stale.isDue s.now = true → exec (.staleTimerExpiry mic) s =
      .next (given { e.battery with stale := .expired } .unknown))

/-- A sample and the end of an epoch with samples, on the battery block (R39 to R41, R45 to R48): the seed, the filter with its
truncation, the swap, the rate, the count and the minutes. That a settled cell's candidate may leave CRITICAL at a sample, by R50 and
the example of section 4.7.3, where R51 says that it falls only at an epoch end, is the model's reading (notes/assumptions/39.md). -/
def Obligations.BatterySamplesAndEpochs : Prop :=
  (∀ (p : Params) (now code : Nat) (b : Battery), let v := 2900 + 10 * code; let t := b.sample p now code
    let epoch := Timer.running (now + p.epochS * 1000)
    let stale := Timer.running (now + p.batteryStale * 1000)
    (b.cell = none → t =
      { cell := some ⟨v, v, chargeOf p.curve v, chargeOf p.curve v, p.nominalRate⟩, epochCount := 0, minutes := none,
        epoch := epoch, sampled := false, stale := stale,
        cand := if v < p.cutoffMV then .higher else if chargeOf p.curve v < p.lowPermille then .lower else .none }) ∧
    ∀ c, b.cell = some c → ∃ vf : Nat, (vf : Int) = c.vf + ((v : Int) - c.vf).tdiv 8 ∧ min c.vf v ≤ vf ∧ vf ≤ max c.vf v ∧
      let cell : Cell := { c with last := v, vf := vf, charge := chargeOf p.curve vf }
      t = { b with cell := some cell, sampled := true, stale := stale, cand := nextCandidate p cell b.minutes b.cand }) ∧
  ∀ (p : Params) (now : Nat) (c : Cell) (b : Battery), let t := b.endEpoch p now c
    let epoch := Timer.running (now + p.epochS * 1000)
    (c.chargeRef + p.swapRise ≤ c.charge → t =
      { cell := some ⟨c.last, c.last, chargeOf p.curve c.last, chargeOf p.curve c.last, p.nominalRate⟩, epochCount := 0,
        minutes := none, epoch := epoch, sampled := false, stale := b.stale,
        cand := if c.last < p.cutoffMV then .higher
          else if chargeOf p.curve c.last < p.lowPermille then .lower else .none }) ∧
    (c.charge < c.chargeRef + p.swapRise → p.rateMin ≤ 4000 → ∃ rate : Nat,
      (rate : Int) = max (p.rateMin : Int) (min 4000 (c.rate + (16 * max 0 ((c.chargeRef : Int) - c.charge) - (c.rate : Int)).tdiv 4)) ∧
      let cell : Cell := { c with rate := rate, chargeRef := c.charge }
      let minutes := if b.minutes.isSome ∨ p.settleEpochs ≤ min 15 (b.epochCount + 1) then some (min 999 (16 * c.charge / rate))
        else none
      t = { b with
        cell := some cell
        epochCount := min 15 (b.epochCount + 1)
        minutes := minutes
        epoch := epoch
        sampled := false
        cand := nextCandidate p cell minutes b.cand })

/-- The charge curve (R43): 0 below the first knot, 1000 from the last on, and between two neighbouring knots the line between
them, rounded down. -/
def Obligations.ChargeCurve : Prop :=
  ∀ (curve : List Knot) (vf : Nat), curveHolds curve = true →
    (∀ k, curve.head? = some k → vf < k.mV → chargeOf curve vf = 0) ∧
    (∀ k, curve.getLast? = some k → k.mV ≤ vf → chargeOf curve vf = 1000) ∧
    (∀ pre a b post, curve = pre ++ a :: b :: post → a.mV ≤ vf → vf < b.mV →
      chargeOf curve vf = a.permille + (vf - a.mV) * (b.permille - a.permille) / (b.mV - a.mV) ∧
      a.permille ≤ chargeOf curve vf ∧ chargeOf curve vf ≤ b.permille) ∧
    chargeOf curve vf ≤ 1000

/-- The battery candidate (R49, R50): the raw level by the settled flag, a rise taken at once, a fall only through the exit
margins, one level at a time; the seed and the re-seed take the raw level directly. -/
def Obligations.BatteryCandidate : Prop :=
  (∀ (p : Params) (c : Cell) (m : Nat),
    rawLevel p c (some m) =
      (if m < p.critMinutes ∨ c.vf < p.cutoffMV then .higher else if m < p.lowMinutes then .lower else .none) ∧
    rawLevel p c none = (if c.vf < p.cutoffMV then .higher else if c.charge < p.lowPermille then .lower else .none)) ∧
  (∀ (p : Params) (c : Cell) (minutes : Option Nat) (prev : Level),
    let raw := rawLevel p c minutes
    let next := nextCandidate p c minutes prev
    let leavesCritical := (∀ m, minutes = some m → p.critMinutes + 3 ≤ m) ∧ p.cutoffMV + 50 ≤ c.vf
    let leavesLow := (∀ m, minutes = some m → p.lowMinutes + 5 ≤ m) ∧ (minutes = none → p.lowPermille + 30 ≤ c.charge)
    (prev.rank ≤ raw.rank → next = raw) ∧
    (prev = .higher → raw ≠ .higher → ¬leavesCritical → next = .higher) ∧
    (prev = .higher → raw = .lower → leavesCritical → next = .lower) ∧
    (prev = .higher → raw = .none → leavesCritical → leavesLow → next = .none) ∧
    (prev = .higher → raw = .none → leavesCritical → ¬leavesLow → next = .lower) ∧
    (prev = .lower → raw = .none → leavesLow → next = .none) ∧
    (prev = .lower → raw = .none → ¬leavesLow → next = .lower)) ∧
  (∀ (p : Params) (now v : Nat) (b : Battery) (c : Cell), (b.seed p now v).cell = some c →
    (b.seed p now v).cand = rawLevel p c none) ∧
  ∀ (p : Params) (now : Nat) (b : Battery) (c : Cell), c.chargeRef + p.swapRise ≤ c.charge →
    ∃ d, (b.endEpoch p now c).cell = some d ∧ (b.endEpoch p now c).cand = rawLevel p d none

/-! ## Warning records -/

/-- The persistence machine on a condition input (R60, R61, R63, R64, R66), row by row, in every state that keeps the record's
laws: what is not named stays. The qualify and release times are those of R59's table. -/
def Obligations.PersistenceMachine : Prop :=
  (∀ p : Params,
    qualifyMs p .battery .lower = p.qualifyBatteryLow ∧ qualifyMs p .battery .higher = p.qualifyBatteryCritical ∧
    qualifyMs p .mute .lower = p.qualifyMutedOnFloor ∧ qualifyMs p .mute .higher = p.qualifyOpenOffFloor ∧
    qualifyMs p .signal .lower = p.qualifyWeak ∧ qualifyMs p .signal .higher = p.qualifyLost ∧
    releaseMs p .battery = p.releaseBattery ∧ releaseMs p .mute = p.releaseMute ∧ releaseMs p .signal = p.releaseSignal) ∧
  ∀ (p : Params) (now : Nat) (k : Kind) (r : Record), r.Lawful →
    let on := fun i => r.step p now k i
    let wait := fun (st : RecState) (l : Option Level) (len : Nat) =>
      { r with state := st, pending := l, persist := .running (now + len) }
    let rest := fun (st : RecState) => { r with state := st, pending := none, persist := .stopped }
    let toward := fun l => wait .shifting (some l) (if r.level.rank < l.rank then qualifyMs p k l else releaseMs p k)
    (r.state = .quiet → on (.level .none) = r ∧ on .unknown = r ∧
      ∀ l, l ≠ .none → on (.level l) = wait .qualifying (some l) (qualifyMs p k l)) ∧
    (r.state = .qualifying → on (.level .none) = rest .quiet ∧ on .unknown = rest .quiet ∧
      (∀ l, r.pending = some l → on (.level l) = r) ∧
      ∀ l, l ≠ .none → r.pending ≠ some l → on (.level l) = wait .qualifying (some l) (qualifyMs p k l)) ∧
    (r.state = .active → on (.level r.level) = r ∧ on .unknown = r ∧
      on (.level .none) = wait .releasing none (releaseMs p k) ∧
      ∀ l, l ≠ .none → l ≠ r.level → on (.level l) = toward l) ∧
    (r.state = .shifting → on (.level r.level) = rest .active ∧ on .unknown = rest .active ∧
      (∀ l, r.pending = some l → on (.level l) = r) ∧
      on (.level .none) = wait .releasing none (releaseMs p k) ∧
      ∀ l, l ≠ .none → l ≠ r.level → r.pending ≠ some l → on (.level l) = toward l) ∧
    (r.state = .releasing → on (.level .none) = r ∧ on (.level r.level) = rest .active ∧ on .unknown = rest .active ∧
      ∀ l, l ≠ .none → l ≠ r.level → on (.level l) = toward l)

/-- PERSISTENCE_TIMER_EXPIRY (R62, R65, R67, R69, R76, R78 to R80): RAISE, SHIFT or CLEAR, with the residency, raise count, log
and acknowledged flag; the repeat timer starts for a reported, unacknowledged level and is stopped otherwise; the announcement is
queued for a reporter when the zone does not hold it back; only the cue of the entry changes beside the record. A held SILENT
entry whose SIGNAL flag is set again is removed (R29); that this comes after the announcement is the model's choice
(notes/assumptions/32.md). That the restart at a SHIFT discards a repeat expiry already due, so that the REPEAT with the new level
comes a full interval later, is the model's choice (notes/assumptions/37.md). -/
def Obligations.PersistenceExpires : Prop :=
  ∀ (s : State) (mic : Nat) (k : Kind) (e : Entry), TableLaw s → SoundLaw s → RecordLaw s → s.entry? mic = some e →
    (e.record k).persist.isDue s.now = true →
    let r := e.record k
    let handed := fun (r' : Record) (reason : Reason) => ∃ t, exec (.persistenceTimerExpiry mic k) s = .next t ∧
      s.onlyHandOffs t ∧ (k = .signal → t.lostCount = lostOf t.table) ∧
      let gone := k = .signal ∧ e.presence = .silent ∧ e.lostForget = .expired ∧ r'.acked = true
      (gone → t.entry? mic = none ∧ t.view = (s.table.filter fun x => x.mic ≠ mic).map Entry.untold) ∧
      (¬gone → t.view = s.viewWith mic (s.recued (e.setRecord k r')) ∧
        (∀ f, t.entry? mic = some f → (f.record k).repeatTimer =
          if e.role = .reporter ∧ r'.level ≠ .none ∧ r'.acked = false then .running (s.now + s.params.repeatInterval * 1000)
          else .stopped) ∧
        (s.station = .running ∨ s.station = .feedDown → e.role = .reporter → s.tx.length + 2 ≤ 16 →
          k ≠ .signal ∨ r'.level ≠ .higher ∨ s.zone = .notInForce ∧ t.zone = .notInForce →
          ∃ f ∈ t.tx, f.frame = .warn (composeWarn s.now (e.setRecord k r') k reason)))
    let at_ := fun l => { r with
      state := .active
      level := l
      pending := none
      persist := .stopped
      acked := decide (r.chamber = .told l) && r.chamberAcked
      logLower := r.logLower || decide (l = .lower)
      logHigher := r.logHigher || decide (l = .higher) }
    (∀ l, r.state = .qualifying → r.pending = some l →
      handed { at_ l with spellStart := some s.now, raiseCount := min 255 (r.raiseCount + 1) } .raise) ∧
    (∀ l, r.state = .shifting → r.pending = some l → handed (at_ l) .shift) ∧
    (∀ t0, r.state = .releasing → r.spellStart = some t0 → handed { r with
      state := .quiet
      level := .none
      pending := none
      persist := .stopped
      acked := false
      repeatTimer := .stopped
      residencyBase := min 65535 (r.residencyBase + (s.now - t0) / 1000)
      spellStart := none } .clear)

/-- REPEAT_TIMER_EXPIRY (R77, R75): the timer is reloaded whether or not the request passes the gates; a request that passes is
queued with reason REPEAT when the queue has room. -/
def Obligations.RepeatExpires : Prop :=
  ∀ (s : State) (mic : Nat) (k : Kind) (e : Entry), TableLaw s → SoundLaw s → s.entry? mic = some e →
    (e.record k).repeatTimer.isDue s.now = true →
    let again := Timer.running (s.now + s.params.repeatInterval * 1000)
    (s.warnGate e k = false → exec (.repeatTimerExpiry mic k) s =
      .next { s with table := s.table.map fun x =>
        if x.mic = mic then e.setRecord k { e.record k with repeatTimer := again } else x }) ∧
    (s.warnGate e k = true → ∃ t, exec (.repeatTimerExpiry mic k) s = .next t ∧ s.onlyHandOffs t ∧ t.view = s.view ∧
      (∀ f, t.entry? mic = some f → (f.record k).repeatTimer = again) ∧
      (s.tx.length < 16 → ∃ f ∈ t.tx, f.frame = .warn (composeWarn s.now e k .repeated)))

/-! ## The station's timers, floor and claims -/

/-- ZONE_REPEAT_TIMER_EXPIRY (R100) and STATION_REPEAT_TIMER_EXPIRY (R151, R146, R150): the timer is reloaded; where STATION
frames are accepted, exactly one stands in the queue and describes the station as it stands. -/
def Obligations.StationRepeats : Prop :=
  ∀ (s : State), let again := Timer.running (s.now + s.params.repeatInterval * 1000)
    let sends := s.station = .running ∨ s.station = .feedDown ∨ s.station = .listenOnly
    let asked := fun (t : State) => s.onlyHandOffs t ∧ t.view = s.view ∧ (t.tx.filter fun f => f.frame.isStation) =
      [⟨.station ⟨s.station, s.zone, s.table.length, s.source, s.partialImage, s.fault⟩, 0⟩]
    (s.zoneRepeat.isDue s.now = true →
      (¬sends → exec .zoneRepeatTimerExpiry s = .next { s with zoneRepeat := again }) ∧
      (sends → ∃ t, exec .zoneRepeatTimerExpiry s = .next t ∧ asked t ∧ t.zoneRepeat = again ∧
        t.stationRepeat = if s.stationRepeat.isRunning then again else s.stationRepeat)) ∧
    (s.stationRepeat.isDue s.now = true →
      (¬sends → exec .stationRepeatTimerExpiry s = .next { s with stationRepeat := again }) ∧
      (sends → ∃ t, exec .stationRepeatTimerExpiry s = .next t ∧ asked t ∧ t.zoneRepeat = s.zoneRepeat ∧
        t.stationRepeat = again))

/-- ZONE_SILENT and the lost count (R97, R98, R100, R101): it comes into force with cause COUNT when the count reaches
`zone_threshold` from below, its queued LOST frames leave, and a STATION frame says so; it ends when the count falls to
`zone_threshold` − 3 or less, a STATION frame says so, and a reported LOST that the chamber was not told is announced with ADOPT,
its repeat timer started (R76); any other change of the count changes nothing else. A loss expiry to SILENT and a forget expiry
while COVERED update it so. -/
def Obligations.ZoneComesAndGoes : Prop :=
  (∀ s : State, TableLaw s → SoundLaw s →
    let n := lostOf s.table
    let thr := s.params.zoneThreshold
    let t := s.updateLost State.entryFault
    let sends := s.station = .running ∨ s.station = .feedDown ∨ s.station = .listenOnly
    let told := fun z => s.onlyHandOffs t ∧ t.view = s.view ∧ t.zone = z ∧ t.lostCount = n ∧ (sends →
      (t.tx.filter fun f => f.frame.isStation) = [⟨.station ⟨s.station, z, s.table.length, s.source, s.partialImage, s.fault⟩, 0⟩])
    (s.zone = .notInForce → s.lostCount < thr → thr ≤ n → told (.inForce .count) ∧
      t.zoneRepeat = .running (s.now + s.params.repeatInterval * 1000) ∧ (s.station ≠ .starting → t.attn = true) ∧
      ∀ f ∈ t.tx, f.frame.lostWarn = false) ∧
    (s.zone = .inForce .count → n < s.lostCount → n ≤ thr - 3 → told .notInForce ∧ t.zoneRepeat = .stopped ∧
      (s.station ≠ .starting →
        (t.attn = true ↔ s.station = .listenOnly ∨ s.station = .feedDown ∨ s.source = .defaults)) ∧
      (s.station = .running ∨ s.station = .feedDown → s.tx.length + s.table.length + 1 ≤ 16 →
        ∀ e ∈ s.table, e.role = .reporter → e.recSignal.level = .higher → e.recSignal.chamber ≠ .told .higher →
          (∃ f ∈ t.tx, f.frame = .warn (composeWarn s.now e .signal .adopt)) ∧
          ∀ f, t.entry? e.mic = some f → f.recSignal.repeatTimer =
            if e.recSignal.acked then .stopped else .running (s.now + s.params.repeatInterval * 1000))) ∧
    (¬(s.zone = .notInForce ∧ s.lostCount < thr ∧ thr ≤ n) → ¬(s.zone = .inForce .count ∧ n < s.lostCount ∧ n ≤ thr - 3) →
      t = { s with lostCount := n })) ∧
  ∀ (s : State) (mic : Nat) (e : Entry), TableLaw s → SoundLaw s → s.entry? mic = some e →
    let moves := fun t : State => t.lostCount = lostOf t.table ∧ t.zone =
      if s.zone = .notInForce ∧ s.lostCount < s.params.zoneThreshold ∧ s.params.zoneThreshold ≤ t.lostCount then .inForce .count
      else if s.zone = .inForce .count ∧ t.lostCount < s.lostCount ∧ t.lostCount ≤ s.params.zoneThreshold - 3 then .notInForce
      else s.zone
    (e.loss.isDue s.now = true → e.claims = [] → ∃ t, exec (.lossTimerExpiry mic) s = .next t ∧ moves t) ∧
    (e.forget.isDue s.now = true → e.presence = .covered → ∃ t, exec (.forgetTimerExpiry mic) s = .next t ∧ moves t)

/-- FLOOR_TIMER_EXPIRY (R84) and FLOOR_TAKEN (R82, R83), with the floor sweep (R90, R87, R88): every entry's candidate follows its
mute state and the floor set, its MUTE record steps on the input, and nothing else changes. The floor set is the first eight
distinct seat numbers of the frame's list, ascending. -/
def Obligations.FloorSweeps : Prop :=
  (∀ (s : State), TableLaw s → SoundLaw s →
    let swept := fun (floor : List Nat) (known : Bool) (e : Entry) =>
      let cand := match e.mute with
        | .muted => if e.mic ∈ floor then Level.lower else .none
        | .open_ => if e.mic ∈ floor then .none else .higher
        | .unknown => .none
      let input := if s.station = .feedDown ∨ known = false ∨ e.presence ≠ .heard ∨ e.mute = .unknown then Input.unknown
        else .level cand
      { e with muteCand := cand, recMute := e.recMute.step s.params s.now .mute input }
    (s.floorTimer.isDue s.now = true → exec .floorTimerExpiry s =
      .next { s with floor := .stale, floorTimer := .stopped, table := s.table.map (swept s.floorSet false) }) ∧
    ∀ (source : Nat) (mics : List Nat) (rest : List RxFrame), s.inDispatch = none → s.rx = ⟨source, .floor mics⟩ :: rest →
      exec .floorTaken s = .next { s with
        rx := rest
        floorSet := floorSetOf mics
        floor := .fresh
        floorTimer := .running (s.now + s.params.floorTimeout * 1000)
        table := s.table.map (swept (floorSetOf mics) true) }) ∧
  ∀ mics : List Nat, let kept := (mics.filter fun n => decide (1 ≤ n ∧ n ≤ 480)).eraseDups.take 8
    (floorSetOf mics).Pairwise (· < ·) ∧ ∀ n, n ∈ floorSetOf mics ↔ n ∈ kept

/-- ABSENCE_TIMER_EXPIRY (R107) and CLAIM_EXPIRY (R111, R110): the claims leave the lists; a COVERED entry left without one
becomes SILENT (R25), and a HEARD entry's role is computed (R113). The chamber fields and repeat timers are as the role gained,
lost or kept leaves them (R117, R118), for a HEARD entry and, where no zone state moves, for a COVERED one; at an absence, where
every claim that leaves is of a HEARD entry. -/
def Obligations.ClaimsLeave : Prop :=
  ∀ (s : State), TableLaw s → SoundLaw s →
    (∀ n due, PresenceLaw s → s.roster[n]? = some (.present due) → due ≤ s.now →
      ∃ t, exec (.absenceTimerExpiry n) s = .next t ∧ ({ s with roster := s.roster.set n .absent }).onlyHandOffs t ∧
        t.view = (s.table.map fun e => (if e.claims.any (fun c => c.station == n) then
          s.claimed (e.claims.filter fun c => c.station ≠ n) e else e).untold) ∧
        ((∀ e ∈ s.table, e.claims.any (fun c => c.station == n) = true → e.presence = .heard) → ∀ e ∈ s.table,
          s.tellings t e (if e.claims.any (fun c => c.station == n) then
            s.claimed (e.claims.filter fun c => c.station ≠ n) e else e).role (3 * s.table.length))) ∧
    ∀ mic e c, s.entry? mic = some e → (e.claims.find? fun x => x.station == c.station) = some c →
      c.arrival + 2 * s.params.claimInterval ≤ s.now → e.presence ≠ .silent →
      ∃ t, exec (.claimExpiry mic c.station) s = .next t ∧ s.onlyHandOffs t ∧
        t.view = s.viewWith mic (s.claimed (e.claims.filter fun x => x.station ≠ c.station) e) ∧
        (e.presence = .heard ∨ t.zone = s.zone →
          s.tellings t e (s.claimed (e.claims.filter fun x => x.station ≠ c.station) e).role)

/-- The claim list (R109, R110): at most three claims of distinct stations in the order of effective score and station number; a
new claim replaces its station's, takes a free place or the last one's, and is dropped only when it sorts before none of three. -/
def Obligations.ClaimListRule : Prop :=
  ∀ (p : Params) (c : Claim) (l : List Claim),
    let score := fun x : Claim => x.q + if x.reporter then p.roleMargin else 0
    let first := fun x y : Claim => score y < score x ∨ (score x = score y ∧ x.station < y.station)
    let ok := fun m : List Claim => m.Pairwise (fun x y => first x y ∧ x.station ≠ y.station) ∧ m.length ≤ 3
    ok l →
    (enterClaim p c l = none ↔ l.length = 3 ∧ ∀ x ∈ l, first x c ∧ x.station ≠ c.station) ∧
    ∀ m, enterClaim p c l = some m → ok m ∧ c ∈ m ∧ (∀ x ∈ m, x = c ∨ x ∈ l) ∧
      ((∃ x ∈ l, x.station = c.station) ∨ l.length < 3 → ∀ x ∈ l, x.station ≠ c.station → x ∈ m) ∧
      ∀ x ∈ l.take 2, x.station ≠ c.station → x ∈ m

/-- PENDING_TIMER_EXPIRY (R112, R113) and TAKEOVER_TIMER_EXPIRY (R116, R117): the role of a HEARD entry is decided without margin;
a SILENT entry is taken over unless the chamber was told LOST, and every record that the chamber holds otherwise is adopted. With
the role gained, the repeat timer of each record runs for an unacknowledged level (R76), and the chamber is told as R117 says. The
decision is R113's: REPORTER with no claim, with a score above the top claim's, or with an equal one and the lower number. -/
def Obligations.PendingAndTakeover : Prop :=
  (∀ (p : Params) (number own : Nat) (claims : List Claim), reporterWins p number own claims = true ↔
    ∀ top rest, claims = top :: rest → let score := top.q + if top.reporter then p.roleMargin else 0
      score < own ∨ own = score ∧ number < top.station) ∧
  ∀ (s : State) (mic : Nat) (e : Entry), TableLaw s → SoundLaw s → s.entry? mic = some e →
    let with_ := fun e' => { s with table := s.table.map fun x => if x.mic = mic then e' else x }
    let repeats := fun t : State => ∀ f k, t.entry? mic = some f → (f.record k).repeatTimer =
      if (e.record k).level ≠ .none ∧ (e.record k).acked = false then .running (s.now + s.params.repeatInterval * 1000)
      else .stopped
    (e.pendingTimer.isDue s.now = true →
      (e.presence ≠ .heard ∨ s.station = .listenOnly →
        exec (.pendingTimerExpiry mic) s = .next (with_ { e with pendingTimer := .stopped })) ∧
      (e.presence = .heard → s.station ≠ .listenOnly → ∃ t, exec (.pendingTimerExpiry mic) s = .next t ∧ s.onlyHandOffs t ∧
        t.lostCount = s.lostCount ∧ t.zone = s.zone ∧
        t.view = s.viewWith mic (s.roleDecided e.q { e with pendingTimer := .stopped }) ∧
        s.tellings t e (s.roleDecided e.q { e with pendingTimer := .stopped }).role ∧
        (e.role ≠ .reporter → reporterWins s.params s.number e.q e.claims = true → repeats t))) ∧
    (e.takeover.isDue s.now = true →
      (e.recSignal.chamber = .told .higher →
        exec (.takeoverTimerExpiry mic) s = .next (with_ { e with takeover := .stopped })) ∧
      (e.recSignal.chamber ≠ .told .higher → let gained := { e with role := .reporter, takeover := .stopped }
        ∃ t, exec (.takeoverTimerExpiry mic) s = .next t ∧ s.onlyHandOffs t ∧
          t.lostCount = s.lostCount ∧ t.zone = s.zone ∧ t.view = s.viewWith mic (s.recued gained) ∧ repeats t ∧
          (s.station = .running ∨ s.station = .feedDown → s.zone = .notInForce → s.tx.length + 3 ≤ 16 →
            ∀ k, let r := e.record k
              (r.level ≠ .none ∧ r.chamber ≠ .told r.level ∨ r.level = .none ∧ ∃ l, l ≠ .none ∧ r.chamber = .told l) →
              ∃ f ∈ t.tx, f.frame = .warn (composeWarn s.now gained k .adopt))))

/-- CLAIM_ROUND_TIMER_EXPIRY (R121, R122, R146, R152): the older rounds' frames leave the queue, and the pairs of the HEARD
entries go in ascending order into frames of twenty but the last, queued behind the others as far as the queue has room, the rest
dropped and counted (R147). That a round takes the next number of an unbounded count and marks its frames with it is the model's
choice (notes/assumptions/17.md). -/
def Obligations.ClaimRound : Prop :=
  ∀ s : State, TableLaw s → SoundLaw s → s.station = .running → s.claimRound.isDue s.now = true →
    let pairs := (s.table.filter fun e => e.presence = .heard).map fun e => (⟨e.mic, e.q, e.role = .reporter⟩ : Pair)
    let kept := s.tx.filter fun t => !t.frame.olderClaim (s.round + 1)
    let made := { s with round := s.round + 1, claimRound := .running (s.now + s.params.claimInterval) }
    (∃ t, exec .claimRoundTimerExpiry s = .next t ∧ made.onlyHandOffs t ∧ t.view = s.view) ∧
    ∃ groups : List (List Pair), groups.flatten = pairs ∧
      (∀ g ∈ groups, g ≠ [] ∧ g.length ≤ 20) ∧ (∀ g ∈ groups.dropLast, g.length = 20) ∧
      let room := 16 - kept.length
      exec .claimRoundTimerExpiry s = .next { made with
        tx := kept ++ (groups.take room).map fun g => ⟨.claim (s.round + 1) g, 0⟩
        counters := { s.counters with
          framesDropped := if groups.length ≤ room then s.counters.framesDropped
            else min 65535 (s.counters.framesDropped + (groups.length - room)) } }

/-! ## Cues and lamps -/

/-- CUE_REFRESH_EXPIRY (R162, R163), CUE_TRANSFER_START and CUE_TRANSFER_COMPLETE (R164): the cue is offered in place, at the tail
or not at all, and the timer is reloaded in every case; a transfer takes the head cue while CRDY is asserted; its word has the
high and the low byte of the mic ID field, the pattern and a check byte, which sum to 0 modulo 256 (section 12.1), sent as 32
bits, the most significant of each byte first, one QCLK pulse for each; outside a transfer QCLK and QDAT are low (R190). -/
def Obligations.CueCommands : Prop :=
  (∀ (s : State) (mic : Nat) (e : Entry), TableLaw s → SoundLaw s → s.entry? mic = some e → e.cueRefresh.isDue s.now = true →
    let again : State := { s with table := s.table.map fun x => if x.mic = mic then
      { x with cueRefresh := .running (s.now + s.params.cueRefresh * 1000) } else x }
    ((∃ x ∈ s.cueQueue, x.mic = mic) → exec (.cueRefreshExpiry mic) s =
      .next { again with cueQueue := s.cueQueue.map fun x => if x.mic = mic then ⟨mic, e.cue⟩ else x }) ∧
    ((∀ x ∈ s.cueQueue, x.mic ≠ mic) → s.cueQueue.length < 8 → exec (.cueRefreshExpiry mic) s =
      .next { again with cueQueue := s.cueQueue ++ [⟨mic, e.cue⟩] }) ∧
    ((∀ x ∈ s.cueQueue, x.mic ≠ mic) → 8 ≤ s.cueQueue.length → exec (.cueRefreshExpiry mic) s =
      .next { again with counters := { s.counters with cuesDropped := min 65535 (s.counters.cuesDropped + 1) } })) ∧
  (∀ (s : State) (c : Cue) (rest : List Cue), s.cueTransfer = none → s.cueQueue = c :: rest → s.station ≠ .starting →
    exec (.cueTransferStart true) s = .next { s with cueQueue := rest, cueTransfer := some c } ∧
    exec (.cueTransferStart false) s = .next s) ∧
  (∀ (s : State) (c : Cue), s.cueTransfer = some c → exec .cueTransferComplete s = .next { s with
    cueTransfer := none, counters := { s.counters with cuesSent := min 65535 (s.counters.cuesSent + 1) } }) ∧
  (∀ (s : State) (i : Nat), s.qclk i false = false ∧
    (s.cueTransfer = none → s.qclk i true = false ∧ s.qdat i = false) ∧
    ∀ c, s.cueTransfer = some c → s.qclk i true = decide (i < 32) ∧ ∀ h : i < (cueBits c).length, s.qdat i = (cueBits c)[i]) ∧
  ∀ c : Cue, (cueBits c).length = 32 ∧ ((cueWord c).map BitVec.toNat).sum % 256 = 0 ∧
    (∀ i, i < 32 → (cueBits c)[i]? = some (((cueWord c).getD (i / 8) 0).getLsbD (7 - i % 8))) ∧
    (c.mic < 512 → c.pattern < 8 → ∃ check, (cueWord c).map BitVec.toNat = [c.mic / 256, c.mic % 256, c.pattern, check])

/-- A selection on a cadence generator (R171) and PHASE_TIMER_EXPIRY (R172), case by case of their tables. The times of pattern 1
to 6 are the first to the sixth pair of the image (R159). -/
def Obligations.LampChanges : Prop :=
  (∀ (p : Params) (c1 c2 c3 c4 c5 c6 : Cadence), p.patterns = [c1, c2, c3, c4, c5, c6] →
    p.cadence 1 = c1 ∧ p.cadence 2 = c2 ∧ p.cadence 3 = c3 ∧ p.cadence 4 = c4 ∧ p.cadence 5 = c5 ∧ p.cadence 6 = c6) ∧
  (∀ (p : Params) (now pat : Nat) (g : Generator),
    (g.phase = .dark ∨ g.phase = .steady → pat ≠ g.pattern →
      (pat = 0 → g.select p now pat = ⟨0, .dark, .stopped, none⟩) ∧
      (pat = 7 → g.select p now pat = ⟨7, .steady, .stopped, none⟩) ∧
      (pat ≠ 0 → pat ≠ 7 → g.select p now pat = ⟨pat, .on, .running (now + (p.cadence pat).on), none⟩)) ∧
    (g.phase = .dark ∨ g.phase = .steady → g.select p now g.pattern = g) ∧
    (g.phase = .on ∨ g.phase = .off → pat ≠ g.pattern → g.select p now pat = { g with staged := some pat }) ∧
    (g.phase = .on ∨ g.phase = .off → g.select p now g.pattern = { g with staged := none })) ∧
  ∀ (s : State) (l : Lamp), (s.gen l).timer.isDue s.now = true →
    let g := s.gen l
    let becomes := fun g' => exec (.phaseTimerExpiry l) s = .next (s.setGen l g')
    (g.phase = .on → becomes { g with phase := .off, timer := .running (s.now + (s.params.cadence g.pattern).off) }) ∧
    (g.phase = .off → g.staged = none →
      becomes { g with phase := .on, timer := .running (s.now + (s.params.cadence g.pattern).on) }) ∧
    (g.phase = .off → g.staged = some 0 → becomes ⟨0, .dark, .stopped, none⟩) ∧
    (g.phase = .off → g.staged = some 7 → becomes ⟨7, .steady, .stopped, none⟩) ∧
    ∀ pat, g.phase = .off → g.staged = some pat → pat ≠ 0 → pat ≠ 7 →
      becomes ⟨pat, .on, .running (s.now + (s.params.cadence pat).on), none⟩

/-! ## The peer line -/

/-- LINE_IDLE, LINE_ACTIVITY, SLOT_BOUNDARY and FRAME_SENT (R127 to R131): the idle point, the deferred attempt, the access wait
of the head frame, and the completed frame. What becomes of the assembler at the idle point is the model's
(notes/assumptions/11.md). -/
def Obligations.LineAccess : Prop :=
  (∀ s : State, s.access = .busy → exec .lineIdle s =
    .next { s with access := .idle 0, assembler := { s.assembler with joinedLate := false } }) ∧
  (∀ (s : State) (k : Nat), s.access = .idle k →
    (s.tx = [] → exec .lineActivity s = .next { s with access := .busy }) ∧
    (s.tx ≠ [] → exec .lineActivity s = .next { s with
      access := .busy, counters := { s.counters with framesDeferred := min 65535 (s.counters.framesDeferred + 1) } }) ∧
    (s.tx = [] → exec .slotBoundary s = .next { s with access := .idle (k + 1) }) ∧
    ∀ t rest, s.tx = t :: rest →
      let wait := 24 * t.frame.cls + s.number + if s.lastSender then 16 else 0
      (k < wait → exec .slotBoundary s = .next { s with access := .idle (k + 1) }) ∧
      (wait ≤ k → exec .slotBoundary s = .next { s with access := .sending, inFlight := some t, tx := rest })) ∧
  ∀ (s : State) (t : TxFrame), s.access = .sending → s.inFlight = some t → exec .frameSent s = .next { s with
    access := .busy
    inFlight := none
    lastSender := true
    assembler := ⟨[], false, false⟩
    counters := { s.counters with framesSent := min 65535 (s.counters.framesSent + 1) } }

/-- COLLISION (R132, R133, R74): the collision is counted; at the fourth, or at tests 1 to 6, or in a full queue that holds
nothing less urgent, the frame is dropped and counted, and the chamber level of a dropped WARN becomes UNKNOWN, its flag cleared,
unless a newer one is queued, when both stay; a replaced frame goes uncounted; any other stands at the head, where a full queue
loses the newest frame of the least urgent class, and R74 applies to that one too. `discarded` spells what R74 does. A dropped
WARN makes the level UNKNOWN even where an ACK or a peer WARN has set it since, and not while a newer WARN of the pair is queued:
both are the model's reading of R74 (notes/assumptions/15.md and 14.md). That the record is found by microphone and kind, also
when the entry was removed and admitted again since, is the model's reading too (notes/assumptions/36.md). -/
def Obligations.Collision : Prop :=
  ∀ (s : State) (t : TxFrame), s.access = .sending → s.inFlight = some t →
    let n := t.collisions + 1
    let counted := { s.counters with collisions := min 65535 (s.counters.collisions + 1) }
    let stopped := { s with access := .busy, inFlight := none, counters := counted }
    let missed := { counted with framesDropped := min 65535 (counted.framesDropped + 1) }
    let sameWarn := fun w : Warn => ∃ g ∈ s.tx, g.frame.warnFor w.mic w.kind = true
    let untrue := fun f : Frame =>
      s.station = .joining ∨ (s.station = .listenOnly ∧ f.isStation = false) ∨
      (∃ w, f = .warn w ∧ ∀ e, s.entry? w.mic = some e →
        e.role ≠ .reporter ∨ s.zone ≠ .notInForce ∧ w.kind = .signal ∧ w.level = .higher) ∨
      ∃ r pairs, f = .claim r pairs ∧ r < s.round
    let newer := fun f : Frame => (∃ w, f = .warn w ∧ sameWarn w) ∨ f.isStation = true ∧ ∃ g ∈ s.tx, g.frame.isStation = true
    let back := { t with collisions := n }
    let dropped := exec .collision s = .next { stopped with counters := missed, table := discarded s.tx t.frame s.table }
    (4 ≤ n ∨ untrue t.frame → dropped) ∧
    (n < 4 → ¬untrue t.frame → newer t.frame → exec .collision s = .next stopped) ∧
    (n < 4 → ¬untrue t.frame → ¬newer t.frame →
      (s.tx.length < 16 → exec .collision s = .next { stopped with tx := back :: s.tx }) ∧
      (16 ≤ s.tx.length → (∀ g ∈ s.tx, g.frame.cls ≤ t.frame.cls) → dropped) ∧
      (16 ≤ s.tx.length → (∃ g ∈ s.tx, t.frame.cls < g.frame.cls) → ∃ pre v post,
        s.tx = pre ++ v :: post ∧ (∀ g ∈ s.tx, g.frame.cls ≤ v.frame.cls) ∧ (∀ g ∈ post, g.frame.cls ≠ v.frame.cls) ∧
        exec .collision s = .next { stopped with
          counters := missed
          tx := back :: (pre ++ post)
          table := discarded (back :: (pre ++ post)) v.frame s.table }))

/-- FRAME_COMPLETION (R134 to R137, R106, R125 to R127): no frame is complete before more than 2 bit times have passed; a bad
frame, a frame of this station's own number, a refused, an accepted and an overrun frame, each with its counter; every one of them
clears the last-sender memory, and a good one of another station makes its source PRESENT. The kinds a monitor sends are accepted
from stations 1 to 15 only, the console's from station 0 only, and an unknown kind from none (R136). That a frame joined late goes
unchecked follows R127 through an operand (notes/assumptions/11.md), and that a completion commanded in IDLE or SENDING is checked
like any other, the own number's clause included, is the model's choice (notes/assumptions/23.md). -/
def Obligations.Reception : Prop :=
  (∀ source : Nat,
    (∀ pairs, acceptedFrom source (.claim pairs) = true ↔ source ≠ 0) ∧
    (∀ w, acceptedFrom source (.warn w) = true ↔ source ≠ 0) ∧
    (∀ kind p, acceptedFrom source (.report kind p) = true ↔ source ≠ 0) ∧
    (∀ mics, acceptedFrom source (.floor mics) = true ↔ source = 0) ∧
    (∀ mic k l, acceptedFrom source (.ack mic k l) = true ↔ source = 0) ∧
    (∀ target form, acceptedFrom source (.query target form) = true ↔ source = 0) ∧
    (acceptedFrom source .restart = true ↔ source = 0)) ∧
  (∀ (s : State) (bits : List Bool) (gap : Nat) (late : Bool), gap ≤ 2 → exec (.frameCompletion bits gap late) s = .next s) ∧
  ∀ (s : State) (bits : List Bool) (gap : Nat) (late : Bool), s.access ≠ .off → 2 < gap →
    let done := exec (.frameCompletion bits gap late) s
    let cleared := { s with lastSender := false, assembler := ⟨[], false, false⟩ }
    let reading := readFrame (s.assembler.bytes ++ (lineRead bits).1) (s.assembler.framing || (lineRead bits).2)
    let heard := fun n => { cleared with roster := s.roster.set n (.present (s.now + 3 * s.params.claimInterval)) }
    let good := { s.counters with rxGood := min 65535 (s.counters.rxGood + 1) }
    (s.assembler.joinedLate = true → late = true → done = .next { s with assembler := ⟨[], false, false⟩ }) ∧
    (s.assembler.joinedLate = false ∨ late = false →
      (reading = .bad → done =
        .next { cleared with counters := { s.counters with rxBad := min 65535 (s.counters.rxBad + 1) } }) ∧
      (∀ n body, reading = .good n body → n ≠ s.number →
        ((∀ b, body = some b → acceptedFrom n b = false) → done = .next { heard n with
          counters := { s.counters with rxRefused := min 65535 (s.counters.rxRefused + 1) } }) ∧
        ∀ b, body = some b → acceptedFrom n b = true →
          (s.rx.length < 2 → done = .next { heard n with counters := good, rx := s.rx ++ [⟨n, b⟩] }) ∧
          (2 ≤ s.rx.length → done = .next { heard n with
            counters := { good with rxOverrun := min 65535 (good.rxOverrun + 1) } })) ∧
      ∀ body, reading = .good s.number body →
        (s.station = .listenOnly → done = .next cleared) ∧
        (s.station ≠ .listenOnly → s.station ≠ .starting → TableLaw s → SoundLaw s → ∃ t, done = .next t ∧
          t.station = .listenOnly ∧ t.fault = some .duplicateId ∧ t.joining = .stopped ∧ t.claimRound = .stopped ∧
          t.stationRepeat = .stopped ∧ t.attn = true ∧ t.roster = s.roster ∧ t.lastSender = false ∧
          (∀ e ∈ t.table, e.role = .follower) ∧ ∃ f, t.tx = [f] ∧ f.frame.isStation = true))

/-- What the assembler makes of the line (R124, R125): bytes sent back to back, or with gaps of at most 2 released bit times, are
read as they were sent; a longer gap ends the frame; a stop bit read 0 is a framing error. The bad-frame tests (R126) decide by
the bytes of the frame and the framing errors alone; a frame that passes them is of the source its header names and says what its
payload says, an unknown kind nothing. The CRC register starts at all ones and takes each byte most significant bit first, with
the generator x^16 + x^12 + x^5 + 1 (R126). That the line stays released after the bits given is the model's
(notes/assumptions/10.md). -/
def Obligations.BadFrames : Prop :=
  (∀ (pieces : List (Byte × Nat)) (tail : List Bool), (∀ p ∈ pieces, p.2 ≤ 2) →
    lineRead (pieces.flatMap (fun p => lineBits p.1 ++ List.replicate p.2 true)) = (pieces.map Prod.fst, false) ∧
    lineRead (pieces.flatMap (fun p => List.replicate p.2 true ++ lineBits p.1) ++ [true, true, true] ++ tail) =
      (pieces.map Prod.fst, false)) ∧
  (∀ (bytes : List Byte) (b : Byte) (tail : List Bool),
    (lineRead (bytes.flatMap lineBits ++ (lineBits b).dropLast ++ [false] ++ tail)).2 = true) ∧
  (∀ (bytes : List Byte) (framing : Bool),
    let len := (bytes.getD 2 0).toNat
    let covered := (bytes.drop 1).take (len + 2)
    (readFrame bytes framing = .bad ↔
      bytes.length < 5 ∨ bytes.head? ≠ some 0x96#8 ∨ 120 < len ∨ bytes.length ≠ 5 + len ∨ framing = true ∨
      256 * (bytes.getD (3 + len) 0).toNat + (bytes.getD (4 + len) 0).toNat ≠ (crc16 covered).toNat ∨
      readPayload ((bytes.getD 1 0).toNat % 16) (covered.drop 2) = .bad) ∧
    (readFrame bytes framing ≠ .bad →
      (∀ body, readPayload ((bytes.getD 1 0).toNat % 16) (covered.drop 2) = .good body →
        readFrame bytes framing = .good ((bytes.getD 1 0).toNat / 16) (some body)) ∧
      (readPayload ((bytes.getD 1 0).toNat % 16) (covered.drop 2) = .unknownKind →
        readFrame bytes framing = .good ((bytes.getD 1 0).toNat / 16) none))) ∧
  (crc16 [] = 0xFFFF#16 ∧ ∀ (bytes : List Byte) (b : Byte), crc16 (bytes ++ [b]) =
    [b.getLsbD 7, b.getLsbD 6, b.getLsbD 5, b.getLsbD 4, b.getLsbD 3, b.getLsbD 2, b.getLsbD 1, b.getLsbD 0].foldl
      (fun (reg : BitVec 16) (bit : Bool) => if reg.msb = bit then reg <<< 1 else reg <<< 1 ^^^ 0x1021#16) (crc16 bytes))

/-- The payload rules kind by kind (R188, R189, section 12.2), and what a good console frame says: FLOOR, ACK, QUERY and RESTART
with every field. For STATION, that the cause bit without the zone flag and a mic ID without TABLE are bad, and for ENTRY, that C,
Vf and M are not tested against their flags, is the model's reading (notes/assumptions/22.md); that a FLOOR field above 511 is bad
is its choice between two places of the spec (notes/assumptions/34.md). -/
def Obligations.PayloadRules : Prop :=
  (∀ p : List Byte,
    let b := fun i => (p.getD i 0).toNat
    let highMic := fun i => 2 ≤ b i
    let flagMic := fun i => 2 ≤ b i % 128
    let report := fun i => 64 ≤ b i ∨ b i / 8 % 2 = 1 ∨ 2 ≤ b (i + 1) ∨ 4 ≤ b (i + 5)
    (readPayload 1 p = .bad ↔ p.length ≠ 1 + 3 * b 0 ∨ b 0 = 0 ∨
      ∃ i, i < b 0 ∧ (flagMic (3 * i + 1) ∨ 240 < b (3 * i + 3))) ∧
    (readPayload 2 p = .bad ↔ p.length ≠ (if b 3 / 8 % 2 = 1 then 10 else 8) ∨
      (b 3 / 8 % 2 = 1 ∧ (b 2 % 4 ≠ 0 ∨ 999 < 256 * b 8 + b 9)) ∨ b 2 % 4 = 3 ∨ b 2 / 4 % 4 = 3 ∨ 4 < b 2 / 16 ∨ 240 < b 4 ∨
      highMic 0 ∨ 16 ≤ b 3) ∧
    (readPayload 3 p = .bad ↔ p.length ≠ 5 ∨ 4 < b 0 ∨ b 1 / 4 % 4 = 3 ∨ 4 < b 1 / 32 ∨ 96 < b 2 ∨ highMic 3 ∨
      b 1 % 4 = 2 ∨ (b 1 / 32 ≠ 1 ∧ 256 * b 3 + b 4 ≠ 0)) ∧
    (readPayload 4 p = .bad ↔ p.length ≠ (if 128 ≤ b 0 then 37 else 2) ∨ flagMic 0 ∨
      (128 ≤ b 0 ∧ (4 ≤ b 12 ∨ report 19 ∨ report 25 ∨ report 31))) ∧
    (readPayload 5 p = .bad ↔ p.length ≠ 38) ∧
    (readPayload 8 p = .bad ↔ p.length ≠ 1 + 2 * b 0 ∨ ∃ i, i < b 0 ∧ highMic (2 * i + 1)) ∧
    (readPayload 9 p = .bad ↔ p.length ≠ 3 ∨ b 2 % 4 = 3 ∨ b 2 / 4 % 4 = 3 ∨ highMic 0 ∨ 16 ≤ b 2) ∧
    (readPayload 10 p = .bad ↔ p.length ≠ (if b 0 / 16 % 2 = 1 then 1 else 3) ∨ 32 ≤ b 0 ∨ (b 0 < 16 ∧ highMic 1)) ∧
    (readPayload 11 p = .bad ↔ p.length ≠ 0) ∧
    ∀ k, k < 16 → (readPayload k p = .unknownKind ↔ k = 0 ∨ k = 6 ∨ k = 7 ∨ 12 ≤ k)) ∧
  (∀ mics : List Nat, mics.length ≤ 59 → (∀ m ∈ mics, m < 512) →
    readPayload 8 (byte mics.length :: mics.flatMap word16) = .good (.floor mics)) ∧
  (∀ (mic : Nat) (k : Kind) (l : Level), mic < 512 →
    readPayload 9 (word16 mic ++ [byte (kindCode k + 4 * levelCode l)]) = .good (.ack mic k l)) ∧
  (∀ (target mic : Nat), target < 16 → mic < 512 →
    readPayload 10 (byte target :: word16 mic) = .good (.query target (.entry mic)) ∧
    readPayload 10 [byte (16 + target)] = .good (.query target .stats)) ∧
  readPayload 11 [] = .good .restart

/-- The frames this part composes read back from the bits of the line, at every other station, as what was composed (section 12.2,
R124 to R126, R188, R189): WARN and CLAIM with every field, and STATION, ENTRY and STATS as good reports. -/
def Obligations.FramesReadBack : Prop :=
  ∀ number : Nat, number < 16 →
    let read := fun f => readFrame (lineRead (frameBits number f)).1 (lineRead (frameBits number f)).2
    (∀ w : Warn, w.mic < 512 → w.q ≤ 240 → w.residency < 65536 → w.raiseCount < 256 →
      (∀ m, w.minutes = some m → w.kind = .battery ∧ m ≤ 999) → read (.warn w) = .good number (some (.warn w))) ∧
    (∀ (r : Nat) (pairs : List Pair), pairs ≠ [] → pairs.length ≤ 20 → (∀ p ∈ pairs, p.mic < 512 ∧ p.q ≤ 240) →
      read (.claim r pairs) = .good number (some (.claim pairs))) ∧
    (∀ r : StationReport, r.occupancy ≤ 96 → (∀ mic, r.fault = some (.table mic) → mic < 512) →
      read (.station r) = .good number (some (.report .station (stationPayload r)))) ∧
    (∀ (mic : Nat) (r : Option EntryReport), mic < 512 →
      read (.entry mic r) = .good number (some (.report .entry (entryPayload mic r)))) ∧
    ∀ c : Counters, read (.stats c) = .good number (some (.report .stats (payload (.stats c))))

/-- What this part's frames say: a WARN by R75 and R144, its residency by R78, a STATION by R150, an ENTRY by R154. The bytes of
each of its five kinds, byte by byte by the tables of section 12 and R188: the envelope with source, kind, length and CRC (R125),
CLAIM, WARN, STATION, ENTRY absent and present, and STATS with the nineteen counters in the order of the counter table. -/
def Obligations.FrameContents : Prop :=
  let seconds := fun (now : Nat) (r : Record) => match r.spellStart with
    | some t => min 65535 (r.residencyBase + (now - t) / 1000)
    | none => r.residencyBase
  let records := fun (now : Nat) (r : Record) => (⟨r.state, r.level, r.acked, r.raiseCount, seconds now r, r.logLower,
    r.logHigher⟩ : RecordReport)
  (∀ (now : Nat) (e : Entry) (k : Kind) (reason : Reason), let r := e.record k
    composeWarn now e k reason =
      { mic := e.mic, kind := k, level := r.level, reason := reason, acked := r.acked, hears := decide (e.presence = .heard),
        reporter := true, q := e.q, residency := seconds now r, raiseCount := r.raiseCount,
        minutes := if k = .battery then e.battery.minutes else none }) ∧
  (∀ s : State, composeStation s =
    { state := s.station, zone := s.zone, occupancy := s.table.length, source := s.source, partialImage := s.partialImage,
      fault := s.fault }) ∧
  (∀ (now : Nat) (e : Entry), entryReport now e =
    { presence := e.presence, sightings := e.sightings, longestGap := e.longestGap, qs := e.qs, q := e.q, role := e.role,
      claims := e.claims.length, mute := e.mute, cell := e.battery.cell.map fun c => (c.charge, c.vf),
      minutes := e.battery.minutes, battery := records now e.recBattery, muteRec := records now e.recMute,
      signal := records now e.recSignal }) ∧
  let bytes := fun f => (payload f).map BitVec.toNat
  let bit := fun b : Bool => if b then 1 else 0
  let two := fun n : Nat => [n / 256 % 256, n % 256]
  let level := fun l : Level => match l with | .none => 0 | .lower => 1 | .higher => 2
  let report := fun r : RecordReport =>
    [(match r.state with | .quiet => 0 | .qualifying => 1 | .active => 2 | .shifting => 3 | .releasing => 4) + 16 * level r.level,
      bit r.acked, r.raiseCount % 256] ++ two r.residency ++ [bit r.logLower + 2 * bit r.logHigher]
  (∀ (n : Nat) (f : Frame), n < 16 → (payload f).length < 256 → ∃ header crc, frameBytes n f =
    0x96#8 :: ((header :: byte (payload f).length :: payload f) ++ crc) ∧
    header.toNat = 16 * n + (match f with | .claim .. => 1 | .warn _ => 2 | .station _ => 3 | .entry .. => 4 | .stats _ => 5) ∧
    crc.map BitVec.toNat = two (crc16 (header :: byte (payload f).length :: payload f)).toNat) ∧
  (∀ (r : Nat) (pairs : List Pair), (∀ p ∈ pairs, p.mic < 512) → bytes (.claim r pairs) =
    pairs.length % 256 :: pairs.flatMap fun p => [128 * bit p.reporter + p.mic / 256, p.mic % 256, p.q % 256]) ∧
  (∀ w : Warn, w.mic < 512 → bytes (.warn w) =
    [w.mic / 256, w.mic % 256,
      (match w.kind with | .battery => 0 | .mute => 1 | .signal => 2) + 4 * level w.level +
        16 * (match w.reason with | .raise => 0 | .shift => 1 | .clear => 2 | .repeated => 3 | .adopt => 4),
      bit w.acked + 2 * bit w.hears + 4 * bit w.reporter + 8 * bit w.minutes.isSome, w.q % 256] ++ two w.residency ++
    [w.raiseCount % 256] ++ (match w.minutes with | some m => two m | none => [])) ∧
  (∀ r : StationReport, (∀ mic, r.fault = some (.table mic) → mic < 512) → bytes (.station r) =
    [(match r.state with | .starting => 0 | .joining => 1 | .running => 2 | .feedDown => 3 | .listenOnly => 4),
      (match r.zone with | .notInForce => 0 | .inForce .count => 1 | .inForce .feed => 3) +
        4 * (match r.source with | .site => 0 | .factory => 1 | .defaults => 2) + 16 * bit r.partialImage +
        32 * (match r.fault with
          | none => 0
          | some (.table _) => 1
          | some .doubleFault => 2
          | some .duplicateId => 3
          | some .badId => 4),
      r.occupancy % 256] ++ (match r.fault with | some (.table mic) => [mic / 256, mic % 256] | _ => [0, 0])) ∧
  (∀ mic, mic < 512 → bytes (.entry mic none) = [mic / 256, mic % 256]) ∧
  (∀ (mic : Nat) (r : EntryReport), mic < 512 → bytes (.entry mic (some r)) =
    [128 + mic / 256, mic % 256, (match r.presence with | .heard => 0 | .covered => 1 | .silent => 2)] ++ two r.sightings ++
    two r.longestGap ++
    [r.qs % 256, r.q % 256, (match r.role with | .pending => 0 | .reporter => 1 | .follower => 2), r.claims % 256,
      (match r.mute with | .unknown => 0 | .muted => 1 | .open_ => 2), bit r.cell.isSome + 2 * bit r.minutes.isSome] ++
    (match r.cell with | some (c, vf) => two c ++ two vf | none => [0, 0, 0, 0]) ++
    (match r.minutes with | some m => two m | none => [0, 0]) ++ report r.battery ++ report r.muteRec ++ report r.signal) ∧
  ∀ c : Counters, bytes (.stats c) =
    [c.feedFormat, c.feedCheck, c.feedRange, c.feedAccepted, c.intakeOverrun, c.tableFull, c.integrityFaults, c.staleAcks,
      c.framesSent, c.framesDeferred, c.collisions, c.framesDropped, c.rxGood, c.rxBad, c.rxRefused, c.rxOverrun, c.cuesSent,
      c.cuesDropped, c.configClamps].flatMap two

/-! ## Frames taken -/

/-- CLAIM_TAKEN (R108, R109, R110, R26, R113), the pairs of the frame in their order: a claim for no entry, from station 0 or with
no place changes nothing; an entered one makes a SILENT entry COVERED, or ends it with its forget timer expired, and a HEARD
entry's role is computed, with what a gain or a loss tells the chamber (R117, R118). That a claim of a station gone ABSENT since
is not entered is the model's reading of R109 (notes/assumptions/18.md). -/
def Obligations.ClaimTaken : Prop :=
  ∀ (s : State) (source : Nat) (pairs : List Pair) (rest : List RxFrame), TableLaw s → SoundLaw s → s.inDispatch = none →
    s.rx = ⟨source, .claim pairs⟩ :: rest →
    let taken := { s with rx := rest }
    (source = 0 ∨ s.hasPeer source = false ∨ (∀ p ∈ pairs, s.entry? p.mic = none) → exec .claimTaken s = .next taken) ∧
    ∃ t, exec .claimTaken s = .next t ∧ taken.onlyHandOffs t ∧
      t.view = (s.table.filterMap (s.claimedByAll source pairs)).map Entry.untold ∧
      (s.lostCount = lostOf s.table → t.lostCount = lostOf t.table) ∧
      ∀ p e, pairs = [p] → s.entry? p.mic = some e → source ≠ 0 → s.hasPeer source = true →
        let c : Claim := ⟨source, p.q, p.reporter, s.now⟩
        (enterClaim s.params c e.claims = none → t = taken) ∧
        ∀ l, enterClaim s.params c e.claims = some l →
          (e.presence ≠ .silent → t.lostCount = s.lostCount ∧
            t.view = s.viewWith p.mic (s.roleComputed { e with claims := l }) ∧
            s.tellings t e (s.roleComputed { e with claims := l }).role) ∧
          (e.presence = .silent → e.forget ≠ .expired → t.view = s.viewWith p.mic (s.covered { e with claims := l })) ∧
          (e.presence = .silent → e.forget = .expired →
            t.view = (s.table.filter fun x => x.mic ≠ p.mic).map Entry.untold)

/-- WARN_TAKEN (R119, R72, R71, R29, R115, R116): no entry, no effect; the record is told the level and an acknowledgement of its
own level is adopted, its repeat timer stopped; an acknowledged held entry is removed; the claim of a sender that hears the
microphone is entered, in every presence state, and ends a SILENT entry with its forget timer expired; an entry still SILENT after
that yields to a lower-numbered reporter, and its running takeover is cancelled by news of the loss. The chamber is told the
frame's level wherever the entry stays, but for what a role gained or lost in the same event does next (R117, R118, R74); of a
sender that hears, this is said for states that keep WarnLaw. An acknowledgement of the record's level sets the flag of the WARN
of that pair and level still queued (R149); of a sender that does not hear, the whole queue is given. That a claim of a station
gone ABSENT since is not entered is the model's reading of R109 (notes/assumptions/18.md). -/
def Obligations.WarnTaken : Prop :=
  ∀ (s : State) (source : Nat) (w : Warn) (rest : List RxFrame), TableLaw s → SoundLaw s → s.inDispatch = none →
    s.rx = ⟨source, .warn w⟩ :: rest →
    let taken := { s with rx := rest }
    (s.entry? w.mic = none → exec .warnTaken s = .next taken) ∧
    ∀ e, s.entry? w.mic = some e →
      let r := e.record w.kind
      let acks := w.acked = true ∧ w.level = r.level ∧ w.level ≠ .none
      let told := e.setRecord w.kind { r with
        acked := r.acked || decide acks
        chamber := .told w.level
        chamberAcked := w.acked && decide (w.level ≠ .none)
        repeatTimer := if acks then .stopped else r.repeatTimer }
      let gone := w.kind = .signal ∧ acks ∧ e.presence = .silent ∧ e.lostForget = .expired
      let lost := w.kind = .signal ∧ w.level = .higher
      let claimed := if w.hears then s.claimedBy source told ⟨w.mic, w.q, w.reporter⟩ else some told
      let removed := (s.table.filter fun x => x.mic ≠ w.mic).map Entry.untold
      let queue := if acks then s.tx.map (markAcked w.mic w.kind w.level) else s.tx
      ∃ t, exec .warnTaken s = .next t ∧ taken.onlyHandOffs t ∧
        (acks → ∀ g ∈ t.tx, ∀ v, g.frame = .warn v → v.mic = w.mic → v.kind = w.kind → v.level = w.level → v.acked = true) ∧
        (gone → t.view = removed) ∧
        (¬gone → claimed = none → t.view = removed) ∧
        (∀ f, ¬gone → claimed = some f →
          let yields := f.presence = .silent ∧ f.role = .reporter ∧ w.reporter = true ∧ source < s.number
          (yields → t.view = s.viewWith w.mic { f with
            role := .follower
            cue := 0
            cueRefresh := .stopped
            takeover := if lost then .stopped else .running (s.now + s.params.repeatInterval * 1000) }) ∧
          (¬yields → t.view = s.viewWith w.mic { f with
            takeover := if lost ∧ f.presence = .silent ∧ f.takeover.isRunning then .stopped else f.takeover }) ∧
          (w.hears = false → t.tx = if yields then queue.filter fun g => !g.frame.warnOf w.mic else queue) ∧
          (w.hears = false ∨ WarnLaw s → s.tellings t told (if yields then .follower else f.role)))

/-- ACK_TAKEN (R70, R71, R29, R149): no entry, no effect; a level the record does not hold is counted stale and changes nothing; a
matching ACK marks the record, the chamber and the queued WARN, stops the repeat and selects the lamp, or removes a held entry.
The mark sets the flag of a queued WARN of that microphone, kind and level in its place, and leaves every other frame (R149). -/
def Obligations.AckTaken : Prop :=
  (∀ (mic : Nat) (k : Kind) (l : Level) (x : TxFrame),
    (∀ w, x.frame = .warn w → w.mic = mic ∧ w.kind = k ∧ w.level = l →
      markAcked mic k l x = { x with frame := .warn { w with acked := true } }) ∧
    ((∀ w, x.frame = .warn w → ¬(w.mic = mic ∧ w.kind = k ∧ w.level = l)) → markAcked mic k l x = x)) ∧
  ∀ (s : State) (source mic : Nat) (k : Kind) (l : Level) (rest : List RxFrame), TableLaw s → SoundLaw s →
    s.inDispatch = none → s.rx = ⟨source, .ack mic k l⟩ :: rest →
    let taken := { s with rx := rest }
    (s.entry? mic = none → exec .ackTaken s = .next taken) ∧
    ∀ e, s.entry? mic = some e →
      let held := k = .signal ∧ e.presence = .silent ∧ e.lostForget = .expired
      ((e.record k).level ≠ l ∨ l = .none → exec .ackTaken s = .next { taken with
        counters := { s.counters with staleAcks := min 65535 (s.counters.staleAcks + 1) } }) ∧
      ((e.record k).level = l → l ≠ .none → ¬held → exec .ackTaken s = .next (State.selectLamp (lampOf k) { taken with
        table := s.table.map fun x => if x.mic = mic then e.setRecord k { e.record k with
          acked := true, chamber := .told l, chamberAcked := true, repeatTimer := .stopped } else x
        tx := s.tx.map (markAcked mic k l) })) ∧
      ((e.record k).level = l → l ≠ .none → held → ∃ t, exec .ackTaken s = .next t ∧ taken.onlyHandOffs t ∧
        t.entry? mic = none ∧ t.view = (s.table.filter fun x => x.mic ≠ mic).map Entry.untold)

/-- ENTRY_QUERY, STATS_QUERY and PEER_REPORT_TAKEN (R153 to R155, R138, R147): a query of another station, or in JOINING or
LISTEN_ONLY, and a peer's report change nothing; an answered one queues one reply in its class; in a full queue the newest CLAIM
gives way to it and is counted, and with no CLAIM queued the reply is dropped and counted. -/
def Obligations.QueriesAnswered : Prop :=
  ∀ (s : State) (source : Nat) (rest : List RxFrame), SoundLaw s → s.inDispatch = none →
    let taken := { s with rx := rest }
    let sends := s.station = .running ∨ s.station = .feedDown
    let answered := fun (c : Instr) (f : Frame) =>
      (s.tx.length < 16 → exec c s = .next { taken with tx := placeTx ⟨f, 0⟩ s.tx }) ∧
      (16 ≤ s.tx.length → (∀ g ∈ s.tx, g.frame.cls ≤ 3) → exec c s = .next { taken with
        counters := { s.counters with framesDropped := min 65535 (s.counters.framesDropped + 1) } }) ∧
      (16 ≤ s.tx.length → (∃ g ∈ s.tx, 3 < g.frame.cls) → ∃ pre v post, s.tx = pre ++ v :: post ∧
        (∃ r pairs, v.frame = .claim r pairs) ∧ (∀ g ∈ post, g.frame.cls ≠ v.frame.cls) ∧
        exec c s = .next { taken with
          tx := placeTx ⟨f, 0⟩ (pre ++ post)
          counters := { s.counters with framesDropped := min 65535 (s.counters.framesDropped + 1) } })
    (∀ target mic, s.rx = ⟨source, .query target (.entry mic)⟩ :: rest →
      (target ≠ s.number ∨ ¬sends → exec .entryQuery s = .next taken) ∧
      (target = s.number → sends → answered .entryQuery (.entry mic ((s.entry? mic).map (entryReport s.now))))) ∧
    (∀ target, s.rx = ⟨source, .query target .stats⟩ :: rest →
      (target ≠ s.number ∨ ¬sends → exec .statsQuery s = .next taken) ∧
      (target = s.number → sends → answered .statsQuery (.stats s.counters))) ∧
    ∀ kind payload, s.rx = ⟨source, .report kind payload⟩ :: rest → exec .peerReportTaken s = .next taken

/-- RESTART (R187, R81, R104, R157, R163, R173, R176, R182): everything it empties, stops and zeroes, and everything it keeps. Of
what it keeps, the claim-round number (notes/assumptions/17.md) and the field of the sighting in processing, whose processing has
ended with its entry (notes/assumptions/4.md), are the model's choice. -/
def Obligations.RestartClears : Prop :=
  ∀ (s : State) (source : Nat) (rest : List RxFrame), s.inDispatch = none → s.rx = ⟨source, .restart⟩ :: rest →
    let dark : Generator := ⟨0, .dark, .stopped, none⟩
    let cleared := { s with
      rx := []
      tx := []
      stationRepeat := .stopped
      cueQueue := []
      claimRound := .stopped
      zone := .notInForce
      zoneRepeat := .stopped
      table := []
      lostCount := 0
      floorSet := []
      floor := .stale
      floorTimer := .stopped
      counters := ⟨0, 0, 0, 0, 0, 0, 0, 0, 0, 0, 0, 0, 0, 0, 0, 0, 0, 0, 0⟩
      lampBattery := dark
      lampMute := dark
      lampSignal := dark }
    (s.station ≠ .listenOnly → exec .restart s = .next { cleared with
      station := .joining
      joining := .running (s.now + 3 * s.params.claimInterval)
      lampStation := ⟨5, .on, .running (s.now + (s.params.cadence 5).on), none⟩
      attn := decide (s.source = .defaults) }) ∧
    (s.station = .listenOnly → exec .restart s = .next { cleared with
      tx := [⟨.station ⟨.listenOnly, .notInForce, 0, s.source, s.partialImage, s.fault⟩, 0⟩]
      lampStation := ⟨2, .on, .running (s.now + (s.params.cadence 2).on), none⟩
      attn := true })

/-! ## The transmit queue and integrity -/

/-- A request for a WARN frame (R143 to R145, R147, R73, R142): refused without effect; accepted in place of the queued frame of
the same microphone and kind, behind its own and every more urgent class, with the chamber told; dropped in a full queue that
holds nothing less urgent; else the newest frame of the least urgent class gives way, and R74 applies to it (`discarded`). -/
def Obligations.WarnRequest : Prop :=
  ∀ (s : State) (mic : Nat) (k : Kind) (reason : Reason) (e : Entry), TableLaw s → SoundLaw s → s.tx.length ≤ 16 →
    s.entry? mic = some e →
    let r := e.record k
    let open_ := (s.station = .running ∨ s.station = .feedDown) ∧ e.role = .reporter ∧
      (s.zone = .notInForce ∨ k ≠ .signal ∨ r.level ≠ .higher)
    let kept := s.tx.filter fun t => !t.frame.warnFor mic k
    let f : TxFrame := ⟨.warn (composeWarn s.now e k reason), 0⟩
    let told := fun x : Entry => if x.mic = mic then e.setRecord k { r with chamber := .told r.level, chamberAcked := r.acked }
      else x
    let missed := { s.counters with framesDropped := min 65535 (s.counters.framesDropped + 1) }
    (¬open_ → s.requestWarn mic k reason = s) ∧
    (open_ → kept.length < 16 →
      s.requestWarn mic k reason = { s with tx := placeTx f kept, table := s.table.map told }) ∧
    (open_ → kept.length = 16 → (∀ g ∈ s.tx, g.frame.cls ≤ f.frame.cls) →
      s.requestWarn mic k reason = { s with counters := missed }) ∧
    (open_ → kept.length = 16 → (∃ g ∈ s.tx, f.frame.cls < g.frame.cls) → ∃ pre v post, s.tx = pre ++ v :: post ∧
      (∀ g ∈ s.tx, g.frame.cls ≤ v.frame.cls) ∧ (∀ g ∈ post, g.frame.cls ≠ v.frame.cls) ∧
      s.requestWarn mic k reason = { s with
        tx := placeTx f (pre ++ post)
        counters := missed
        table := (discarded (placeTx f (pre ++ post)) v.frame s.table).map fun x => if x.mic = mic then
          x.setRecord k { x.record k with chamber := .told r.level, chamberAcked := r.acked } else x }) ∧
    ∃ pre post, placeTx f kept = pre ++ f :: post ∧ kept = pre ++ post ∧
      (∀ g ∈ pre, g.returned = true ∨ g.frame.cls ≤ f.frame.cls) ∧
      ∀ g, post.head? = some g → g.returned = false ∧ f.frame.cls < g.frame.cls

/-- An integrity fault (R35, R36, R180, R181) and INTEGRITY_WINDOW_EXPIRY (R180). What a fault does, as State.entryFault: the
entry is removed with its queued WARN frames and the fault counted; the first fault opens the window of 60 s with TABLE, a second
inside it sends the station into LISTEN_ONLY with DOUBLE_FAULT, and in LISTEN_ONLY record and window stay; where STATION frames
are accepted the one queued carries the fault record as the fault leaves it. The events that find it, and how each goes on: every
due expiry of the entry and a CLAIM pair, WARN or ACK for it end there; a QUERY is answered as absent; a sighting goes on as one
for a microphone with no entry; the first bad candidate of an eviction gives way; and a sweep goes on to the next entry. At the
window's end it closes and a TABLE record becomes absent. That a second fault makes one STATION request is the model's reading
(notes/assumptions/24.md). -/
def Obligations.IntegrityFaultsAndWindow : Prop :=
  (∀ (s : State) (mic : Nat) (e : Entry), TableLaw s → s.entry? mic = some e → e.checkGood = false →
    (∀ x ∈ s.table, x.mic ≠ mic → x.checkGood = true) → s.station ≠ .starting → let t := s.entryFault mic
    t.entry? mic = none ∧ t.table.map Entry.mic = (s.table.filter fun x => x.mic ≠ mic).map Entry.mic ∧
      t.counters.integrityFaults = min 65535 (s.counters.integrityFaults + 1) ∧ (∀ f ∈ t.tx, f.frame.warnOf mic = false) ∧
      (s.station ≠ .joining ∨ s.window.isRunning = true → (t.tx.filter fun f => f.frame.isStation) =
        [⟨.station ⟨t.station, t.zone, t.table.length, s.source, s.partialImage, t.fault⟩, 0⟩]) ∧
      (s.station ≠ .listenOnly → s.window.isRunning = false → t.station = s.station ∧ t.fault = some (.table mic) ∧
        t.window = .running (s.now + 60000) ∧
        t.view = (s.table.filter fun x => x.mic ≠ mic).map Entry.untold) ∧
      (s.station ≠ .listenOnly → s.window.isRunning = true → t.station = .listenOnly ∧ t.fault = some .doubleFault ∧
        t.window = .stopped ∧ t.attn = true ∧ ∀ x ∈ t.table, x.role = .follower) ∧
      (s.station = .listenOnly → t.station = .listenOnly ∧ t.fault = s.fault ∧ t.window = s.window)) ∧
  (∀ (s : State) (mic : Nat) (e : Entry), s.entry? mic = some e → e.checkGood = false →
    let ends := fun (timer : Timer) (c : Instr) => timer.isDue s.now = true → exec c s = .next (s.entryFault mic)
    ends e.loss (.lossTimerExpiry mic) ∧ ends e.forget (.forgetTimerExpiry mic) ∧ ends e.lostForget (.lostForgetExpiry mic) ∧
      ends e.battery.epoch (.epochTimerExpiry mic) ∧ ends e.battery.stale (.staleTimerExpiry mic) ∧
      (∀ k, ends (e.record k).persist (.persistenceTimerExpiry mic k) ∧ ends (e.record k).repeatTimer (.repeatTimerExpiry mic k)) ∧
      ends e.pendingTimer (.pendingTimerExpiry mic) ∧ ends e.takeover (.takeoverTimerExpiry mic) ∧
      ends e.cueRefresh (.cueRefreshExpiry mic) ∧
      ∀ n c, (e.claims.find? fun x => x.station == n) = some c →
        ends (.running (c.arrival + 2 * s.params.claimInterval)) (.claimExpiry mic n)) ∧
  (∀ (s : State) (source mic : Nat) (rest : List RxFrame) (e : Entry), s.inDispatch = none → s.entry? mic = some e →
    e.checkGood = false →
    let met := fun body => ({ s with rx := rest, inDispatch := some ⟨source, body⟩ }).entryFault mic
    let ends := fun (body : RxBody) (c : Instr) => s.rx = ⟨source, body⟩ :: rest →
      exec c s = .next { met body with inDispatch := none }
    (∀ k l, ends (.ack mic k l) .ackTaken) ∧ (∀ w : Warn, w.mic = mic → ends (.warn w) .warnTaken) ∧
      (∀ q r, source ≠ 0 → ends (.claim [⟨mic, q, r⟩]) .claimTaken) ∧
      let query := RxBody.query s.number (.entry mic)
      (s.station = .running ∨ s.station = .feedDown → s.rx = ⟨source, query⟩ :: rest → exec .entryQuery s =
        .next { (met query).requestFrame (.entry mic none) with inDispatch := none })) ∧
  (∀ (s : State) (g : Sighting) (rest : List Sighting) (n : Nat), s.underway = none → s.intake = g :: rest →
    let taken := { s with intake := rest, inProcessing := none }
    let answer := exec (.sightingTaken n) s
    (∀ e, s.entry? g.mic = some e → e.checkGood = false → answer = .next ((taken.entryFault g.mic).admitOrEvict n g)) ∧
    (s.entry? g.mic = none → answer = .next (taken.admitOrEvict n g)) ∧
    (s.entry? g.mic = none → s.table.length < 96 → answer = .next (taken.addEntry n g)) ∧
    ∀ pre bad post, s.entry? g.mic = none → s.table.length = 96 → s.table = pre ++ bad :: post →
      (∀ x ∈ pre, x.checkGood = true) → bad.checkGood = false → answer = .next ((taken.entryFault bad.mic).addEntry n g)) ∧
  (∀ (fx act : Nat → State → State) (s : State), s.sweep fx act = s.mics.foldl (fun u mic => match u.entry? mic with
      | none => u
      | some e => if e.checkGood then act mic u else fx mic u) s) ∧
  (∀ (s : State) (mic : Nat) (bad : Entry), TableLaw s → s.entry? mic = some bad → bad.checkGood = false →
    (∀ x ∈ s.table, x.mic ≠ mic → x.checkGood = true) → s.station = .running → s.window.isRunning = false →
    s.floorTimer.isDue s.now = true →
    ∃ t, exec .floorTimerExpiry s = .next t ∧ t.entry? mic = none ∧ t.fault = some (.table mic) ∧ t.floor = .stale ∧
      t.counters.integrityFaults = min 65535 (s.counters.integrityFaults + 1) ∧
      t.view = (s.table.filter fun x => x.mic ≠ mic).map fun x => Entry.untold { x with
        muteCand := muteCandidate s.floorSet x.mic x.mute
        recMute := x.recMute.step s.params s.now .mute .unknown }) ∧
  ∀ s : State, s.window.isDue s.now = true →
    (∀ mic, s.fault = some (.table mic) →
      exec .integrityWindowExpiry s = .next { s with window := .stopped, fault := none }) ∧
    ((∀ mic, s.fault ≠ some (.table mic)) → exec .integrityWindowExpiry s = .next { s with window := .stopped })

/-! ## What every step keeps -/

/-- R17, R35: every step keeps the table's size, order and seats, and the check words good. That no step, the passing millisecond
included, makes a check word bad rests on the model's choice that no command damages an entry's storage
(notes/assumptions/5.md). -/
def Obligations.StepKeepsTheTable : Prop :=
  ∀ s t : State, step s = .next t → (TableLaw s → TableLaw t) ∧ (SoundLaw s → SoundLaw t)

/-- R4, R9, R81, R109, R137, R141, R163: every step keeps the capacities of the queues and lists, and the floor set's form. -/
def Obligations.StepKeepsTheBounds : Prop :=
  ∀ s t : State, QueueLaw s → step s = .next t → QueueLaw t

/-- R141, R142, R133: every step keeps the transmit queue in the order of its classes, but for one returned frame at its head. The
classes are those of R142's table. -/
def Obligations.StepKeepsTheQueueOrder : Prop :=
  (∀ s t : State, OrderLaw s → step s = .next t → OrderLaw t) ∧
  (∀ r, (Frame.station r).cls = 0) ∧
  (∀ w : Warn, (w.reason = .raise ∨ w.reason = .shift → (Frame.warn w).cls = 1) ∧
    (w.reason = .clear ∨ w.reason = .repeated ∨ w.reason = .adopt → (Frame.warn w).cls = 2)) ∧
  (∀ mic r, (Frame.entry mic r).cls = 3) ∧ (∀ c, (Frame.stats c).cls = 3) ∧ ∀ r pairs, (Frame.claim r pairs).cls = 4

/-- R141, R99: every step keeps one WARN at most for a microphone and kind, WARN frames for reported entries only, and under
ZONE_SILENT no WARN of LOST. -/
def Obligations.StepKeepsTheQueuedWarns : Prop :=
  ∀ s t : State, TableLaw s → WarnLaw s → ZoneQueueLaw s → step s = .next t → WarnLaw t ∧ ZoneQueueLaw t

/-- R23 to R26: after every step a COVERED entry has a claim, and a SILENT one has none. R109: after every step each listed claim
is of a station PRESENT in the roster; that a claim taken after its station went ABSENT is not listed is the model's reading
(notes/assumptions/18.md). -/
def Obligations.StepKeepsPresence : Prop :=
  ∀ s t : State, TableLaw s → step s = .next t → (PresenceLaw s → PresenceLaw t) ∧ (RosterLaw s → RosterLaw t)

/-- Section 4.1's two laws of the device, and the timers, spells and logs that go with them: every step keeps them of every record
of every entry. -/
def Obligations.StepKeepsTheRecords : Prop :=
  ∀ s t : State, TableLaw s → RecordLaw s → step s = .next t → RecordLaw t

/-- R76: after every step a repeat timer runs exactly for a reported, unacknowledged level. -/
def Obligations.StepKeepsTheRepeats : Prop :=
  ∀ s t : State, TableLaw s → RepeatLaw s → step s = .next t → RepeatLaw t

/-- R17, R127, R143, R183 in STARTING, R143 in JOINING, and R114, R121, R151, R158, R176, R181 in LISTEN_ONLY: every step keeps
what these states promise. -/
def Obligations.StepKeepsTheStationStates : Prop :=
  ∀ s t : State, StartingLaw s → JoiningLaw s → ListenOnlyLaw s → step s = .next t →
    StartingLaw t ∧ JoiningLaw t ∧ ListenOnlyLaw t

/-- R97, R98, R100 to R103: every step keeps the lost count, the zone state that agrees with it, its repeat timer running exactly
while it is in force, and cause FEED exactly in FEED_DOWN. The entries that count are those of R97: SIGNAL QUALIFYING toward LOST,
or at level LOST in any state. -/
def Obligations.StepKeepsTheZone : Prop :=
  (∀ s t : State, TableLaw s → StartingLaw s → ZoneLaw s → step s = .next t → ZoneLaw t) ∧
  ∀ table : List Entry, lostOf table = (table.filter fun e =>
    (e.recSignal.state = .qualifying ∧ e.recSignal.pending = some .higher) ∨ e.recSignal.level = .higher).length

/-- R182: after every step ATTN is as the station state, the zone and the source ask. R167 to R173: after every step each lamp
shows, or has staged, the pattern its table gives. The tables are spelled row by row: the warning lamps' (R168), the STATION
lamp's (R169), and the causes of ATTN (R182). -/
def Obligations.StepKeepsTheOutputs : Prop :=
  (∀ s t : State, step s = .next t → (AttnLaw s → AttnLaw t) ∧ (TableLaw s → LampLaw s → LampLaw t)) ∧
  (∀ s : State, s.attnValue = true ↔ s.station ≠ .starting ∧
    (s.station = .listenOnly ∨ s.station = .feedDown ∨ s.zone ≠ .notInForce ∨ s.source = .defaults)) ∧
  (∀ (s : State) (k : Kind), let pattern := s.lampPattern (match k with | .battery => .battery | .mute => .mute | .signal => .signal)
    let owed := fun l => ∃ e ∈ s.table, (e.record k).level = l ∧ (e.record k).acked = false
    (owed .higher → pattern = 2) ∧ (¬owed .higher → owed .lower → pattern = 1) ∧
    (¬owed .higher → ¬owed .lower → (∃ e ∈ s.table, (e.record k).level ≠ .none) → pattern = 7) ∧
    ((∀ e ∈ s.table, (e.record k).level = .none) → pattern = 0)) ∧
  ∀ s : State, let pattern := s.lampPattern .station
    (s.station = .starting → pattern = 0) ∧ (s.station = .listenOnly → pattern = 2) ∧ (s.station = .feedDown → pattern = 1) ∧
    (s.station = .joining ∨ s.station = .running → s.zone ≠ .notInForce → pattern = 1) ∧
    (s.station = .joining → s.zone = .notInForce → pattern = 5) ∧
    (s.station = .running → s.zone = .notInForce → s.source = .defaults → pattern = 6) ∧
    (s.station = .running → s.zone = .notInForce → s.source ≠ .defaults → pattern = 7)

/-- R160 to R162: after every step a cued entry holds the pattern its records give, any other entry pattern 0, but for an entry in
processing that has not come to its cue selection; and the refresh timer runs exactly while the pattern is not 0. When an entry is
cued, and its pattern, are spelled row by row (R160). -/
def Obligations.StepKeepsTheCues : Prop :=
  (∀ s t : State, TableLaw s → StartingLaw s → CueLaw s → step s = .next t → CueLaw t) ∧
  (∀ (st : StationState) (e : Entry),
    cued st e = true ↔ e.presence = .heard ∧ e.role = .reporter ∧ (st = .running ∨ st = .feedDown)) ∧
  ∀ e : Entry, let battery := e.recBattery.level; let mute := e.recMute.level
    (battery = .higher → cuePattern e = 2) ∧ (battery ≠ .higher → mute = .higher → cuePattern e = 4) ∧
    (battery ≠ .higher → mute = .lower → cuePattern e = 3) ∧ (battery = .lower → mute = .none → cuePattern e = 1) ∧
    (battery = .none → mute = .none → cuePattern e = 0)
end

