-- ==== Sys2Proof/Laws/Area.lean ====
section
/-! SUPPORT. An area of the configuration memory written by the layout of section 12.3 and read back: its fields, the reading of
runs of them, and what an adoption asks for. -/

namespace Sys2Proof.Machine

@[simp] theorem bigEndian_length (w n : Nat) : (bigEndian w n).length = w := by simp [bigEndian]

theorem bigEndian_succ (w n : Nat) : bigEndian (w + 1) n = byte (n / 256 ^ w) :: bigEndian w n := by
  simp [bigEndian, List.range_succ]

/-- A run of bytes read behind a number. -/
theorem beNat_fold (l : List Byte) (a : Nat) : l.foldl (fun n b => 256 * n + b.toNat) a = a * 256 ^ l.length + beNat l := by
  induction l generalizing a with
  | nil => simp [beNat]
  | cons b l ih =>
    show l.foldl _ (256 * a + b.toNat) = a * 256 ^ (l.length + 1) + l.foldl _ (256 * 0 + b.toNat)
    rw [ih, ih (256 * 0 + b.toNat)]; ring

/-- A field reads back as its number, cut to its width. -/
theorem beNat_bigEndian (w n : Nat) : beNat (bigEndian w n) = n % 256 ^ w := by
  induction w with
  | zero => simp [bigEndian, beNat, Nat.mod_one]
  | succ w ih =>
    rw [bigEndian_succ]
    show (bigEndian w n).foldl _ (256 * 0 + (byte (n / 256 ^ w)).toNat) = _
    rw [beNat_fold, ih, bigEndian_length, pow_succ', Nat.mul_comm 256 (256 ^ w), Nat.mod_mul]
    simp [byte]; ring

/-- The parameters of an area read back one by one. -/
theorem readValues_stored (specs : List ParamSpec) (vals : List Nat) (tail : List Byte) (hl : vals.length = specs.length)
    (hv : ∀ x ∈ specs.zip vals, x.2 < 256 ^ x.1.width) :
    readValues specs ((specs.zip vals).flatMap (fun x => bigEndian x.1.width x.2) ++ tail) = vals := by
  induction specs generalizing vals with
  | nil => cases vals <;> simp_all [readValues]
  | cons sp specs ih =>
    cases vals with
    | nil => simp at hl
    | cons v vals =>
      simp only [List.zip_cons_cons, List.flatMap_cons, List.append_assoc, readValues]
      have h1 : v < 256 ^ sp.width := hv (sp, v) (by simp)
      rw [List.take_left' (bigEndian_length _ _), List.drop_left' (bigEndian_length _ _), beNat_bigEndian, Nat.mod_eq_of_lt h1,
        ih vals (by simpa using hl) (fun x hx => hv x (by simp [hx]))]

/-- The knots and the pattern times of an area read back. -/
theorem readWordPairs_stored (l : List (Nat × Nat)) (tail : List Byte) (h : ∀ x ∈ l, x.1 < 65536 ∧ x.2 < 65536) :
    readWordPairs l.length (l.flatMap (fun x => bigEndian 2 x.1 ++ bigEndian 2 x.2) ++ tail) = l := by
  induction l with
  | nil => simp [readWordPairs]
  | cons a l ih =>
    have ha := h a (by simp)
    have e1 : bigEndian 2 a.1 ++ bigEndian 2 a.2 = [byte (a.1/256), byte a.1, byte (a.2/256), byte a.2] := by
      simp [bigEndian, List.range_succ]
    have e2 : beNat [byte (a.1/256), byte a.1] = a.1 := by simp [beNat, byte]; omega
    have e3 : beNat [byte (a.2/256), byte a.2] = a.2 := by simp [beNat, byte]; omega
    simp only [List.flatMap_cons, List.length_cons, readWordPairs, e1]
    simp [e2, e3]
    exact ih fun x hx => h x (by simp [hx])

theorem areaOf_length (p : Params) (h : p.curve.length = 9) (h' : p.patterns.length = 6) : (areaOf p).length = 120 := by
  simp [areaOf, storedFields, bigEndian_length, List.length_flatMap, h, h']

/-- The statements' name for what an adoption asks for (R117) is the operation's test. -/
theorem Record.wantsAdopt_eq (r : Record) : r.wantsAdopt = r.unadopted := by
  unfold Record.wantsAdopt Record.unadopted
  cases hl : r.level <;> cases hc : r.chamber with
  | unknown => simp
  | told l => cases l <;> simp

end Sys2Proof.Machine
end

