-- ==== Sys2Proof/Laws/State.lean ====
section
/-! SUPPORT. What each primitive update of State leaves: one lemma per field per update, so that no proof unfolds a record
update. -/

namespace Sys2Proof.Machine

variable (s : State)

/-! ## count -/

@[simp] theorem State.count_now (k : Counter) : (s.count k).now = s.now := rfl
@[simp] theorem State.count_pending (k : Counter) : (s.count k).pending = s.pending := rfl
@[simp] theorem State.count_station (k : Counter) : (s.count k).station = s.station := rfl
@[simp] theorem State.count_number (k : Counter) : (s.count k).number = s.number := rfl
@[simp] theorem State.count_params (k : Counter) : (s.count k).params = s.params := rfl
@[simp] theorem State.count_source (k : Counter) : (s.count k).source = s.source := rfl
@[simp] theorem State.count_partialImage (k : Counter) : (s.count k).partialImage = s.partialImage := rfl
@[simp] theorem State.count_load (k : Counter) : (s.count k).load = s.load := rfl
@[simp] theorem State.count_holdUntil (k : Counter) : (s.count k).holdUntil = s.holdUntil := rfl
@[simp] theorem State.count_joining (k : Counter) : (s.count k).joining = s.joining := rfl
@[simp] theorem State.count_fault (k : Counter) : (s.count k).fault = s.fault := rfl
@[simp] theorem State.count_window (k : Counter) : (s.count k).window = s.window := rfl
@[simp] theorem State.count_attn (k : Counter) : (s.count k).attn = s.attn := rfl
@[simp] theorem State.count_strobe (k : Counter) : (s.count k).strobe = s.strobe := rfl
@[simp] theorem State.count_intake (k : Counter) : (s.count k).intake = s.intake := rfl
@[simp] theorem State.count_feed (k : Counter) : (s.count k).feed = s.feed := rfl
@[simp] theorem State.count_feedTimer (k : Counter) : (s.count k).feedTimer = s.feedTimer := rfl
@[simp] theorem State.count_inProcessing (k : Counter) : (s.count k).inProcessing = s.inProcessing := rfl
@[simp] theorem State.count_table (k : Counter) : (s.count k).table = s.table := rfl
@[simp] theorem State.count_floorSet (k : Counter) : (s.count k).floorSet = s.floorSet := rfl
@[simp] theorem State.count_floor (k : Counter) : (s.count k).floor = s.floor := rfl
@[simp] theorem State.count_floorTimer (k : Counter) : (s.count k).floorTimer = s.floorTimer := rfl
@[simp] theorem State.count_lostCount (k : Counter) : (s.count k).lostCount = s.lostCount := rfl
@[simp] theorem State.count_zone (k : Counter) : (s.count k).zone = s.zone := rfl
@[simp] theorem State.count_zoneRepeat (k : Counter) : (s.count k).zoneRepeat = s.zoneRepeat := rfl
@[simp] theorem State.count_roster (k : Counter) : (s.count k).roster = s.roster := rfl
@[simp] theorem State.count_claimRound (k : Counter) : (s.count k).claimRound = s.claimRound := rfl
@[simp] theorem State.count_round (k : Counter) : (s.count k).round = s.round := rfl
@[simp] theorem State.count_access (k : Counter) : (s.count k).access = s.access := rfl
@[simp] theorem State.count_lastSender (k : Counter) : (s.count k).lastSender = s.lastSender := rfl
@[simp] theorem State.count_inFlight (k : Counter) : (s.count k).inFlight = s.inFlight := rfl
@[simp] theorem State.count_assembler (k : Counter) : (s.count k).assembler = s.assembler := rfl
@[simp] theorem State.count_rx (k : Counter) : (s.count k).rx = s.rx := rfl
@[simp] theorem State.count_inDispatch (k : Counter) : (s.count k).inDispatch = s.inDispatch := rfl
@[simp] theorem State.count_tx (k : Counter) : (s.count k).tx = s.tx := rfl
@[simp] theorem State.count_stationRepeat (k : Counter) : (s.count k).stationRepeat = s.stationRepeat := rfl
@[simp] theorem State.count_cueQueue (k : Counter) : (s.count k).cueQueue = s.cueQueue := rfl
@[simp] theorem State.count_cueTransfer (k : Counter) : (s.count k).cueTransfer = s.cueTransfer := rfl
@[simp] theorem State.count_lampBattery (k : Counter) : (s.count k).lampBattery = s.lampBattery := rfl
@[simp] theorem State.count_lampMute (k : Counter) : (s.count k).lampMute = s.lampMute := rfl
@[simp] theorem State.count_lampSignal (k : Counter) : (s.count k).lampSignal = s.lampSignal := rfl
@[simp] theorem State.count_lampStation (k : Counter) : (s.count k).lampStation = s.lampStation := rfl

/-! ## mapEntry -/

@[simp] theorem State.mapEntry_now (mic : Nat) (f : Entry → Entry) : (s.mapEntry mic f).now = s.now := rfl
@[simp] theorem State.mapEntry_pending (mic : Nat) (f : Entry → Entry) : (s.mapEntry mic f).pending = s.pending := rfl
@[simp] theorem State.mapEntry_station (mic : Nat) (f : Entry → Entry) : (s.mapEntry mic f).station = s.station := rfl
@[simp] theorem State.mapEntry_number (mic : Nat) (f : Entry → Entry) : (s.mapEntry mic f).number = s.number := rfl
@[simp] theorem State.mapEntry_params (mic : Nat) (f : Entry → Entry) : (s.mapEntry mic f).params = s.params := rfl
@[simp] theorem State.mapEntry_source (mic : Nat) (f : Entry → Entry) : (s.mapEntry mic f).source = s.source := rfl
@[simp] theorem State.mapEntry_partialImage (mic : Nat) (f : Entry → Entry) : (s.mapEntry mic f).partialImage = s.partialImage := rfl
@[simp] theorem State.mapEntry_load (mic : Nat) (f : Entry → Entry) : (s.mapEntry mic f).load = s.load := rfl
@[simp] theorem State.mapEntry_holdUntil (mic : Nat) (f : Entry → Entry) : (s.mapEntry mic f).holdUntil = s.holdUntil := rfl
@[simp] theorem State.mapEntry_joining (mic : Nat) (f : Entry → Entry) : (s.mapEntry mic f).joining = s.joining := rfl
@[simp] theorem State.mapEntry_fault (mic : Nat) (f : Entry → Entry) : (s.mapEntry mic f).fault = s.fault := rfl
@[simp] theorem State.mapEntry_window (mic : Nat) (f : Entry → Entry) : (s.mapEntry mic f).window = s.window := rfl
@[simp] theorem State.mapEntry_attn (mic : Nat) (f : Entry → Entry) : (s.mapEntry mic f).attn = s.attn := rfl
@[simp] theorem State.mapEntry_counters (mic : Nat) (f : Entry → Entry) : (s.mapEntry mic f).counters = s.counters := rfl
@[simp] theorem State.mapEntry_strobe (mic : Nat) (f : Entry → Entry) : (s.mapEntry mic f).strobe = s.strobe := rfl
@[simp] theorem State.mapEntry_intake (mic : Nat) (f : Entry → Entry) : (s.mapEntry mic f).intake = s.intake := rfl
@[simp] theorem State.mapEntry_feed (mic : Nat) (f : Entry → Entry) : (s.mapEntry mic f).feed = s.feed := rfl
@[simp] theorem State.mapEntry_feedTimer (mic : Nat) (f : Entry → Entry) : (s.mapEntry mic f).feedTimer = s.feedTimer := rfl
@[simp] theorem State.mapEntry_inProcessing (mic : Nat) (f : Entry → Entry) : (s.mapEntry mic f).inProcessing = s.inProcessing := rfl
@[simp] theorem State.mapEntry_floorSet (mic : Nat) (f : Entry → Entry) : (s.mapEntry mic f).floorSet = s.floorSet := rfl
@[simp] theorem State.mapEntry_floor (mic : Nat) (f : Entry → Entry) : (s.mapEntry mic f).floor = s.floor := rfl
@[simp] theorem State.mapEntry_floorTimer (mic : Nat) (f : Entry → Entry) : (s.mapEntry mic f).floorTimer = s.floorTimer := rfl
@[simp] theorem State.mapEntry_lostCount (mic : Nat) (f : Entry → Entry) : (s.mapEntry mic f).lostCount = s.lostCount := rfl
@[simp] theorem State.mapEntry_zone (mic : Nat) (f : Entry → Entry) : (s.mapEntry mic f).zone = s.zone := rfl
@[simp] theorem State.mapEntry_zoneRepeat (mic : Nat) (f : Entry → Entry) : (s.mapEntry mic f).zoneRepeat = s.zoneRepeat := rfl
@[simp] theorem State.mapEntry_roster (mic : Nat) (f : Entry → Entry) : (s.mapEntry mic f).roster = s.roster := rfl
@[simp] theorem State.mapEntry_claimRound (mic : Nat) (f : Entry → Entry) : (s.mapEntry mic f).claimRound = s.claimRound := rfl
@[simp] theorem State.mapEntry_round (mic : Nat) (f : Entry → Entry) : (s.mapEntry mic f).round = s.round := rfl
@[simp] theorem State.mapEntry_access (mic : Nat) (f : Entry → Entry) : (s.mapEntry mic f).access = s.access := rfl
@[simp] theorem State.mapEntry_lastSender (mic : Nat) (f : Entry → Entry) : (s.mapEntry mic f).lastSender = s.lastSender := rfl
@[simp] theorem State.mapEntry_inFlight (mic : Nat) (f : Entry → Entry) : (s.mapEntry mic f).inFlight = s.inFlight := rfl
@[simp] theorem State.mapEntry_assembler (mic : Nat) (f : Entry → Entry) : (s.mapEntry mic f).assembler = s.assembler := rfl
@[simp] theorem State.mapEntry_rx (mic : Nat) (f : Entry → Entry) : (s.mapEntry mic f).rx = s.rx := rfl
@[simp] theorem State.mapEntry_inDispatch (mic : Nat) (f : Entry → Entry) : (s.mapEntry mic f).inDispatch = s.inDispatch := rfl
@[simp] theorem State.mapEntry_tx (mic : Nat) (f : Entry → Entry) : (s.mapEntry mic f).tx = s.tx := rfl
@[simp] theorem State.mapEntry_stationRepeat (mic : Nat) (f : Entry → Entry) : (s.mapEntry mic f).stationRepeat = s.stationRepeat := rfl
@[simp] theorem State.mapEntry_cueQueue (mic : Nat) (f : Entry → Entry) : (s.mapEntry mic f).cueQueue = s.cueQueue := rfl
@[simp] theorem State.mapEntry_cueTransfer (mic : Nat) (f : Entry → Entry) : (s.mapEntry mic f).cueTransfer = s.cueTransfer := rfl
@[simp] theorem State.mapEntry_lampBattery (mic : Nat) (f : Entry → Entry) : (s.mapEntry mic f).lampBattery = s.lampBattery := rfl
@[simp] theorem State.mapEntry_lampMute (mic : Nat) (f : Entry → Entry) : (s.mapEntry mic f).lampMute = s.lampMute := rfl
@[simp] theorem State.mapEntry_lampSignal (mic : Nat) (f : Entry → Entry) : (s.mapEntry mic f).lampSignal = s.lampSignal := rfl
@[simp] theorem State.mapEntry_lampStation (mic : Nat) (f : Entry → Entry) : (s.mapEntry mic f).lampStation = s.lampStation := rfl

/-! ## modEntry -/

@[simp] theorem State.modEntry_now (mic : Nat) (f : Entry → Entry) : (s.modEntry mic f).now = s.now := rfl
@[simp] theorem State.modEntry_pending (mic : Nat) (f : Entry → Entry) : (s.modEntry mic f).pending = s.pending := rfl
@[simp] theorem State.modEntry_station (mic : Nat) (f : Entry → Entry) : (s.modEntry mic f).station = s.station := rfl
@[simp] theorem State.modEntry_number (mic : Nat) (f : Entry → Entry) : (s.modEntry mic f).number = s.number := rfl
@[simp] theorem State.modEntry_params (mic : Nat) (f : Entry → Entry) : (s.modEntry mic f).params = s.params := rfl
@[simp] theorem State.modEntry_source (mic : Nat) (f : Entry → Entry) : (s.modEntry mic f).source = s.source := rfl
@[simp] theorem State.modEntry_partialImage (mic : Nat) (f : Entry → Entry) : (s.modEntry mic f).partialImage = s.partialImage := rfl
@[simp] theorem State.modEntry_load (mic : Nat) (f : Entry → Entry) : (s.modEntry mic f).load = s.load := rfl
@[simp] theorem State.modEntry_holdUntil (mic : Nat) (f : Entry → Entry) : (s.modEntry mic f).holdUntil = s.holdUntil := rfl
@[simp] theorem State.modEntry_joining (mic : Nat) (f : Entry → Entry) : (s.modEntry mic f).joining = s.joining := rfl
@[simp] theorem State.modEntry_fault (mic : Nat) (f : Entry → Entry) : (s.modEntry mic f).fault = s.fault := rfl
@[simp] theorem State.modEntry_window (mic : Nat) (f : Entry → Entry) : (s.modEntry mic f).window = s.window := rfl
@[simp] theorem State.modEntry_attn (mic : Nat) (f : Entry → Entry) : (s.modEntry mic f).attn = s.attn := rfl
@[simp] theorem State.modEntry_counters (mic : Nat) (f : Entry → Entry) : (s.modEntry mic f).counters = s.counters := rfl
@[simp] theorem State.modEntry_strobe (mic : Nat) (f : Entry → Entry) : (s.modEntry mic f).strobe = s.strobe := rfl
@[simp] theorem State.modEntry_intake (mic : Nat) (f : Entry → Entry) : (s.modEntry mic f).intake = s.intake := rfl
@[simp] theorem State.modEntry_feed (mic : Nat) (f : Entry → Entry) : (s.modEntry mic f).feed = s.feed := rfl
@[simp] theorem State.modEntry_feedTimer (mic : Nat) (f : Entry → Entry) : (s.modEntry mic f).feedTimer = s.feedTimer := rfl
@[simp] theorem State.modEntry_inProcessing (mic : Nat) (f : Entry → Entry) : (s.modEntry mic f).inProcessing = s.inProcessing := rfl
@[simp] theorem State.modEntry_floorSet (mic : Nat) (f : Entry → Entry) : (s.modEntry mic f).floorSet = s.floorSet := rfl
@[simp] theorem State.modEntry_floor (mic : Nat) (f : Entry → Entry) : (s.modEntry mic f).floor = s.floor := rfl
@[simp] theorem State.modEntry_floorTimer (mic : Nat) (f : Entry → Entry) : (s.modEntry mic f).floorTimer = s.floorTimer := rfl
@[simp] theorem State.modEntry_lostCount (mic : Nat) (f : Entry → Entry) : (s.modEntry mic f).lostCount = s.lostCount := rfl
@[simp] theorem State.modEntry_zone (mic : Nat) (f : Entry → Entry) : (s.modEntry mic f).zone = s.zone := rfl
@[simp] theorem State.modEntry_zoneRepeat (mic : Nat) (f : Entry → Entry) : (s.modEntry mic f).zoneRepeat = s.zoneRepeat := rfl
@[simp] theorem State.modEntry_roster (mic : Nat) (f : Entry → Entry) : (s.modEntry mic f).roster = s.roster := rfl
@[simp] theorem State.modEntry_claimRound (mic : Nat) (f : Entry → Entry) : (s.modEntry mic f).claimRound = s.claimRound := rfl
@[simp] theorem State.modEntry_round (mic : Nat) (f : Entry → Entry) : (s.modEntry mic f).round = s.round := rfl
@[simp] theorem State.modEntry_access (mic : Nat) (f : Entry → Entry) : (s.modEntry mic f).access = s.access := rfl
@[simp] theorem State.modEntry_lastSender (mic : Nat) (f : Entry → Entry) : (s.modEntry mic f).lastSender = s.lastSender := rfl
@[simp] theorem State.modEntry_inFlight (mic : Nat) (f : Entry → Entry) : (s.modEntry mic f).inFlight = s.inFlight := rfl
@[simp] theorem State.modEntry_assembler (mic : Nat) (f : Entry → Entry) : (s.modEntry mic f).assembler = s.assembler := rfl
@[simp] theorem State.modEntry_rx (mic : Nat) (f : Entry → Entry) : (s.modEntry mic f).rx = s.rx := rfl
@[simp] theorem State.modEntry_inDispatch (mic : Nat) (f : Entry → Entry) : (s.modEntry mic f).inDispatch = s.inDispatch := rfl
@[simp] theorem State.modEntry_tx (mic : Nat) (f : Entry → Entry) : (s.modEntry mic f).tx = s.tx := rfl
@[simp] theorem State.modEntry_stationRepeat (mic : Nat) (f : Entry → Entry) : (s.modEntry mic f).stationRepeat = s.stationRepeat := rfl
@[simp] theorem State.modEntry_cueQueue (mic : Nat) (f : Entry → Entry) : (s.modEntry mic f).cueQueue = s.cueQueue := rfl
@[simp] theorem State.modEntry_cueTransfer (mic : Nat) (f : Entry → Entry) : (s.modEntry mic f).cueTransfer = s.cueTransfer := rfl
@[simp] theorem State.modEntry_lampBattery (mic : Nat) (f : Entry → Entry) : (s.modEntry mic f).lampBattery = s.lampBattery := rfl
@[simp] theorem State.modEntry_lampMute (mic : Nat) (f : Entry → Entry) : (s.modEntry mic f).lampMute = s.lampMute := rfl
@[simp] theorem State.modEntry_lampSignal (mic : Nat) (f : Entry → Entry) : (s.modEntry mic f).lampSignal = s.lampSignal := rfl
@[simp] theorem State.modEntry_lampStation (mic : Nat) (f : Entry → Entry) : (s.modEntry mic f).lampStation = s.lampStation := rfl

/-! ## modRecord -/

@[simp] theorem State.modRecord_now (mic : Nat) (k : Kind) (f : Record → Record) : (s.modRecord mic k f).now = s.now := rfl
@[simp] theorem State.modRecord_pending (mic : Nat) (k : Kind) (f : Record → Record) : (s.modRecord mic k f).pending = s.pending := rfl
@[simp] theorem State.modRecord_station (mic : Nat) (k : Kind) (f : Record → Record) : (s.modRecord mic k f).station = s.station := rfl
@[simp] theorem State.modRecord_number (mic : Nat) (k : Kind) (f : Record → Record) : (s.modRecord mic k f).number = s.number := rfl
@[simp] theorem State.modRecord_params (mic : Nat) (k : Kind) (f : Record → Record) : (s.modRecord mic k f).params = s.params := rfl
@[simp] theorem State.modRecord_source (mic : Nat) (k : Kind) (f : Record → Record) : (s.modRecord mic k f).source = s.source := rfl
@[simp] theorem State.modRecord_partialImage (mic : Nat) (k : Kind) (f : Record → Record) : (s.modRecord mic k f).partialImage = s.partialImage := rfl
@[simp] theorem State.modRecord_load (mic : Nat) (k : Kind) (f : Record → Record) : (s.modRecord mic k f).load = s.load := rfl
@[simp] theorem State.modRecord_holdUntil (mic : Nat) (k : Kind) (f : Record → Record) : (s.modRecord mic k f).holdUntil = s.holdUntil := rfl
@[simp] theorem State.modRecord_joining (mic : Nat) (k : Kind) (f : Record → Record) : (s.modRecord mic k f).joining = s.joining := rfl
@[simp] theorem State.modRecord_fault (mic : Nat) (k : Kind) (f : Record → Record) : (s.modRecord mic k f).fault = s.fault := rfl
@[simp] theorem State.modRecord_window (mic : Nat) (k : Kind) (f : Record → Record) : (s.modRecord mic k f).window = s.window := rfl
@[simp] theorem State.modRecord_attn (mic : Nat) (k : Kind) (f : Record → Record) : (s.modRecord mic k f).attn = s.attn := rfl
@[simp] theorem State.modRecord_counters (mic : Nat) (k : Kind) (f : Record → Record) : (s.modRecord mic k f).counters = s.counters := rfl
@[simp] theorem State.modRecord_strobe (mic : Nat) (k : Kind) (f : Record → Record) : (s.modRecord mic k f).strobe = s.strobe := rfl
@[simp] theorem State.modRecord_intake (mic : Nat) (k : Kind) (f : Record → Record) : (s.modRecord mic k f).intake = s.intake := rfl
@[simp] theorem State.modRecord_feed (mic : Nat) (k : Kind) (f : Record → Record) : (s.modRecord mic k f).feed = s.feed := rfl
@[simp] theorem State.modRecord_feedTimer (mic : Nat) (k : Kind) (f : Record → Record) : (s.modRecord mic k f).feedTimer = s.feedTimer := rfl
@[simp] theorem State.modRecord_inProcessing (mic : Nat) (k : Kind) (f : Record → Record) : (s.modRecord mic k f).inProcessing = s.inProcessing := rfl
@[simp] theorem State.modRecord_floorSet (mic : Nat) (k : Kind) (f : Record → Record) : (s.modRecord mic k f).floorSet = s.floorSet := rfl
@[simp] theorem State.modRecord_floor (mic : Nat) (k : Kind) (f : Record → Record) : (s.modRecord mic k f).floor = s.floor := rfl
@[simp] theorem State.modRecord_floorTimer (mic : Nat) (k : Kind) (f : Record → Record) : (s.modRecord mic k f).floorTimer = s.floorTimer := rfl
@[simp] theorem State.modRecord_lostCount (mic : Nat) (k : Kind) (f : Record → Record) : (s.modRecord mic k f).lostCount = s.lostCount := rfl
@[simp] theorem State.modRecord_zone (mic : Nat) (k : Kind) (f : Record → Record) : (s.modRecord mic k f).zone = s.zone := rfl
@[simp] theorem State.modRecord_zoneRepeat (mic : Nat) (k : Kind) (f : Record → Record) : (s.modRecord mic k f).zoneRepeat = s.zoneRepeat := rfl
@[simp] theorem State.modRecord_roster (mic : Nat) (k : Kind) (f : Record → Record) : (s.modRecord mic k f).roster = s.roster := rfl
@[simp] theorem State.modRecord_claimRound (mic : Nat) (k : Kind) (f : Record → Record) : (s.modRecord mic k f).claimRound = s.claimRound := rfl
@[simp] theorem State.modRecord_round (mic : Nat) (k : Kind) (f : Record → Record) : (s.modRecord mic k f).round = s.round := rfl
@[simp] theorem State.modRecord_access (mic : Nat) (k : Kind) (f : Record → Record) : (s.modRecord mic k f).access = s.access := rfl
@[simp] theorem State.modRecord_lastSender (mic : Nat) (k : Kind) (f : Record → Record) : (s.modRecord mic k f).lastSender = s.lastSender := rfl
@[simp] theorem State.modRecord_inFlight (mic : Nat) (k : Kind) (f : Record → Record) : (s.modRecord mic k f).inFlight = s.inFlight := rfl
@[simp] theorem State.modRecord_assembler (mic : Nat) (k : Kind) (f : Record → Record) : (s.modRecord mic k f).assembler = s.assembler := rfl
@[simp] theorem State.modRecord_rx (mic : Nat) (k : Kind) (f : Record → Record) : (s.modRecord mic k f).rx = s.rx := rfl
@[simp] theorem State.modRecord_inDispatch (mic : Nat) (k : Kind) (f : Record → Record) : (s.modRecord mic k f).inDispatch = s.inDispatch := rfl
@[simp] theorem State.modRecord_tx (mic : Nat) (k : Kind) (f : Record → Record) : (s.modRecord mic k f).tx = s.tx := rfl
@[simp] theorem State.modRecord_stationRepeat (mic : Nat) (k : Kind) (f : Record → Record) : (s.modRecord mic k f).stationRepeat = s.stationRepeat := rfl
@[simp] theorem State.modRecord_cueQueue (mic : Nat) (k : Kind) (f : Record → Record) : (s.modRecord mic k f).cueQueue = s.cueQueue := rfl
@[simp] theorem State.modRecord_cueTransfer (mic : Nat) (k : Kind) (f : Record → Record) : (s.modRecord mic k f).cueTransfer = s.cueTransfer := rfl
@[simp] theorem State.modRecord_lampBattery (mic : Nat) (k : Kind) (f : Record → Record) : (s.modRecord mic k f).lampBattery = s.lampBattery := rfl
@[simp] theorem State.modRecord_lampMute (mic : Nat) (k : Kind) (f : Record → Record) : (s.modRecord mic k f).lampMute = s.lampMute := rfl
@[simp] theorem State.modRecord_lampSignal (mic : Nat) (k : Kind) (f : Record → Record) : (s.modRecord mic k f).lampSignal = s.lampSignal := rfl
@[simp] theorem State.modRecord_lampStation (mic : Nat) (k : Kind) (f : Record → Record) : (s.modRecord mic k f).lampStation = s.lampStation := rfl

/-! ## dropEntry -/

@[simp] theorem State.dropEntry_now (mic : Nat) : (s.dropEntry mic).now = s.now := rfl
@[simp] theorem State.dropEntry_pending (mic : Nat) : (s.dropEntry mic).pending = s.pending := rfl
@[simp] theorem State.dropEntry_station (mic : Nat) : (s.dropEntry mic).station = s.station := rfl
@[simp] theorem State.dropEntry_number (mic : Nat) : (s.dropEntry mic).number = s.number := rfl
@[simp] theorem State.dropEntry_params (mic : Nat) : (s.dropEntry mic).params = s.params := rfl
@[simp] theorem State.dropEntry_source (mic : Nat) : (s.dropEntry mic).source = s.source := rfl
@[simp] theorem State.dropEntry_partialImage (mic : Nat) : (s.dropEntry mic).partialImage = s.partialImage := rfl
@[simp] theorem State.dropEntry_load (mic : Nat) : (s.dropEntry mic).load = s.load := rfl
@[simp] theorem State.dropEntry_holdUntil (mic : Nat) : (s.dropEntry mic).holdUntil = s.holdUntil := rfl
@[simp] theorem State.dropEntry_joining (mic : Nat) : (s.dropEntry mic).joining = s.joining := rfl
@[simp] theorem State.dropEntry_fault (mic : Nat) : (s.dropEntry mic).fault = s.fault := rfl
@[simp] theorem State.dropEntry_window (mic : Nat) : (s.dropEntry mic).window = s.window := rfl
@[simp] theorem State.dropEntry_attn (mic : Nat) : (s.dropEntry mic).attn = s.attn := rfl
@[simp] theorem State.dropEntry_counters (mic : Nat) : (s.dropEntry mic).counters = s.counters := rfl
@[simp] theorem State.dropEntry_strobe (mic : Nat) : (s.dropEntry mic).strobe = s.strobe := rfl
@[simp] theorem State.dropEntry_intake (mic : Nat) : (s.dropEntry mic).intake = s.intake := rfl
@[simp] theorem State.dropEntry_feed (mic : Nat) : (s.dropEntry mic).feed = s.feed := rfl
@[simp] theorem State.dropEntry_feedTimer (mic : Nat) : (s.dropEntry mic).feedTimer = s.feedTimer := rfl
@[simp] theorem State.dropEntry_inProcessing (mic : Nat) : (s.dropEntry mic).inProcessing = s.inProcessing := rfl
@[simp] theorem State.dropEntry_floorSet (mic : Nat) : (s.dropEntry mic).floorSet = s.floorSet := rfl
@[simp] theorem State.dropEntry_floor (mic : Nat) : (s.dropEntry mic).floor = s.floor := rfl
@[simp] theorem State.dropEntry_floorTimer (mic : Nat) : (s.dropEntry mic).floorTimer = s.floorTimer := rfl
@[simp] theorem State.dropEntry_lostCount (mic : Nat) : (s.dropEntry mic).lostCount = s.lostCount := rfl
@[simp] theorem State.dropEntry_zone (mic : Nat) : (s.dropEntry mic).zone = s.zone := rfl
@[simp] theorem State.dropEntry_zoneRepeat (mic : Nat) : (s.dropEntry mic).zoneRepeat = s.zoneRepeat := rfl
@[simp] theorem State.dropEntry_roster (mic : Nat) : (s.dropEntry mic).roster = s.roster := rfl
@[simp] theorem State.dropEntry_claimRound (mic : Nat) : (s.dropEntry mic).claimRound = s.claimRound := rfl
@[simp] theorem State.dropEntry_round (mic : Nat) : (s.dropEntry mic).round = s.round := rfl
@[simp] theorem State.dropEntry_access (mic : Nat) : (s.dropEntry mic).access = s.access := rfl
@[simp] theorem State.dropEntry_lastSender (mic : Nat) : (s.dropEntry mic).lastSender = s.lastSender := rfl
@[simp] theorem State.dropEntry_inFlight (mic : Nat) : (s.dropEntry mic).inFlight = s.inFlight := rfl
@[simp] theorem State.dropEntry_assembler (mic : Nat) : (s.dropEntry mic).assembler = s.assembler := rfl
@[simp] theorem State.dropEntry_rx (mic : Nat) : (s.dropEntry mic).rx = s.rx := rfl
@[simp] theorem State.dropEntry_inDispatch (mic : Nat) : (s.dropEntry mic).inDispatch = s.inDispatch := rfl
@[simp] theorem State.dropEntry_tx (mic : Nat) : (s.dropEntry mic).tx = s.tx := rfl
@[simp] theorem State.dropEntry_stationRepeat (mic : Nat) : (s.dropEntry mic).stationRepeat = s.stationRepeat := rfl
@[simp] theorem State.dropEntry_cueQueue (mic : Nat) : (s.dropEntry mic).cueQueue = s.cueQueue := rfl
@[simp] theorem State.dropEntry_cueTransfer (mic : Nat) : (s.dropEntry mic).cueTransfer = s.cueTransfer := rfl
@[simp] theorem State.dropEntry_lampBattery (mic : Nat) : (s.dropEntry mic).lampBattery = s.lampBattery := rfl
@[simp] theorem State.dropEntry_lampMute (mic : Nat) : (s.dropEntry mic).lampMute = s.lampMute := rfl
@[simp] theorem State.dropEntry_lampSignal (mic : Nat) : (s.dropEntry mic).lampSignal = s.lampSignal := rfl
@[simp] theorem State.dropEntry_lampStation (mic : Nat) : (s.dropEntry mic).lampStation = s.lampStation := rfl

/-! ## forgetChamber -/

@[simp] theorem State.forgetChamber_now (mic : Nat) (k : Kind) : (s.forgetChamber mic k).now = s.now := rfl
@[simp] theorem State.forgetChamber_pending (mic : Nat) (k : Kind) : (s.forgetChamber mic k).pending = s.pending := rfl
@[simp] theorem State.forgetChamber_station (mic : Nat) (k : Kind) : (s.forgetChamber mic k).station = s.station := rfl
@[simp] theorem State.forgetChamber_number (mic : Nat) (k : Kind) : (s.forgetChamber mic k).number = s.number := rfl
@[simp] theorem State.forgetChamber_params (mic : Nat) (k : Kind) : (s.forgetChamber mic k).params = s.params := rfl
@[simp] theorem State.forgetChamber_source (mic : Nat) (k : Kind) : (s.forgetChamber mic k).source = s.source := rfl
@[simp] theorem State.forgetChamber_partialImage (mic : Nat) (k : Kind) : (s.forgetChamber mic k).partialImage = s.partialImage := rfl
@[simp] theorem State.forgetChamber_load (mic : Nat) (k : Kind) : (s.forgetChamber mic k).load = s.load := rfl
@[simp] theorem State.forgetChamber_holdUntil (mic : Nat) (k : Kind) : (s.forgetChamber mic k).holdUntil = s.holdUntil := rfl
@[simp] theorem State.forgetChamber_joining (mic : Nat) (k : Kind) : (s.forgetChamber mic k).joining = s.joining := rfl
@[simp] theorem State.forgetChamber_fault (mic : Nat) (k : Kind) : (s.forgetChamber mic k).fault = s.fault := rfl
@[simp] theorem State.forgetChamber_window (mic : Nat) (k : Kind) : (s.forgetChamber mic k).window = s.window := rfl
@[simp] theorem State.forgetChamber_attn (mic : Nat) (k : Kind) : (s.forgetChamber mic k).attn = s.attn := rfl
@[simp] theorem State.forgetChamber_counters (mic : Nat) (k : Kind) : (s.forgetChamber mic k).counters = s.counters := rfl
@[simp] theorem State.forgetChamber_strobe (mic : Nat) (k : Kind) : (s.forgetChamber mic k).strobe = s.strobe := rfl
@[simp] theorem State.forgetChamber_intake (mic : Nat) (k : Kind) : (s.forgetChamber mic k).intake = s.intake := rfl
@[simp] theorem State.forgetChamber_feed (mic : Nat) (k : Kind) : (s.forgetChamber mic k).feed = s.feed := rfl
@[simp] theorem State.forgetChamber_feedTimer (mic : Nat) (k : Kind) : (s.forgetChamber mic k).feedTimer = s.feedTimer := rfl
@[simp] theorem State.forgetChamber_inProcessing (mic : Nat) (k : Kind) : (s.forgetChamber mic k).inProcessing = s.inProcessing := rfl
@[simp] theorem State.forgetChamber_floorSet (mic : Nat) (k : Kind) : (s.forgetChamber mic k).floorSet = s.floorSet := rfl
@[simp] theorem State.forgetChamber_floor (mic : Nat) (k : Kind) : (s.forgetChamber mic k).floor = s.floor := rfl
@[simp] theorem State.forgetChamber_floorTimer (mic : Nat) (k : Kind) : (s.forgetChamber mic k).floorTimer = s.floorTimer := rfl
@[simp] theorem State.forgetChamber_lostCount (mic : Nat) (k : Kind) : (s.forgetChamber mic k).lostCount = s.lostCount := rfl
@[simp] theorem State.forgetChamber_zone (mic : Nat) (k : Kind) : (s.forgetChamber mic k).zone = s.zone := rfl
@[simp] theorem State.forgetChamber_zoneRepeat (mic : Nat) (k : Kind) : (s.forgetChamber mic k).zoneRepeat = s.zoneRepeat := rfl
@[simp] theorem State.forgetChamber_roster (mic : Nat) (k : Kind) : (s.forgetChamber mic k).roster = s.roster := rfl
@[simp] theorem State.forgetChamber_claimRound (mic : Nat) (k : Kind) : (s.forgetChamber mic k).claimRound = s.claimRound := rfl
@[simp] theorem State.forgetChamber_round (mic : Nat) (k : Kind) : (s.forgetChamber mic k).round = s.round := rfl
@[simp] theorem State.forgetChamber_access (mic : Nat) (k : Kind) : (s.forgetChamber mic k).access = s.access := rfl
@[simp] theorem State.forgetChamber_lastSender (mic : Nat) (k : Kind) : (s.forgetChamber mic k).lastSender = s.lastSender := rfl
@[simp] theorem State.forgetChamber_inFlight (mic : Nat) (k : Kind) : (s.forgetChamber mic k).inFlight = s.inFlight := rfl
@[simp] theorem State.forgetChamber_assembler (mic : Nat) (k : Kind) : (s.forgetChamber mic k).assembler = s.assembler := rfl
@[simp] theorem State.forgetChamber_rx (mic : Nat) (k : Kind) : (s.forgetChamber mic k).rx = s.rx := rfl
@[simp] theorem State.forgetChamber_inDispatch (mic : Nat) (k : Kind) : (s.forgetChamber mic k).inDispatch = s.inDispatch := rfl
@[simp] theorem State.forgetChamber_tx (mic : Nat) (k : Kind) : (s.forgetChamber mic k).tx = s.tx := rfl
@[simp] theorem State.forgetChamber_stationRepeat (mic : Nat) (k : Kind) : (s.forgetChamber mic k).stationRepeat = s.stationRepeat := rfl
@[simp] theorem State.forgetChamber_cueQueue (mic : Nat) (k : Kind) : (s.forgetChamber mic k).cueQueue = s.cueQueue := rfl
@[simp] theorem State.forgetChamber_cueTransfer (mic : Nat) (k : Kind) : (s.forgetChamber mic k).cueTransfer = s.cueTransfer := rfl
@[simp] theorem State.forgetChamber_lampBattery (mic : Nat) (k : Kind) : (s.forgetChamber mic k).lampBattery = s.lampBattery := rfl
@[simp] theorem State.forgetChamber_lampMute (mic : Nat) (k : Kind) : (s.forgetChamber mic k).lampMute = s.lampMute := rfl
@[simp] theorem State.forgetChamber_lampSignal (mic : Nat) (k : Kind) : (s.forgetChamber mic k).lampSignal = s.lampSignal := rfl
@[simp] theorem State.forgetChamber_lampStation (mic : Nat) (k : Kind) : (s.forgetChamber mic k).lampStation = s.lampStation := rfl

/-! ## removeWhere -/

@[simp] theorem State.removeWhere_now (drop : Frame → Bool) : (s.removeWhere drop).now = s.now := rfl
@[simp] theorem State.removeWhere_pending (drop : Frame → Bool) : (s.removeWhere drop).pending = s.pending := rfl
@[simp] theorem State.removeWhere_station (drop : Frame → Bool) : (s.removeWhere drop).station = s.station := rfl
@[simp] theorem State.removeWhere_number (drop : Frame → Bool) : (s.removeWhere drop).number = s.number := rfl
@[simp] theorem State.removeWhere_params (drop : Frame → Bool) : (s.removeWhere drop).params = s.params := rfl
@[simp] theorem State.removeWhere_source (drop : Frame → Bool) : (s.removeWhere drop).source = s.source := rfl
@[simp] theorem State.removeWhere_partialImage (drop : Frame → Bool) : (s.removeWhere drop).partialImage = s.partialImage := rfl
@[simp] theorem State.removeWhere_load (drop : Frame → Bool) : (s.removeWhere drop).load = s.load := rfl
@[simp] theorem State.removeWhere_holdUntil (drop : Frame → Bool) : (s.removeWhere drop).holdUntil = s.holdUntil := rfl
@[simp] theorem State.removeWhere_joining (drop : Frame → Bool) : (s.removeWhere drop).joining = s.joining := rfl
@[simp] theorem State.removeWhere_fault (drop : Frame → Bool) : (s.removeWhere drop).fault = s.fault := rfl
@[simp] theorem State.removeWhere_window (drop : Frame → Bool) : (s.removeWhere drop).window = s.window := rfl
@[simp] theorem State.removeWhere_attn (drop : Frame → Bool) : (s.removeWhere drop).attn = s.attn := rfl
@[simp] theorem State.removeWhere_counters (drop : Frame → Bool) : (s.removeWhere drop).counters = s.counters := rfl
@[simp] theorem State.removeWhere_strobe (drop : Frame → Bool) : (s.removeWhere drop).strobe = s.strobe := rfl
@[simp] theorem State.removeWhere_intake (drop : Frame → Bool) : (s.removeWhere drop).intake = s.intake := rfl
@[simp] theorem State.removeWhere_feed (drop : Frame → Bool) : (s.removeWhere drop).feed = s.feed := rfl
@[simp] theorem State.removeWhere_feedTimer (drop : Frame → Bool) : (s.removeWhere drop).feedTimer = s.feedTimer := rfl
@[simp] theorem State.removeWhere_inProcessing (drop : Frame → Bool) : (s.removeWhere drop).inProcessing = s.inProcessing := rfl
@[simp] theorem State.removeWhere_table (drop : Frame → Bool) : (s.removeWhere drop).table = s.table := rfl
@[simp] theorem State.removeWhere_floorSet (drop : Frame → Bool) : (s.removeWhere drop).floorSet = s.floorSet := rfl
@[simp] theorem State.removeWhere_floor (drop : Frame → Bool) : (s.removeWhere drop).floor = s.floor := rfl
@[simp] theorem State.removeWhere_floorTimer (drop : Frame → Bool) : (s.removeWhere drop).floorTimer = s.floorTimer := rfl
@[simp] theorem State.removeWhere_lostCount (drop : Frame → Bool) : (s.removeWhere drop).lostCount = s.lostCount := rfl
@[simp] theorem State.removeWhere_zone (drop : Frame → Bool) : (s.removeWhere drop).zone = s.zone := rfl
@[simp] theorem State.removeWhere_zoneRepeat (drop : Frame → Bool) : (s.removeWhere drop).zoneRepeat = s.zoneRepeat := rfl
@[simp] theorem State.removeWhere_roster (drop : Frame → Bool) : (s.removeWhere drop).roster = s.roster := rfl
@[simp] theorem State.removeWhere_claimRound (drop : Frame → Bool) : (s.removeWhere drop).claimRound = s.claimRound := rfl
@[simp] theorem State.removeWhere_round (drop : Frame → Bool) : (s.removeWhere drop).round = s.round := rfl
@[simp] theorem State.removeWhere_access (drop : Frame → Bool) : (s.removeWhere drop).access = s.access := rfl
@[simp] theorem State.removeWhere_lastSender (drop : Frame → Bool) : (s.removeWhere drop).lastSender = s.lastSender := rfl
@[simp] theorem State.removeWhere_inFlight (drop : Frame → Bool) : (s.removeWhere drop).inFlight = s.inFlight := rfl
@[simp] theorem State.removeWhere_assembler (drop : Frame → Bool) : (s.removeWhere drop).assembler = s.assembler := rfl
@[simp] theorem State.removeWhere_rx (drop : Frame → Bool) : (s.removeWhere drop).rx = s.rx := rfl
@[simp] theorem State.removeWhere_inDispatch (drop : Frame → Bool) : (s.removeWhere drop).inDispatch = s.inDispatch := rfl
@[simp] theorem State.removeWhere_stationRepeat (drop : Frame → Bool) : (s.removeWhere drop).stationRepeat = s.stationRepeat := rfl
@[simp] theorem State.removeWhere_cueQueue (drop : Frame → Bool) : (s.removeWhere drop).cueQueue = s.cueQueue := rfl
@[simp] theorem State.removeWhere_cueTransfer (drop : Frame → Bool) : (s.removeWhere drop).cueTransfer = s.cueTransfer := rfl
@[simp] theorem State.removeWhere_lampBattery (drop : Frame → Bool) : (s.removeWhere drop).lampBattery = s.lampBattery := rfl
@[simp] theorem State.removeWhere_lampMute (drop : Frame → Bool) : (s.removeWhere drop).lampMute = s.lampMute := rfl
@[simp] theorem State.removeWhere_lampSignal (drop : Frame → Bool) : (s.removeWhere drop).lampSignal = s.lampSignal := rfl
@[simp] theorem State.removeWhere_lampStation (drop : Frame → Bool) : (s.removeWhere drop).lampStation = s.lampStation := rfl

/-! ## ackQueued -/

@[simp] theorem State.ackQueued_now (mic : Nat) (k : Kind) (l : Level) : (s.ackQueued mic k l).now = s.now := rfl
@[simp] theorem State.ackQueued_pending (mic : Nat) (k : Kind) (l : Level) : (s.ackQueued mic k l).pending = s.pending := rfl
@[simp] theorem State.ackQueued_station (mic : Nat) (k : Kind) (l : Level) : (s.ackQueued mic k l).station = s.station := rfl
@[simp] theorem State.ackQueued_number (mic : Nat) (k : Kind) (l : Level) : (s.ackQueued mic k l).number = s.number := rfl
@[simp] theorem State.ackQueued_params (mic : Nat) (k : Kind) (l : Level) : (s.ackQueued mic k l).params = s.params := rfl
@[simp] theorem State.ackQueued_source (mic : Nat) (k : Kind) (l : Level) : (s.ackQueued mic k l).source = s.source := rfl
@[simp] theorem State.ackQueued_partialImage (mic : Nat) (k : Kind) (l : Level) : (s.ackQueued mic k l).partialImage = s.partialImage := rfl
@[simp] theorem State.ackQueued_load (mic : Nat) (k : Kind) (l : Level) : (s.ackQueued mic k l).load = s.load := rfl
@[simp] theorem State.ackQueued_holdUntil (mic : Nat) (k : Kind) (l : Level) : (s.ackQueued mic k l).holdUntil = s.holdUntil := rfl
@[simp] theorem State.ackQueued_joining (mic : Nat) (k : Kind) (l : Level) : (s.ackQueued mic k l).joining = s.joining := rfl
@[simp] theorem State.ackQueued_fault (mic : Nat) (k : Kind) (l : Level) : (s.ackQueued mic k l).fault = s.fault := rfl
@[simp] theorem State.ackQueued_window (mic : Nat) (k : Kind) (l : Level) : (s.ackQueued mic k l).window = s.window := rfl
@[simp] theorem State.ackQueued_attn (mic : Nat) (k : Kind) (l : Level) : (s.ackQueued mic k l).attn = s.attn := rfl
@[simp] theorem State.ackQueued_counters (mic : Nat) (k : Kind) (l : Level) : (s.ackQueued mic k l).counters = s.counters := rfl
@[simp] theorem State.ackQueued_strobe (mic : Nat) (k : Kind) (l : Level) : (s.ackQueued mic k l).strobe = s.strobe := rfl
@[simp] theorem State.ackQueued_intake (mic : Nat) (k : Kind) (l : Level) : (s.ackQueued mic k l).intake = s.intake := rfl
@[simp] theorem State.ackQueued_feed (mic : Nat) (k : Kind) (l : Level) : (s.ackQueued mic k l).feed = s.feed := rfl
@[simp] theorem State.ackQueued_feedTimer (mic : Nat) (k : Kind) (l : Level) : (s.ackQueued mic k l).feedTimer = s.feedTimer := rfl
@[simp] theorem State.ackQueued_inProcessing (mic : Nat) (k : Kind) (l : Level) : (s.ackQueued mic k l).inProcessing = s.inProcessing := rfl
@[simp] theorem State.ackQueued_table (mic : Nat) (k : Kind) (l : Level) : (s.ackQueued mic k l).table = s.table := rfl
@[simp] theorem State.ackQueued_floorSet (mic : Nat) (k : Kind) (l : Level) : (s.ackQueued mic k l).floorSet = s.floorSet := rfl
@[simp] theorem State.ackQueued_floor (mic : Nat) (k : Kind) (l : Level) : (s.ackQueued mic k l).floor = s.floor := rfl
@[simp] theorem State.ackQueued_floorTimer (mic : Nat) (k : Kind) (l : Level) : (s.ackQueued mic k l).floorTimer = s.floorTimer := rfl
@[simp] theorem State.ackQueued_lostCount (mic : Nat) (k : Kind) (l : Level) : (s.ackQueued mic k l).lostCount = s.lostCount := rfl
@[simp] theorem State.ackQueued_zone (mic : Nat) (k : Kind) (l : Level) : (s.ackQueued mic k l).zone = s.zone := rfl
@[simp] theorem State.ackQueued_zoneRepeat (mic : Nat) (k : Kind) (l : Level) : (s.ackQueued mic k l).zoneRepeat = s.zoneRepeat := rfl
@[simp] theorem State.ackQueued_roster (mic : Nat) (k : Kind) (l : Level) : (s.ackQueued mic k l).roster = s.roster := rfl
@[simp] theorem State.ackQueued_claimRound (mic : Nat) (k : Kind) (l : Level) : (s.ackQueued mic k l).claimRound = s.claimRound := rfl
@[simp] theorem State.ackQueued_round (mic : Nat) (k : Kind) (l : Level) : (s.ackQueued mic k l).round = s.round := rfl
@[simp] theorem State.ackQueued_access (mic : Nat) (k : Kind) (l : Level) : (s.ackQueued mic k l).access = s.access := rfl
@[simp] theorem State.ackQueued_lastSender (mic : Nat) (k : Kind) (l : Level) : (s.ackQueued mic k l).lastSender = s.lastSender := rfl
@[simp] theorem State.ackQueued_inFlight (mic : Nat) (k : Kind) (l : Level) : (s.ackQueued mic k l).inFlight = s.inFlight := rfl
@[simp] theorem State.ackQueued_assembler (mic : Nat) (k : Kind) (l : Level) : (s.ackQueued mic k l).assembler = s.assembler := rfl
@[simp] theorem State.ackQueued_rx (mic : Nat) (k : Kind) (l : Level) : (s.ackQueued mic k l).rx = s.rx := rfl
@[simp] theorem State.ackQueued_inDispatch (mic : Nat) (k : Kind) (l : Level) : (s.ackQueued mic k l).inDispatch = s.inDispatch := rfl
@[simp] theorem State.ackQueued_stationRepeat (mic : Nat) (k : Kind) (l : Level) : (s.ackQueued mic k l).stationRepeat = s.stationRepeat := rfl
@[simp] theorem State.ackQueued_cueQueue (mic : Nat) (k : Kind) (l : Level) : (s.ackQueued mic k l).cueQueue = s.cueQueue := rfl
@[simp] theorem State.ackQueued_cueTransfer (mic : Nat) (k : Kind) (l : Level) : (s.ackQueued mic k l).cueTransfer = s.cueTransfer := rfl
@[simp] theorem State.ackQueued_lampBattery (mic : Nat) (k : Kind) (l : Level) : (s.ackQueued mic k l).lampBattery = s.lampBattery := rfl
@[simp] theorem State.ackQueued_lampMute (mic : Nat) (k : Kind) (l : Level) : (s.ackQueued mic k l).lampMute = s.lampMute := rfl
@[simp] theorem State.ackQueued_lampSignal (mic : Nat) (k : Kind) (l : Level) : (s.ackQueued mic k l).lampSignal = s.lampSignal := rfl
@[simp] theorem State.ackQueued_lampStation (mic : Nat) (k : Kind) (l : Level) : (s.ackQueued mic k l).lampStation = s.lampStation := rfl

/-! ## placeHead -/

@[simp] theorem State.placeHead_now (t : TxFrame) : (s.placeHead t).now = s.now := rfl
@[simp] theorem State.placeHead_pending (t : TxFrame) : (s.placeHead t).pending = s.pending := rfl
@[simp] theorem State.placeHead_station (t : TxFrame) : (s.placeHead t).station = s.station := rfl
@[simp] theorem State.placeHead_number (t : TxFrame) : (s.placeHead t).number = s.number := rfl
@[simp] theorem State.placeHead_params (t : TxFrame) : (s.placeHead t).params = s.params := rfl
@[simp] theorem State.placeHead_source (t : TxFrame) : (s.placeHead t).source = s.source := rfl
@[simp] theorem State.placeHead_partialImage (t : TxFrame) : (s.placeHead t).partialImage = s.partialImage := rfl
@[simp] theorem State.placeHead_load (t : TxFrame) : (s.placeHead t).load = s.load := rfl
@[simp] theorem State.placeHead_holdUntil (t : TxFrame) : (s.placeHead t).holdUntil = s.holdUntil := rfl
@[simp] theorem State.placeHead_joining (t : TxFrame) : (s.placeHead t).joining = s.joining := rfl
@[simp] theorem State.placeHead_fault (t : TxFrame) : (s.placeHead t).fault = s.fault := rfl
@[simp] theorem State.placeHead_window (t : TxFrame) : (s.placeHead t).window = s.window := rfl
@[simp] theorem State.placeHead_attn (t : TxFrame) : (s.placeHead t).attn = s.attn := rfl
@[simp] theorem State.placeHead_counters (t : TxFrame) : (s.placeHead t).counters = s.counters := rfl
@[simp] theorem State.placeHead_strobe (t : TxFrame) : (s.placeHead t).strobe = s.strobe := rfl
@[simp] theorem State.placeHead_intake (t : TxFrame) : (s.placeHead t).intake = s.intake := rfl
@[simp] theorem State.placeHead_feed (t : TxFrame) : (s.placeHead t).feed = s.feed := rfl
@[simp] theorem State.placeHead_feedTimer (t : TxFrame) : (s.placeHead t).feedTimer = s.feedTimer := rfl
@[simp] theorem State.placeHead_inProcessing (t : TxFrame) : (s.placeHead t).inProcessing = s.inProcessing := rfl
@[simp] theorem State.placeHead_table (t : TxFrame) : (s.placeHead t).table = s.table := rfl
@[simp] theorem State.placeHead_floorSet (t : TxFrame) : (s.placeHead t).floorSet = s.floorSet := rfl
@[simp] theorem State.placeHead_floor (t : TxFrame) : (s.placeHead t).floor = s.floor := rfl
@[simp] theorem State.placeHead_floorTimer (t : TxFrame) : (s.placeHead t).floorTimer = s.floorTimer := rfl
@[simp] theorem State.placeHead_lostCount (t : TxFrame) : (s.placeHead t).lostCount = s.lostCount := rfl
@[simp] theorem State.placeHead_zone (t : TxFrame) : (s.placeHead t).zone = s.zone := rfl
@[simp] theorem State.placeHead_zoneRepeat (t : TxFrame) : (s.placeHead t).zoneRepeat = s.zoneRepeat := rfl
@[simp] theorem State.placeHead_roster (t : TxFrame) : (s.placeHead t).roster = s.roster := rfl
@[simp] theorem State.placeHead_claimRound (t : TxFrame) : (s.placeHead t).claimRound = s.claimRound := rfl
@[simp] theorem State.placeHead_round (t : TxFrame) : (s.placeHead t).round = s.round := rfl
@[simp] theorem State.placeHead_access (t : TxFrame) : (s.placeHead t).access = s.access := rfl
@[simp] theorem State.placeHead_lastSender (t : TxFrame) : (s.placeHead t).lastSender = s.lastSender := rfl
@[simp] theorem State.placeHead_inFlight (t : TxFrame) : (s.placeHead t).inFlight = s.inFlight := rfl
@[simp] theorem State.placeHead_assembler (t : TxFrame) : (s.placeHead t).assembler = s.assembler := rfl
@[simp] theorem State.placeHead_rx (t : TxFrame) : (s.placeHead t).rx = s.rx := rfl
@[simp] theorem State.placeHead_inDispatch (t : TxFrame) : (s.placeHead t).inDispatch = s.inDispatch := rfl
@[simp] theorem State.placeHead_stationRepeat (t : TxFrame) : (s.placeHead t).stationRepeat = s.stationRepeat := rfl
@[simp] theorem State.placeHead_cueQueue (t : TxFrame) : (s.placeHead t).cueQueue = s.cueQueue := rfl
@[simp] theorem State.placeHead_cueTransfer (t : TxFrame) : (s.placeHead t).cueTransfer = s.cueTransfer := rfl
@[simp] theorem State.placeHead_lampBattery (t : TxFrame) : (s.placeHead t).lampBattery = s.lampBattery := rfl
@[simp] theorem State.placeHead_lampMute (t : TxFrame) : (s.placeHead t).lampMute = s.lampMute := rfl
@[simp] theorem State.placeHead_lampSignal (t : TxFrame) : (s.placeHead t).lampSignal = s.lampSignal := rfl
@[simp] theorem State.placeHead_lampStation (t : TxFrame) : (s.placeHead t).lampStation = s.lampStation := rfl

/-! ## evaluateAttn -/

@[simp] theorem State.evaluateAttn_now : (s.evaluateAttn).now = s.now := rfl
@[simp] theorem State.evaluateAttn_pending : (s.evaluateAttn).pending = s.pending := rfl
@[simp] theorem State.evaluateAttn_station : (s.evaluateAttn).station = s.station := rfl
@[simp] theorem State.evaluateAttn_number : (s.evaluateAttn).number = s.number := rfl
@[simp] theorem State.evaluateAttn_params : (s.evaluateAttn).params = s.params := rfl
@[simp] theorem State.evaluateAttn_source : (s.evaluateAttn).source = s.source := rfl
@[simp] theorem State.evaluateAttn_partialImage : (s.evaluateAttn).partialImage = s.partialImage := rfl
@[simp] theorem State.evaluateAttn_load : (s.evaluateAttn).load = s.load := rfl
@[simp] theorem State.evaluateAttn_holdUntil : (s.evaluateAttn).holdUntil = s.holdUntil := rfl
@[simp] theorem State.evaluateAttn_joining : (s.evaluateAttn).joining = s.joining := rfl
@[simp] theorem State.evaluateAttn_fault : (s.evaluateAttn).fault = s.fault := rfl
@[simp] theorem State.evaluateAttn_window : (s.evaluateAttn).window = s.window := rfl
@[simp] theorem State.evaluateAttn_counters : (s.evaluateAttn).counters = s.counters := rfl
@[simp] theorem State.evaluateAttn_strobe : (s.evaluateAttn).strobe = s.strobe := rfl
@[simp] theorem State.evaluateAttn_intake : (s.evaluateAttn).intake = s.intake := rfl
@[simp] theorem State.evaluateAttn_feed : (s.evaluateAttn).feed = s.feed := rfl
@[simp] theorem State.evaluateAttn_feedTimer : (s.evaluateAttn).feedTimer = s.feedTimer := rfl
@[simp] theorem State.evaluateAttn_inProcessing : (s.evaluateAttn).inProcessing = s.inProcessing := rfl
@[simp] theorem State.evaluateAttn_table : (s.evaluateAttn).table = s.table := rfl
@[simp] theorem State.evaluateAttn_floorSet : (s.evaluateAttn).floorSet = s.floorSet := rfl
@[simp] theorem State.evaluateAttn_floor : (s.evaluateAttn).floor = s.floor := rfl
@[simp] theorem State.evaluateAttn_floorTimer : (s.evaluateAttn).floorTimer = s.floorTimer := rfl
@[simp] theorem State.evaluateAttn_lostCount : (s.evaluateAttn).lostCount = s.lostCount := rfl
@[simp] theorem State.evaluateAttn_zone : (s.evaluateAttn).zone = s.zone := rfl
@[simp] theorem State.evaluateAttn_zoneRepeat : (s.evaluateAttn).zoneRepeat = s.zoneRepeat := rfl
@[simp] theorem State.evaluateAttn_roster : (s.evaluateAttn).roster = s.roster := rfl
@[simp] theorem State.evaluateAttn_claimRound : (s.evaluateAttn).claimRound = s.claimRound := rfl
@[simp] theorem State.evaluateAttn_round : (s.evaluateAttn).round = s.round := rfl
@[simp] theorem State.evaluateAttn_access : (s.evaluateAttn).access = s.access := rfl
@[simp] theorem State.evaluateAttn_lastSender : (s.evaluateAttn).lastSender = s.lastSender := rfl
@[simp] theorem State.evaluateAttn_inFlight : (s.evaluateAttn).inFlight = s.inFlight := rfl
@[simp] theorem State.evaluateAttn_assembler : (s.evaluateAttn).assembler = s.assembler := rfl
@[simp] theorem State.evaluateAttn_rx : (s.evaluateAttn).rx = s.rx := rfl
@[simp] theorem State.evaluateAttn_inDispatch : (s.evaluateAttn).inDispatch = s.inDispatch := rfl
@[simp] theorem State.evaluateAttn_tx : (s.evaluateAttn).tx = s.tx := rfl
@[simp] theorem State.evaluateAttn_stationRepeat : (s.evaluateAttn).stationRepeat = s.stationRepeat := rfl
@[simp] theorem State.evaluateAttn_cueQueue : (s.evaluateAttn).cueQueue = s.cueQueue := rfl
@[simp] theorem State.evaluateAttn_cueTransfer : (s.evaluateAttn).cueTransfer = s.cueTransfer := rfl
@[simp] theorem State.evaluateAttn_lampBattery : (s.evaluateAttn).lampBattery = s.lampBattery := rfl
@[simp] theorem State.evaluateAttn_lampMute : (s.evaluateAttn).lampMute = s.lampMute := rfl
@[simp] theorem State.evaluateAttn_lampSignal : (s.evaluateAttn).lampSignal = s.lampSignal := rfl
@[simp] theorem State.evaluateAttn_lampStation : (s.evaluateAttn).lampStation = s.lampStation := rfl

/-! ## setGen -/

@[simp] theorem State.setGen_now (l : Lamp) (g : Generator) : (s.setGen l g).now = s.now := by cases l <;> rfl
@[simp] theorem State.setGen_pending (l : Lamp) (g : Generator) : (s.setGen l g).pending = s.pending := by cases l <;> rfl
@[simp] theorem State.setGen_station (l : Lamp) (g : Generator) : (s.setGen l g).station = s.station := by cases l <;> rfl
@[simp] theorem State.setGen_number (l : Lamp) (g : Generator) : (s.setGen l g).number = s.number := by cases l <;> rfl
@[simp] theorem State.setGen_params (l : Lamp) (g : Generator) : (s.setGen l g).params = s.params := by cases l <;> rfl
@[simp] theorem State.setGen_source (l : Lamp) (g : Generator) : (s.setGen l g).source = s.source := by cases l <;> rfl
@[simp] theorem State.setGen_partialImage (l : Lamp) (g : Generator) : (s.setGen l g).partialImage = s.partialImage := by cases l <;> rfl
@[simp] theorem State.setGen_load (l : Lamp) (g : Generator) : (s.setGen l g).load = s.load := by cases l <;> rfl
@[simp] theorem State.setGen_holdUntil (l : Lamp) (g : Generator) : (s.setGen l g).holdUntil = s.holdUntil := by cases l <;> rfl
@[simp] theorem State.setGen_joining (l : Lamp) (g : Generator) : (s.setGen l g).joining = s.joining := by cases l <;> rfl
@[simp] theorem State.setGen_fault (l : Lamp) (g : Generator) : (s.setGen l g).fault = s.fault := by cases l <;> rfl
@[simp] theorem State.setGen_window (l : Lamp) (g : Generator) : (s.setGen l g).window = s.window := by cases l <;> rfl
@[simp] theorem State.setGen_attn (l : Lamp) (g : Generator) : (s.setGen l g).attn = s.attn := by cases l <;> rfl
@[simp] theorem State.setGen_counters (l : Lamp) (g : Generator) : (s.setGen l g).counters = s.counters := by cases l <;> rfl
@[simp] theorem State.setGen_strobe (l : Lamp) (g : Generator) : (s.setGen l g).strobe = s.strobe := by cases l <;> rfl
@[simp] theorem State.setGen_intake (l : Lamp) (g : Generator) : (s.setGen l g).intake = s.intake := by cases l <;> rfl
@[simp] theorem State.setGen_feed (l : Lamp) (g : Generator) : (s.setGen l g).feed = s.feed := by cases l <;> rfl
@[simp] theorem State.setGen_feedTimer (l : Lamp) (g : Generator) : (s.setGen l g).feedTimer = s.feedTimer := by cases l <;> rfl
@[simp] theorem State.setGen_inProcessing (l : Lamp) (g : Generator) : (s.setGen l g).inProcessing = s.inProcessing := by cases l <;> rfl
@[simp] theorem State.setGen_table (l : Lamp) (g : Generator) : (s.setGen l g).table = s.table := by cases l <;> rfl
@[simp] theorem State.setGen_floorSet (l : Lamp) (g : Generator) : (s.setGen l g).floorSet = s.floorSet := by cases l <;> rfl
@[simp] theorem State.setGen_floor (l : Lamp) (g : Generator) : (s.setGen l g).floor = s.floor := by cases l <;> rfl
@[simp] theorem State.setGen_floorTimer (l : Lamp) (g : Generator) : (s.setGen l g).floorTimer = s.floorTimer := by cases l <;> rfl
@[simp] theorem State.setGen_lostCount (l : Lamp) (g : Generator) : (s.setGen l g).lostCount = s.lostCount := by cases l <;> rfl
@[simp] theorem State.setGen_zone (l : Lamp) (g : Generator) : (s.setGen l g).zone = s.zone := by cases l <;> rfl
@[simp] theorem State.setGen_zoneRepeat (l : Lamp) (g : Generator) : (s.setGen l g).zoneRepeat = s.zoneRepeat := by cases l <;> rfl
@[simp] theorem State.setGen_roster (l : Lamp) (g : Generator) : (s.setGen l g).roster = s.roster := by cases l <;> rfl
@[simp] theorem State.setGen_claimRound (l : Lamp) (g : Generator) : (s.setGen l g).claimRound = s.claimRound := by cases l <;> rfl
@[simp] theorem State.setGen_round (l : Lamp) (g : Generator) : (s.setGen l g).round = s.round := by cases l <;> rfl
@[simp] theorem State.setGen_access (l : Lamp) (g : Generator) : (s.setGen l g).access = s.access := by cases l <;> rfl
@[simp] theorem State.setGen_lastSender (l : Lamp) (g : Generator) : (s.setGen l g).lastSender = s.lastSender := by cases l <;> rfl
@[simp] theorem State.setGen_inFlight (l : Lamp) (g : Generator) : (s.setGen l g).inFlight = s.inFlight := by cases l <;> rfl
@[simp] theorem State.setGen_assembler (l : Lamp) (g : Generator) : (s.setGen l g).assembler = s.assembler := by cases l <;> rfl
@[simp] theorem State.setGen_rx (l : Lamp) (g : Generator) : (s.setGen l g).rx = s.rx := by cases l <;> rfl
@[simp] theorem State.setGen_inDispatch (l : Lamp) (g : Generator) : (s.setGen l g).inDispatch = s.inDispatch := by cases l <;> rfl
@[simp] theorem State.setGen_tx (l : Lamp) (g : Generator) : (s.setGen l g).tx = s.tx := by cases l <;> rfl
@[simp] theorem State.setGen_stationRepeat (l : Lamp) (g : Generator) : (s.setGen l g).stationRepeat = s.stationRepeat := by cases l <;> rfl
@[simp] theorem State.setGen_cueQueue (l : Lamp) (g : Generator) : (s.setGen l g).cueQueue = s.cueQueue := by cases l <;> rfl
@[simp] theorem State.setGen_cueTransfer (l : Lamp) (g : Generator) : (s.setGen l g).cueTransfer = s.cueTransfer := by cases l <;> rfl

/-! ## selectLamp -/

@[simp] theorem State.selectLamp_now (l : Lamp) : (s.selectLamp l).now = s.now := by cases l <;> rfl
@[simp] theorem State.selectLamp_pending (l : Lamp) : (s.selectLamp l).pending = s.pending := by cases l <;> rfl
@[simp] theorem State.selectLamp_station (l : Lamp) : (s.selectLamp l).station = s.station := by cases l <;> rfl
@[simp] theorem State.selectLamp_number (l : Lamp) : (s.selectLamp l).number = s.number := by cases l <;> rfl
@[simp] theorem State.selectLamp_params (l : Lamp) : (s.selectLamp l).params = s.params := by cases l <;> rfl
@[simp] theorem State.selectLamp_source (l : Lamp) : (s.selectLamp l).source = s.source := by cases l <;> rfl
@[simp] theorem State.selectLamp_partialImage (l : Lamp) : (s.selectLamp l).partialImage = s.partialImage := by cases l <;> rfl
@[simp] theorem State.selectLamp_load (l : Lamp) : (s.selectLamp l).load = s.load := by cases l <;> rfl
@[simp] theorem State.selectLamp_holdUntil (l : Lamp) : (s.selectLamp l).holdUntil = s.holdUntil := by cases l <;> rfl
@[simp] theorem State.selectLamp_joining (l : Lamp) : (s.selectLamp l).joining = s.joining := by cases l <;> rfl
@[simp] theorem State.selectLamp_fault (l : Lamp) : (s.selectLamp l).fault = s.fault := by cases l <;> rfl
@[simp] theorem State.selectLamp_window (l : Lamp) : (s.selectLamp l).window = s.window := by cases l <;> rfl
@[simp] theorem State.selectLamp_attn (l : Lamp) : (s.selectLamp l).attn = s.attn := by cases l <;> rfl
@[simp] theorem State.selectLamp_counters (l : Lamp) : (s.selectLamp l).counters = s.counters := by cases l <;> rfl
@[simp] theorem State.selectLamp_strobe (l : Lamp) : (s.selectLamp l).strobe = s.strobe := by cases l <;> rfl
@[simp] theorem State.selectLamp_intake (l : Lamp) : (s.selectLamp l).intake = s.intake := by cases l <;> rfl
@[simp] theorem State.selectLamp_feed (l : Lamp) : (s.selectLamp l).feed = s.feed := by cases l <;> rfl
@[simp] theorem State.selectLamp_feedTimer (l : Lamp) : (s.selectLamp l).feedTimer = s.feedTimer := by cases l <;> rfl
@[simp] theorem State.selectLamp_inProcessing (l : Lamp) : (s.selectLamp l).inProcessing = s.inProcessing := by cases l <;> rfl
@[simp] theorem State.selectLamp_table (l : Lamp) : (s.selectLamp l).table = s.table := by cases l <;> rfl
@[simp] theorem State.selectLamp_floorSet (l : Lamp) : (s.selectLamp l).floorSet = s.floorSet := by cases l <;> rfl
@[simp] theorem State.selectLamp_floor (l : Lamp) : (s.selectLamp l).floor = s.floor := by cases l <;> rfl
@[simp] theorem State.selectLamp_floorTimer (l : Lamp) : (s.selectLamp l).floorTimer = s.floorTimer := by cases l <;> rfl
@[simp] theorem State.selectLamp_lostCount (l : Lamp) : (s.selectLamp l).lostCount = s.lostCount := by cases l <;> rfl
@[simp] theorem State.selectLamp_zone (l : Lamp) : (s.selectLamp l).zone = s.zone := by cases l <;> rfl
@[simp] theorem State.selectLamp_zoneRepeat (l : Lamp) : (s.selectLamp l).zoneRepeat = s.zoneRepeat := by cases l <;> rfl
@[simp] theorem State.selectLamp_roster (l : Lamp) : (s.selectLamp l).roster = s.roster := by cases l <;> rfl
@[simp] theorem State.selectLamp_claimRound (l : Lamp) : (s.selectLamp l).claimRound = s.claimRound := by cases l <;> rfl
@[simp] theorem State.selectLamp_round (l : Lamp) : (s.selectLamp l).round = s.round := by cases l <;> rfl
@[simp] theorem State.selectLamp_access (l : Lamp) : (s.selectLamp l).access = s.access := by cases l <;> rfl
@[simp] theorem State.selectLamp_lastSender (l : Lamp) : (s.selectLamp l).lastSender = s.lastSender := by cases l <;> rfl
@[simp] theorem State.selectLamp_inFlight (l : Lamp) : (s.selectLamp l).inFlight = s.inFlight := by cases l <;> rfl
@[simp] theorem State.selectLamp_assembler (l : Lamp) : (s.selectLamp l).assembler = s.assembler := by cases l <;> rfl
@[simp] theorem State.selectLamp_rx (l : Lamp) : (s.selectLamp l).rx = s.rx := by cases l <;> rfl
@[simp] theorem State.selectLamp_inDispatch (l : Lamp) : (s.selectLamp l).inDispatch = s.inDispatch := by cases l <;> rfl
@[simp] theorem State.selectLamp_tx (l : Lamp) : (s.selectLamp l).tx = s.tx := by cases l <;> rfl
@[simp] theorem State.selectLamp_stationRepeat (l : Lamp) : (s.selectLamp l).stationRepeat = s.stationRepeat := by cases l <;> rfl
@[simp] theorem State.selectLamp_cueQueue (l : Lamp) : (s.selectLamp l).cueQueue = s.cueQueue := by cases l <;> rfl
@[simp] theorem State.selectLamp_cueTransfer (l : Lamp) : (s.selectLamp l).cueTransfer = s.cueTransfer := by cases l <;> rfl

/-! ## What the updates write -/

@[simp] theorem State.count_counters (k : Counter) : (s.count k).counters = s.counters.bump k := rfl
@[simp] theorem State.dropEntry_table (mic : Nat) :
    (s.dropEntry mic).table = s.table.filter fun e => decide (e.mic ≠ mic) := rfl
@[simp] theorem State.removeWhere_tx (drop : Frame → Bool) :
    (s.removeWhere drop).tx = s.tx.filter fun t => !drop t.frame := rfl
@[simp] theorem State.placeHead_tx (t : TxFrame) : (s.placeHead t).tx = t :: s.tx := rfl
@[simp] theorem State.ackQueued_tx (mic : Nat) (k : Kind) (l : Level) :
    (s.ackQueued mic k l).tx = s.tx.map (markAcked mic k l) := rfl
@[simp] theorem State.evaluateAttn_attn : s.evaluateAttn.attn = s.attnValue := rfl
@[simp] theorem State.gen_setGen_same (l : Lamp) (g : Generator) : (s.setGen l g).gen l = g := by cases l <;> rfl
@[simp] theorem State.gen_setGen_other (l m : Lamp) (g : Generator) (h : m ≠ l) : (s.setGen l g).gen m = s.gen m := by
  cases l <;> cases m <;> first | rfl | exact absurd rfl h
@[simp] theorem State.gen_selectLamp_same (l : Lamp) :
    (s.selectLamp l).gen l = (s.gen l).select s.params s.now (s.lampPattern l) := by cases l <;> rfl
@[simp] theorem State.gen_selectLamp_other (l m : Lamp) (h : m ≠ l) : (s.selectLamp l).gen m = s.gen m := by
  cases l <;> cases m <;> first | rfl | exact absurd rfl h

/-! ## Records in an entry -/

@[simp] theorem Entry.record_setRecord_same (k : Kind) (r : Record) (e : Entry) : (e.setRecord k r).record k = r := by
  cases k <;> rfl
@[simp] theorem Entry.record_setRecord_other (k m : Kind) (r : Record) (e : Entry) (h : m ≠ k) :
    (e.setRecord k r).record m = e.record m := by
  cases k <;> cases m <;> first | rfl | exact absurd rfl h
@[simp] theorem Entry.setRecord_mic (k : Kind) (r : Record) (e : Entry) : (e.setRecord k r).mic = e.mic := by cases k <;> rfl
@[simp] theorem Entry.setRecord_role (k : Kind) (r : Record) (e : Entry) : (e.setRecord k r).role = e.role := by
  cases k <;> rfl
@[simp] theorem Entry.setRecord_presence (k : Kind) (r : Record) (e : Entry) :
    (e.setRecord k r).presence = e.presence := by cases k <;> rfl
@[simp] theorem Entry.setRecord_claims (k : Kind) (r : Record) (e : Entry) : (e.setRecord k r).claims = e.claims := by
  cases k <;> rfl
@[simp] theorem Entry.setRecord_cue (k : Kind) (r : Record) (e : Entry) : (e.setRecord k r).cue = e.cue := by cases k <;> rfl
@[simp] theorem Entry.setRecord_checkGood (k : Kind) (r : Record) (e : Entry) :
    (e.setRecord k r).checkGood = e.checkGood := by cases k <;> rfl
@[simp] theorem Entry.setRecord_record (k : Kind) (e : Entry) : e.setRecord k (e.record k) = e := by cases k <;> rfl

end Sys2Proof.Machine
end

