-- ==== Sys2Proof/Laws/Table.lean ====
section
/-! SUPPORT. The table read and changed by mic ID (R17): what finding, changing, inserting and dropping an entry can do. -/

namespace Sys2Proof.Machine

/-! ## Finding -/

/-- A found entry is in the table and has the mic ID asked for. -/
theorem State.entry?_some {s : State} {mic : Nat} {e : Entry} (h : s.entry? mic = some e) : e ∈ s.table ∧ e.mic = mic := by
  refine ⟨List.mem_of_find?_eq_some h, ?_⟩
  simpa using List.find?_some h

/-- No entry is found exactly when no entry has the mic ID. -/
theorem State.entry?_none {s : State} {mic : Nat} : s.entry? mic = none ↔ ∀ e ∈ s.table, e.mic ≠ mic := by
  simp [State.entry?]

/-- The mic IDs of a lawful table are distinct. -/
theorem TableLaw.nodup {s : State} (h : TableLaw s) : s.mics.Nodup :=
  h.ascending.imp fun hlt => Nat.ne_of_lt hlt

/-- In a lawful table two entries with one mic ID are one. -/
theorem TableLaw.unique {s : State} (h : TableLaw s) {a b : Entry} (ha : a ∈ s.table) (hb : b ∈ s.table)
    (hm : a.mic = b.mic) : a = b :=
  List.inj_on_of_nodup_map h.nodup ha hb hm

/-- In a lawful table an entry is found by its mic ID. -/
theorem TableLaw.entry? {s : State} (h : TableLaw s) {e : Entry} (he : e ∈ s.table) : s.entry? e.mic = some e := by
  cases hf : s.entry? e.mic with
  | none => exact absurd rfl (State.entry?_none.mp hf e he)
  | some f => rw [h.unique (State.entry?_some hf).1 he (State.entry?_some hf).2]

/-! ## Changing -/

@[simp] theorem State.mapEntry_mics (s : State) (mic : Nat) (f : Entry → Entry) (hf : ∀ e, (f e).mic = e.mic) :
    (s.mapEntry mic f).mics = s.mics := by
  simp only [State.mics, State.mapEntry, List.map_map]
  refine List.map_congr_left fun e _ => ?_
  by_cases h : e.mic = mic <;> simp [h, hf]

@[simp] theorem State.modEntry_mics (s : State) (mic : Nat) (f : Entry → Entry) (hf : ∀ e, (f e).mic = e.mic) :
    (s.modEntry mic f).mics = s.mics := State.mapEntry_mics s mic _ hf

@[simp] theorem State.modRecord_mics (s : State) (mic : Nat) (k : Kind) (f : Record → Record) :
    (s.modRecord mic k f).mics = s.mics := State.modEntry_mics s mic _ fun e => by simp

@[simp] theorem State.forgetChamber_mics (s : State) (mic : Nat) (k : Kind) : (s.forgetChamber mic k).mics = s.mics :=
  State.mapEntry_mics s mic _ fun e => by
    dsimp only
    split
    · rfl
    · simp

/-- The changed entry is the one found afterwards; every other is as it was. -/
theorem State.entry?_mapEntry (s : State) (mic m : Nat) (f : Entry → Entry) (hf : ∀ e, (f e).mic = e.mic) :
    (s.mapEntry mic f).entry? m = (s.entry? m).map fun e => if m = mic then f e else e := by
  simp only [State.entry?, State.mapEntry]
  induction s.table with
  | nil => rfl
  | cons e rest ih =>
    have hmic : (if e.mic = mic then f e else e).mic = e.mic := by split <;> simp [hf]
    simp only [List.map_cons, List.find?_cons, hmic]
    by_cases h : e.mic = m
    · simp [h]
    · have hb : (e.mic == m) = false := by simpa using h
      simp only [hb]
      exact ih

theorem State.entry?_modEntry (s : State) (mic m : Nat) (f : Entry → Entry) (hf : ∀ e, (f e).mic = e.mic) :
    (s.modEntry mic f).entry? m = (s.entry? m).map fun e => if m = mic then { f e with checkGood := true } else e :=
  State.entry?_mapEntry s mic m _ hf

theorem State.entry?_modRecord (s : State) (mic m : Nat) (k : Kind) (f : Record → Record) :
    (s.modRecord mic k f).entry? m =
      (s.entry? m).map fun e => if m = mic then { e.setRecord k (f (e.record k)) with checkGood := true } else e :=
  State.entry?_modEntry s mic m _ fun e => by simp

/-- Every entry of a changed table is an entry of the old one, changed when it has the mic ID. -/
theorem State.mem_mapEntry {s : State} {mic : Nat} {f : Entry → Entry} {e : Entry} (h : e ∈ (s.mapEntry mic f).table) :
    ∃ x ∈ s.table, e = if x.mic = mic then f x else x := by
  obtain ⟨x, hx, rfl⟩ := List.mem_map.mp h
  exact ⟨x, hx, rfl⟩

theorem State.mem_modEntry {s : State} {mic : Nat} {f : Entry → Entry} {e : Entry} (h : e ∈ (s.modEntry mic f).table) :
    ∃ x ∈ s.table, e = if x.mic = mic then { f x with checkGood := true } else x := State.mem_mapEntry h

/-- A changed table keeps its laws when the change keeps the mic ID. -/
theorem TableLaw.mapEntry {s : State} (h : TableLaw s) (mic : Nat) (f : Entry → Entry) (hf : ∀ e, (f e).mic = e.mic) :
    TableLaw (s.mapEntry mic f) where
  ascending := by rw [State.mapEntry_mics s mic f hf]; exact h.ascending
  atMost96 := by simpa [State.mapEntry] using h.atMost96
  seats := by
    intro e he
    obtain ⟨x, hx, rfl⟩ := State.mem_mapEntry he
    have := h.seats x hx
    split <;> simp_all
  queuedSeats := h.queuedSeats

theorem TableLaw.modEntry {s : State} (h : TableLaw s) (mic : Nat) (f : Entry → Entry) (hf : ∀ e, (f e).mic = e.mic) :
    TableLaw (s.modEntry mic f) := h.mapEntry mic _ hf

/-- A changed entry is sound when the change leaves its check word good. -/
theorem SoundLaw.mapEntry {s : State} (h : SoundLaw s) (mic : Nat) (f : Entry → Entry)
    (hf : ∀ e, e.checkGood = true → (f e).checkGood = true) : SoundLaw (s.mapEntry mic f) := by
  intro e he
  obtain ⟨x, hx, rfl⟩ := State.mem_mapEntry he
  split
  · exact hf x (h x hx)
  · exact h x hx

theorem SoundLaw.modEntry {s : State} (h : SoundLaw s) (mic : Nat) (f : Entry → Entry) : SoundLaw (s.modEntry mic f) :=
  h.mapEntry mic _ fun _ _ => rfl

/-! ## Dropping -/

@[simp] theorem State.entry?_dropEntry (s : State) (mic m : Nat) :
    (s.dropEntry mic).entry? m = if m = mic then none else s.entry? m := by
  simp only [State.entry?, State.dropEntry, List.find?_filter]
  by_cases h : m = mic
  · subst h; simp
  · rw [if_neg h]
    congr 1
    funext e
    by_cases he : e.mic = m
    · simp [he, h]
    · simp [he]

theorem TableLaw.dropEntry {s : State} (h : TableLaw s) (mic : Nat) : TableLaw (s.dropEntry mic) where
  ascending := h.ascending.sublist (List.Sublist.map _ List.filter_sublist)
  atMost96 := le_trans (List.length_filter_le _ _) h.atMost96
  seats := fun e he => h.seats e (List.mem_of_mem_filter he)
  queuedSeats := h.queuedSeats

theorem SoundLaw.dropEntry {s : State} (h : SoundLaw s) (mic : Nat) : SoundLaw (s.dropEntry mic) :=
  fun e he => h e (List.mem_of_mem_filter he)

/-- Dropping an entry that is there makes the table shorter. -/
theorem State.dropEntry_length_lt {s : State} {mic : Nat} {e : Entry} (h : s.entry? mic = some e) :
    (s.dropEntry mic).table.length < s.table.length := by
  obtain ⟨he, hm⟩ := State.entry?_some h
  exact List.length_filter_lt_length_iff_exists.mpr ⟨e, he, by simp [hm]⟩

/-! ## Inserting -/

theorem mem_insertEntry {e x : Entry} {l : List Entry} : x ∈ insertEntry e l ↔ x = e ∨ x ∈ l := by
  induction l with
  | nil => simp [insertEntry]
  | cons y rest ih =>
    simp only [insertEntry]
    split
    · simp only [List.mem_cons, ih]; tauto
    · simp

theorem length_insertEntry (e : Entry) (l : List Entry) : (insertEntry e l).length = l.length + 1 := by
  induction l with
  | nil => rfl
  | cons y rest ih =>
    simp only [insertEntry]
    split <;> simp [*]

/-- An entry joins an ascending table at its place (R17). -/
theorem insertEntry_ascending {e : Entry} {l : List Entry} (h : (l.map Entry.mic).Pairwise (· < ·))
    (hn : ∀ x ∈ l, x.mic ≠ e.mic) : ((insertEntry e l).map Entry.mic).Pairwise (· < ·) := by
  induction l with
  | nil => simp [insertEntry]
  | cons y rest ih =>
    rw [List.map_cons, List.pairwise_cons] at h
    have hy : y.mic ≠ e.mic := hn y (by simp)
    simp only [insertEntry]
    split
    · rename_i hlt
      rw [List.map_cons, List.pairwise_cons]
      refine ⟨?_, ih h.2 fun x hx => hn x (by simp [hx])⟩
      intro m hm
      obtain ⟨x, hx, rfl⟩ := List.mem_map.mp hm
      rcases mem_insertEntry.mp hx with rfl | hx
      · exact hlt
      · exact h.1 _ (List.mem_map_of_mem hx)
    · rename_i hlt
      simp only [List.map_cons, List.pairwise_cons]
      refine ⟨?_, h.1, h.2⟩
      intro m hm
      rcases List.mem_cons.mp hm with rfl | hm
      · omega
      · have := h.1 m hm; omega

/-! ## Visiting -/

/-- A verified visit to an entry with a good check word is the visit; with none there, nothing. -/
theorem State.verified_sound {s : State} (h : SoundLaw s) (fx : Nat → State → State) (mic : Nat)
    (act : Entry → State → State) :
    s.verified fx mic act = match s.entry? mic with
      | none => s
      | some e => act e s := by
  unfold State.verified
  cases hf : s.entry? mic with
  | none => rfl
  | some e => simp [h e (State.entry?_some hf).1]

/-- What a verified visit can do. -/
theorem State.verified_cases (fx : Nat → State → State) (mic : Nat) (act : Entry → State → State) (s : State) :
    s.verified fx mic act = s ∨ (∃ e, s.entry? mic = some e ∧ e.checkGood = false ∧ s.verified fx mic act = fx mic s) ∨
      ∃ e, s.entry? mic = some e ∧ e.checkGood = true ∧ s.verified fx mic act = act e s := by
  unfold State.verified
  cases hf : s.entry? mic with
  | none => exact .inl rfl
  | some e =>
    cases hc : e.checkGood with
    | false => exact .inr (.inl ⟨e, rfl, hc, by simp [hc]⟩)
    | true => exact .inr (.inr ⟨e, rfl, hc, by simp [hc]⟩)

/-- What every visit of a sweep keeps, the sweep keeps. -/
theorem State.sweep_keeps {P : State → Prop} {fx act : Nat → State → State}
    (hfx : ∀ mic s e, s.entry? mic = some e → e.checkGood = false → P s → P (fx mic s))
    (hact : ∀ mic s e, s.entry? mic = some e → e.checkGood = true → P s → P (act mic s)) {s : State} (h : P s) :
    P (s.sweep fx act) := by
  suffices ∀ (mics : List Nat) (s : State), P s →
      P (mics.foldl (fun s mic => s.verified fx mic fun _ => act mic) s) from this s.mics s h
  intro mics
  induction mics with
  | nil => exact fun s h => h
  | cons mic rest ih =>
    intro s h
    refine ih _ ?_
    beta_reduce
    rcases State.verified_cases fx mic (fun _ => act mic) s with h' | ⟨e, he, hc, h'⟩ | ⟨e, he, hc, h'⟩ <;> rw [h']
    · exact h
    · exact hfx mic s e he hc h
    · exact hact mic s e he hc h

/-- What an expiry can do: nothing, or a verified visit to an entry whose timer is due. -/
theorem State.expiry_cases (mic : Nat) (timer : Entry → Timer) (act : Entry → State → State) (s : State) :
    s.expiry mic timer act = s ∨ (∃ e, s.entry? mic = some e ∧ (timer e).isDue s.now = true ∧ e.checkGood = false ∧
      s.expiry mic timer act = s.entryFault mic) ∨
      ∃ e, s.entry? mic = some e ∧ (timer e).isDue s.now = true ∧ e.checkGood = true ∧
        s.expiry mic timer act = act e s := by
  unfold State.expiry
  cases hf : s.entry? mic with
  | none => exact .inl rfl
  | some e =>
    by_cases hd : (timer e).isDue s.now = true
    · simp only [hd, if_true]
      rcases State.verified_cases State.entryFault mic act s with h | ⟨x, hx, hc, h⟩ | ⟨x, hx, hc, h⟩
      · exact .inl h
      · exact .inr (.inl ⟨e, rfl, hd, by simp_all, h⟩)
      · have : x = e := by simpa [hf] using hx.symm
        subst this
        exact .inr (.inr ⟨x, rfl, hd, hc, h⟩)
    · exact .inl (by simp [hd])

/-- An expiry of a sound state whose timer is due is the visit. -/
theorem State.expiry_due {s : State} (h : SoundLaw s) {mic : Nat} {e : Entry} (he : s.entry? mic = some e)
    {timer : Entry → Timer} (hd : (timer e).isDue s.now = true) (act : Entry → State → State) :
    s.expiry mic timer act = act e s := by
  simp [State.expiry, he, hd, State.verified_sound h]

/-! ## The initial laws of the fault handler -/

/-- What a fault handler keeps at every depth, an integrity fault keeps: `P` may speak of the entries left, since each fault takes
one out before anything else. -/
theorem integrityFault_keeps {P : State → Prop}
    (h : ∀ fx : Nat → State → State, (∀ mic s e, s.entry? mic = some e → P s → P (fx mic s)) →
      ∀ mic s e, s.entry? mic = some e → P s →
        P (((s.removeEntry fx mic).count .integrityFaults).faultReport fx mic)) :
    ∀ fuel mic s e, s.entry? mic = some e → P s → P (integrityFault fuel mic s) := by
  intro fuel
  induction fuel with
  | zero => exact fun _ _ _ _ hs => hs
  | succ fuel ih => exact fun mic s e he hs => h _ ih mic s e he hs

theorem State.entryFault_keeps {P : State → Prop}
    (h : ∀ fx : Nat → State → State, (∀ mic s e, s.entry? mic = some e → P s → P (fx mic s)) →
      ∀ mic s e, s.entry? mic = some e → P s →
        P (((s.removeEntry fx mic).count .integrityFaults).faultReport fx mic))
    {mic : Nat} {s : State} {e : Entry} (he : s.entry? mic = some e) (hs : P s) : P (s.entryFault mic) :=
  integrityFault_keeps h _ mic s e he hs

end Sys2Proof.Machine
end

