-- ==== Sys2Proof/Laws/Queue.lean ====
section
/-! SUPPORT. The transmit queue's operations (section 9): what placing, choosing a victim, discarding, accepting and rechecking a
frame can do. -/

namespace Sys2Proof.Machine

/-! ## Placing (R142) -/

/-- A frame is placed between those that stay ahead of it and those that fall behind it. -/
theorem placeTx_split (f : TxFrame) (q : List TxFrame) :
    ∃ pre post, q = pre ++ post ∧ placeTx f q = pre ++ f :: post ∧
      (∀ g ∈ pre, g.returned = true ∨ g.frame.cls ≤ f.frame.cls) ∧
      ∀ g, post.head? = some g → g.returned = false ∧ f.frame.cls < g.frame.cls := by
  induction q with
  | nil => exact ⟨[], [], rfl, rfl, by simp, by simp⟩
  | cons g rest ih =>
    by_cases h : g.returned = true ∨ g.frame.cls ≤ f.frame.cls
    · obtain ⟨pre, post, hq, hp, h1, h2⟩ := ih
      refine ⟨g :: pre, post, by simp [hq], by simp [placeTx, h, hp], ?_, h2⟩
      intro x hx
      rcases List.mem_cons.mp hx with rfl | hx
      · exact h
      · exact h1 x hx
    · refine ⟨[], g :: rest, rfl, by simp [placeTx, h], by simp, ?_⟩
      intro x hx
      obtain rfl : g = x := by simpa using hx
      push Not at h
      exact ⟨by simpa using h.1, by simpa using h.2⟩

@[simp] theorem mem_placeTx {f g : TxFrame} {q : List TxFrame} : g ∈ placeTx f q ↔ g = f ∨ g ∈ q := by
  obtain ⟨pre, post, hq, hp, -, -⟩ := placeTx_split f q
  rw [hp, hq]
  simp only [List.mem_append, List.mem_cons]
  tauto

@[simp] theorem length_placeTx (f : TxFrame) (q : List TxFrame) : (placeTx f q).length = q.length + 1 := by
  obtain ⟨pre, post, hq, hp, -, -⟩ := placeTx_split f q
  rw [hp, hq]
  simp; omega

/-! ## The victim (R147) -/

theorem le_topClass {q : List TxFrame} {f : TxFrame} (h : f ∈ q) : f.frame.cls ≤ topClass q := by
  suffices ∀ (q : List TxFrame) (n : Nat), n ≤ q.foldl (fun n f => max n f.frame.cls) n ∧
      ∀ f ∈ q, f.frame.cls ≤ q.foldl (fun n f => max n f.frame.cls) n from (this q 0).2 f h
  intro q
  induction q with
  | nil => intro n; simp
  | cons g rest ih =>
    intro n
    obtain ⟨h1, h2⟩ := ih (max n g.frame.cls)
    refine ⟨by simp only [List.foldl_cons]; omega, ?_⟩
    intro f hf
    rcases List.mem_cons.mp hf with rfl | hf
    · simp only [List.foldl_cons]; omega
    · exact h2 f hf

/-- The highest class is some frame's, unless it is 0. -/
theorem topClass_mem {q : List TxFrame} (h : 0 < topClass q) : ∃ f ∈ q, f.frame.cls = topClass q := by
  suffices ∀ (q : List TxFrame) (n : Nat), n < q.foldl (fun n f => max n f.frame.cls) n →
      ∃ f ∈ q, f.frame.cls = q.foldl (fun n f => max n f.frame.cls) n from this q 0 h
  intro q
  induction q with
  | nil => intro n h; simp at h
  | cons g rest ih =>
    intro n h
    simp only [List.foldl_cons] at h ⊢
    by_cases hg : max n g.frame.cls < rest.foldl (fun n f => max n f.frame.cls) (max n g.frame.cls)
    · obtain ⟨f, hf, he⟩ := ih _ hg
      exact ⟨f, by simp [hf], he⟩
    · have hle : max n g.frame.cls ≤ rest.foldl (fun n f => max n f.frame.cls) (max n g.frame.cls) := by
        clear ih h hg
        generalize max n g.frame.cls = m
        induction rest generalizing m with
        | nil => simp
        | cons a l ih => simp only [List.foldl_cons]; exact le_trans (Nat.le_max_left _ _) (ih _)
      exact ⟨g, by simp, by omega⟩

/-- The newest frame of a class is taken out from behind: no later frame is of the class. -/
theorem takeNewest_some {c : Nat} {q rest : List TxFrame} {v : TxFrame} (h : takeNewest c q = some (v, rest)) :
    ∃ pre post, q = pre ++ v :: post ∧ rest = pre ++ post ∧ v.frame.cls = c ∧ ∀ g ∈ post, g.frame.cls ≠ c := by
  have none_iff : ∀ q : List TxFrame, takeNewest c q = none → ∀ g ∈ q, g.frame.cls ≠ c := by
    intro q
    induction q with
    | nil => simp
    | cons f rest ih =>
      intro h g hg
      simp only [takeNewest] at h
      split at h
      · exact absurd h (by simp)
      · rename_i hr
        split at h
        · exact absurd h (by simp)
        · rename_i hc
          rcases List.mem_cons.mp hg with rfl | hg
          · exact hc
          · exact ih hr g hg
  induction q generalizing v rest with
  | nil => simp [takeNewest] at h
  | cons f tl ih =>
    simp only [takeNewest] at h
    split at h
    · rename_i g rest' hr
      obtain ⟨rfl, rfl⟩ : g = v ∧ f :: rest' = rest := by simpa using h
      obtain ⟨pre, post, h1, h2, h3, h4⟩ := ih hr
      exact ⟨f :: pre, post, by simp [h1], by simp [h2], h3, h4⟩
    · rename_i hr
      split at h
      · rename_i hc
        obtain ⟨rfl, rfl⟩ : f = v ∧ tl = rest := by simpa using h
        exact ⟨[], tl, rfl, rfl, hc, none_iff tl hr⟩
      · exact absurd h (by simp)

theorem takeNewest_none {c : Nat} {q : List TxFrame} (h : takeNewest c q = none) : ∀ g ∈ q, g.frame.cls ≠ c := by
  induction q with
  | nil => simp
  | cons f rest ih =>
    intro g hg
    simp only [takeNewest] at h
    split at h
    · exact absurd h (by simp)
    · rename_i hr
      split at h
      · exact absurd h (by simp)
      · rename_i hc
        rcases List.mem_cons.mp hg with rfl | hg
        · exact hc
        · exact ih hr g hg

/-- A victim is the newest frame of the least urgent class present, which is less urgent than `c` (R147). -/
theorem victimFor_some {c : Nat} {q rest : List TxFrame} {v : TxFrame} (h : victimFor c q = some (v, rest)) :
    c < v.frame.cls ∧ (∀ g ∈ q, g.frame.cls ≤ v.frame.cls) ∧
      ∃ pre post, q = pre ++ v :: post ∧ rest = pre ++ post ∧ ∀ g ∈ post, g.frame.cls ≠ v.frame.cls := by
  unfold victimFor at h
  split at h
  · rename_i hc
    obtain ⟨pre, post, h1, h2, h3, h4⟩ := takeNewest_some h
    exact ⟨by omega, fun g hg => h3 ▸ le_topClass hg, pre, post, h1, h2, h3 ▸ h4⟩
  · exact absurd h (by simp)

/-- There is no victim exactly when no queued frame is less urgent (R147). -/
theorem victimFor_none {c : Nat} {q : List TxFrame} : victimFor c q = none ↔ ∀ g ∈ q, g.frame.cls ≤ c := by
  unfold victimFor
  split
  · rename_i hc
    obtain ⟨f, hf, he⟩ := topClass_mem (q := q) (by omega)
    constructor
    · intro h
      exact absurd he (takeNewest_none h f hf)
    · intro h
      have := h f hf
      omega
  · rename_i hc
    exact ⟨fun _ g hg => le_trans (le_topClass hg) (by omega), fun _ => rfl⟩

/-! ## Discards (R74) -/

/-- A discard changes the table only. -/
theorem State.discardFrame_eq (f : Frame) (s : State) : s.discardFrame f = { s with table := (s.discardFrame f).table } := by
  unfold State.discardFrame
  split
  · split <;> rfl
  · rfl

/-- A discard leaves the table that `discarded` spells: R74 as the statements say it. -/
theorem State.discardFrame_discarded (f : Frame) (s : State) : s.discardFrame f = { s with table := discarded s.tx f s.table } := by
  cases f with
  | warn w =>
    simp only [State.discardFrame, discarded]
    split <;> rfl
  | _ => rfl

/-- What a discard of a frame can do: nothing, or the record of a WARN forgets what the chamber was told. -/
theorem State.discardFrame_cases (f : Frame) (s : State) :
    s.discardFrame f = s ∨ ∃ w, f = .warn w ∧ s.discardFrame f = s.forgetChamber w.mic w.kind := by
  unfold State.discardFrame
  split
  · rename_i w
    split
    · exact .inl rfl
    · exact .inr ⟨w, rfl, rfl⟩
  · exact .inl rfl

/-- Removals with discards: the kept frames stay as they were, and what each discard keeps is kept. -/
theorem State.discardWhere_keeps {P : State → Prop} (hP : ∀ f s, P s → P (s.discardFrame f)) (drop : Frame → Bool)
    {s : State} (h : P { s with tx := s.tx.filter fun t => !drop t.frame }) : P (s.discardWhere drop) := by
  unfold State.discardWhere
  generalize s.tx.filter (fun t => drop t.frame) = gone
  generalize ({ s with tx := s.tx.filter fun t => !drop t.frame } : State) = u at h
  induction gone generalizing u with
  | nil => exact h
  | cons t rest ih => exact ih _ (hP t.frame u h)

/-- Removals with discards change the queue and the table only. -/
theorem State.discardWhere_eq (drop : Frame → Bool) (s : State) :
    s.discardWhere drop =
      { s with tx := s.tx.filter fun t => !drop t.frame, table := (s.discardWhere drop).table } := by
  refine State.discardWhere_keeps
    (P := fun u => u = { s with tx := s.tx.filter fun t => !drop t.frame, table := u.table }) ?_ drop rfl
  intro f u hu
  rw [State.discardFrame_eq f u, hu]

@[simp] theorem State.discardWhere_tx (drop : Frame → Bool) (s : State) :
    (s.discardWhere drop).tx = s.tx.filter fun t => !drop t.frame := by rw [State.discardWhere_eq]

/-! ## Acceptance (R147) -/

/-- What a submission can do: the frame takes a place with room; or the newest less urgent frame gives way, is counted and
discarded; or the new frame is dropped and counted. -/
theorem State.submit_cases (f : Frame) (s : State) :
    (s.tx.length < txMax ∧ s.submit f = ({ s with tx := placeTx ⟨f, 0⟩ s.tx }, true)) ∨
    (txMax ≤ s.tx.length ∧ ∃ v rest, victimFor f.cls s.tx = some (v, rest) ∧
      s.submit f = ((({ s with tx := placeTx ⟨f, 0⟩ rest }).count .framesDropped).discardFrame v.frame, true)) ∨
    (txMax ≤ s.tx.length ∧ (∀ g ∈ s.tx, g.frame.cls ≤ f.cls) ∧ s.submit f = (s.count .framesDropped, false)) := by
  unfold State.submit
  split
  · exact .inl ⟨by assumption, rfl⟩
  · rename_i hlen
    cases hv : victimFor f.cls s.tx with
    | none => exact .inr (.inr ⟨by omega, victimFor_none.mp hv, rfl⟩)
    | some vr => exact .inr (.inl ⟨by omega, vr.1, vr.2, by simp, rfl⟩)

/-- A submission changes the queue, the counter of drops and, by a discard, the table. -/
theorem State.submit_eq (f : Frame) (s : State) :
    (s.submit f).1 = { s with
      tx := (s.submit f).1.tx
      table := (s.submit f).1.table
      counters := { s.counters with framesDropped := (s.submit f).1.counters.framesDropped } } := by
  rcases State.submit_cases f s with ⟨-, h⟩ | ⟨-, v, rest, -, h⟩ | ⟨-, -, h⟩ <;> rw [h]
  · rw [State.discardFrame_eq]; rfl
  · rfl

/-- A submission never lengthens a full queue. -/
theorem State.submit_length {f : Frame} {s : State} (h : s.tx.length ≤ txMax) : (s.submit f).1.tx.length ≤ txMax := by
  rcases State.submit_cases f s with ⟨hl, hs⟩ | ⟨hl, v, rest, hv, hs⟩ | ⟨hl, -, hs⟩ <;> rw [hs]
  · simp; omega
  · obtain ⟨-, -, pre, post, h1, h2, -⟩ := victimFor_some hv
    rw [State.discardFrame_eq]
    subst h2
    rw [h1] at h
    simp at h ⊢; omega
  · simpa using h

/-- A STATION frame always takes a place in a queue that holds none (R151). -/
theorem State.submit_station {r : StationReport} {s : State} (h : ∀ t ∈ s.tx, t.frame.isStation = false) :
    (s.submit (.station r)).2 = true := by
  rcases State.submit_cases (.station r) s with ⟨-, hs⟩ | ⟨-, v, rest, -, hs⟩ | ⟨hl, hle, -⟩
  · rw [hs]
  · rw [hs]
  · exfalso
    obtain ⟨t, rest, ht⟩ : ∃ t rest, s.tx = t :: rest := by
      cases hq : s.tx with
      | nil => simp [hq, txMax] at hl
      | cons t rest => exact ⟨t, rest, rfl⟩
    have h1 := hle t (by simp [ht])
    have h2 := h t (by simp [ht])
    cases hf : t.frame with
    | station r' => simp [hf, Frame.isStation] at h2
    | claim r' p => simp [hf, Frame.cls] at h1
    | warn w => cases hr : w.reason <;> simp [hf, Frame.cls, hr] at h1
    | entry m r' => simp [hf, Frame.cls] at h1
    | stats c => simp [hf, Frame.cls] at h1

/-! ## The validity recheck (R133) -/

/-- What a recheck can do: a drop, a replacement, a place at the head with room, or one that a less urgent frame makes. -/
theorem State.recheck_cases (t : TxFrame) (s : State) :
    s.recheck t = s.dropReturning t.frame ∨ (s.recheckReplaced t.frame = true ∧ s.recheck t = s) ∨
    (s.recheckDrops t.frame = false ∧ s.recheckReplaced t.frame = false ∧ s.tx.length < txMax ∧
      s.recheck t = s.placeHead t) ∨
    (s.recheckDrops t.frame = false ∧ s.recheckReplaced t.frame = false ∧
      ∃ v rest, victimFor t.frame.cls s.tx = some (v, rest) ∧
        s.recheck t = ((({ s with tx := rest }).placeHead t).count .framesDropped).discardFrame v.frame) := by
  unfold State.recheck
  by_cases h1 : s.recheckDrops t.frame = true
  · simp [h1]
  · by_cases h2 : s.recheckReplaced t.frame = true
    · simp [h1, h2]
    · by_cases h3 : s.tx.length < txMax
      · simp [h1, h2, h3]
      · cases hv : victimFor t.frame.cls s.tx with
        | none => simp [h1, h2, h3]
        | some vr => exact .inr (.inr (.inr ⟨by simpa using h1, by simpa using h2, vr.1, vr.2, rfl, by simp [h1, h2, h3]⟩))

end Sys2Proof.Machine
end

