-- ==== Sys2Proof/Laws/HandOffs.lean ====
section
/-! SUPPORT. Hand-offs (R23, R80, R98, R101): the operations that reach only the queue, the zone, the outputs, and in entries only
what the chamber was told and the repeat timers. -/

namespace Sys2Proof.Machine

/-- `t` follows `s` by hand-offs alone: no entry differs but in what the chamber was told and its repeat timers, and good check
words stay good. -/
structure State.Told (s t : State) : Prop where
  only : s.onlyHandOffs t
  view : t.view = s.view
  sound : SoundLaw s → SoundLaw t

theorem State.Told.refl (s : State) : s.Told s := ⟨rfl, rfl, id⟩

theorem State.Told.trans {s t u : State} (h : s.Told t) (k : t.Told u) : s.Told u where
  only := by
    have h1 := h.only
    have h2 := k.only
    unfold State.onlyHandOffs at *
    rw [h2, h1]
  view := k.view.trans h.view
  sound := fun hs => k.sound (h.sound hs)

/-- Hand-offs keep the mic IDs of the table. -/
theorem State.Told.mics {s t : State} (h : s.Told t) : t.mics = s.mics := by
  have hm : ∀ u : State, u.mics = u.view.map Entry.mic := by
    intro u
    simp only [State.mics, State.view, List.map_map]
    rfl
  rw [hm, hm, h.view]

/-- Hand-offs leave a condition. -/
theorem State.Told.keep {s t : State} (h : s.Told t) : t.now = s.now ∧ t.station = s.station ∧ t.params = s.params ∧
    t.number = s.number ∧ t.source = s.source ∧ t.pending = s.pending ∧ t.floorSet = s.floorSet ∧ t.floor = s.floor ∧
    t.roster = s.roster ∧ t.rx = s.rx ∧ t.intake = s.intake ∧ t.fault = s.fault ∧ t.window = s.window := by
  have h1 := h.only
  unfold State.onlyHandOffs at h1
  rw [h1]
  exact ⟨rfl, rfl, rfl, rfl, rfl, rfl, rfl, rfl, rfl, rfl, rfl, rfl, rfl⟩

/-! ## Entries -/

@[simp] theorem Entry.untold_mic (e : Entry) : e.untold.mic = e.mic := rfl

@[simp] theorem Entry.untold_setRecord (k : Kind) (r : Record) (e : Entry) :
    (e.setRecord k r).untold = e.untold.setRecord k r.untold := by cases k <;> rfl

@[simp] theorem Entry.untold_record (k : Kind) (e : Entry) : e.untold.record k = (e.record k).untold := by cases k <;> rfl

/-- A record changed only in what the chamber was told or its repeat timer leaves the entry the same to the view. -/
theorem Entry.untold_setRecord_told {k : Kind} {e : Entry} {r : Record} (h : r.untold = (e.record k).untold) :
    ({ e.setRecord k r with checkGood := true } : Entry).untold = e.untold := by
  have : ({ e.setRecord k r with checkGood := true } : Entry).untold = (e.setRecord k r).untold := rfl
  rw [this, Entry.untold_setRecord, h, ← Entry.untold_record, Entry.setRecord_record]

/-- A change of entries that the view does not see. -/
theorem State.mapEntry_told {s : State} {mic : Nat} {f : Entry → Entry} (hf : ∀ e ∈ s.table, e.mic = mic → (f e).untold = e.untold)
    (hg : ∀ e, e.checkGood = true → (f e).checkGood = true) : s.Told (s.mapEntry mic f) where
  only := rfl
  view := by
    simp only [State.view, State.mapEntry, List.map_map]
    refine List.map_congr_left fun e he => ?_
    by_cases h : e.mic = mic
    · simp [h, hf e he h]
    · simp [h]
  sound := fun hs => hs.mapEntry mic f hg

theorem State.modRecord_told {s : State} {mic : Nat} {k : Kind} {f : Record → Record}
    (hf : ∀ r : Record, (f r).untold = r.untold) : s.Told (s.modRecord mic k f) :=
  State.mapEntry_told (fun _ _ _ => Entry.untold_setRecord_told (hf _)) fun _ _ => rfl

/-! ## The queue -/

theorem State.forgetChamber_told (mic : Nat) (k : Kind) (s : State) : s.Told (s.forgetChamber mic k) := by
  refine State.mapEntry_told (fun e _ _ => ?_) fun e he => ?_
  · dsimp only
    split
    · rfl
    · exact Entry.untold_setRecord_told rfl
  · dsimp only
    split
    · exact he
    · rfl

theorem State.discardFrame_told (f : Frame) (s : State) : s.Told (s.discardFrame f) := by
  rcases State.discardFrame_cases f s with h | ⟨w, -, h⟩ <;> rw [h]
  · exact .refl s
  · exact State.forgetChamber_told ..

theorem State.tx_told (s : State) (q : List TxFrame) : s.Told { s with tx := q } := ⟨rfl, rfl, id⟩

theorem State.count_framesDropped_told (s : State) : s.Told (s.count .framesDropped) := ⟨rfl, rfl, id⟩

theorem State.discardWhere_told (drop : Frame → Bool) (s : State) : s.Told (s.discardWhere drop) :=
  State.discardWhere_keeps (P := fun u => s.Told u) (fun f _ h => h.trans (State.discardFrame_told f _)) drop
    (State.tx_told s _)

theorem State.removeWhere_told (drop : Frame → Bool) (s : State) : s.Told (s.removeWhere drop) := State.tx_told s _

theorem State.submit_told (f : Frame) (s : State) : s.Told (s.submit f).1 := by
  rcases State.submit_cases f s with ⟨-, h⟩ | ⟨-, v, rest, -, h⟩ | ⟨-, -, h⟩ <;> rw [h]
  · exact State.tx_told s _
  · exact ((State.tx_told s _).trans (State.count_framesDropped_told _)).trans (State.discardFrame_told ..)
  · exact State.count_framesDropped_told s

theorem State.requestFrame_told (f : Frame) (s : State) : s.Told (s.requestFrame f) := by
  unfold State.requestFrame
  split
  · exact State.submit_told f s
  · exact .refl s

theorem State.requestWarn_told (mic : Nat) (k : Kind) (reason : Reason) (s : State) :
    s.Told (s.requestWarn mic k reason) := by
  unfold State.requestWarn
  split
  · exact .refl s
  · split
    · dsimp only
      have h := fun f => (State.removeWhere_told (Frame.warnFor mic k) s).trans (State.submit_told f _)
      split
      · exact (h _).trans (State.modRecord_told fun _ => rfl)
      · exact h _
    · exact .refl s

theorem State.announce_told (mic : Nat) (k : Kind) (reason : Reason) (s : State) : s.Told (s.announce mic k reason) :=
  (State.requestWarn_told mic k reason s).trans
    (State.mapEntry_told (fun _ _ _ => Entry.untold_setRecord_told rfl) fun _ _ => rfl)

theorem State.adopt_told (mic : Nat) (k : Kind) (s : State) : s.Told (s.adopt mic k) := by
  unfold State.adopt
  split
  · exact .refl s
  · split
    · exact State.announce_told ..
    · exact .refl s

theorem State.adoptAll_told (mic : Nat) (s : State) : s.Told (s.adoptAll mic) :=
  ((State.adopt_told mic .battery s).trans (State.adopt_told ..)).trans (State.adopt_told ..)

theorem State.requestStation_told (start : Bool) (s : State) : s.Told (s.requestStation start) := by
  unfold State.requestStation
  split
  · dsimp only
    have h := fun r => (State.removeWhere_told Frame.isStation s).trans (State.submit_told (.station r) _)
    split
    · exact (h _).trans ⟨rfl, rfl, id⟩
    · exact h _
  · exact .refl s

theorem State.ackQueued_told (mic : Nat) (k : Kind) (l : Level) (s : State) : s.Told (s.ackQueued mic k l) :=
  State.tx_told s _

/-! ## Outputs -/

theorem State.selectLamp_told (l : Lamp) (s : State) : s.Told (s.selectLamp l) := by cases l <;> exact ⟨rfl, rfl, id⟩

theorem State.evaluateAttn_told (s : State) : s.Told s.evaluateAttn := ⟨rfl, rfl, id⟩

theorem State.selectWarningLamps_told (s : State) : s.Told s.selectWarningLamps :=
  ((State.selectLamp_told .battery s).trans (State.selectLamp_told ..)).trans (State.selectLamp_told ..)

theorem State.zoneHandOff_told (s : State) : s.Told s.zoneHandOff :=
  (State.selectLamp_told .station s).trans (State.evaluateAttn_told _)

theorem State.stationHandOff_told (s : State) : s.Told s.stationHandOff :=
  ((State.selectWarningLamps_told s).trans (State.selectLamp_told ..)).trans (State.evaluateAttn_told _)

/-! ## The zone -/

theorem State.zone_told (s : State) (z : Zone) : s.Told { s with zone := z } := ⟨rfl, rfl, id⟩

theorem State.zoneRepeat_told (s : State) (t : Timer) : s.Told { s with zoneRepeat := t } := ⟨rfl, rfl, id⟩

theorem State.zoneEnter_told (cause : ZoneCause) (s : State) : s.Told (s.zoneEnter cause) :=
  ((((State.discardWhere_told Frame.lostWarn s).trans (State.zone_told _ _)).trans
    (State.requestStation_told false _)).trans (State.zoneRepeat_told _ _)).trans (State.zoneHandOff_told _)

theorem State.zoneCause_told (cause : ZoneCause) (s : State) : s.Told (s.zoneCause cause) :=
  (((State.zone_told s _).trans (State.requestStation_told false _)).trans (State.zoneRepeat_told _ _)).trans
    (State.zoneHandOff_told _)

theorem State.reannounce_told (mic : Nat) (s : State) : s.Told (s.reannounce mic) := by
  unfold State.reannounce
  split
  · exact .refl s
  · split
    · exact State.announce_told ..
    · exact .refl s

/-- A sweep of hand-offs over a sound table is a hand-off: no visit finds a fault. -/
theorem State.sweep_told {act : Nat → State → State} (h : ∀ mic (s : State), s.Told (act mic s)) (fx : Nat → State → State) {s : State}
    (hs : SoundLaw s) : s.Told (s.sweep fx act) := by
  refine State.sweep_keeps (P := fun u => s.Told u) (fun mic u e he hc hu => ?_) (fun mic u e _ _ hu => hu.trans (h mic u))
    (.refl s)
  have := hu.sound hs e (State.entry?_some he).1
  simp [hc] at this

theorem State.zoneEnd_told (fx : Nat → State → State) {s : State} (hs : SoundLaw s) : s.Told (s.zoneEnd fx) := by
  have h : s.Told (({ s with zone := .notInForce, zoneRepeat := .stopped }).requestStation false) :=
    (State.Told.trans (t := { s with zone := .notInForce, zoneRepeat := .stopped }) ⟨rfl, rfl, id⟩
      (State.requestStation_told false _))
  exact (h.trans (State.sweep_told State.reannounce_told fx (h.sound hs))).trans (State.zoneHandOff_told _)

theorem State.updateLost_told (fx : Nat → State → State) {s : State} (hs : SoundLaw s) : s.Told (s.updateLost fx) := by
  unfold State.updateLost
  have h : s.Told { s with lostCount := lostOf s.table } := ⟨rfl, rfl, id⟩
  dsimp only
  split
  · exact h.trans (State.zoneEnter_told _ _)
  · split
    · exact h.trans (State.zoneEnd_told fx (h.sound hs))
    · exact h

theorem State.feedCauseEnds_told (fx : Nat → State → State) {s : State} (hs : SoundLaw s) :
    s.Told (s.feedCauseEnds fx) := by
  unfold State.feedCauseEnds
  split
  · split
    · exact State.zoneCause_told _ s
    · exact State.zoneEnd_told fx hs
  · exact .refl s

end Sys2Proof.Machine
end

