-- ==== Sys2Proof/Laws/Entries.lean ====
section
/-! SUPPORT. What an entry becomes (R58, R76, R113, R117, R118, R161): the operations that change one entry, as one change of it
beside hand-offs. -/

namespace Sys2Proof.Machine

/-- `t` follows `s` by changing the entry of `mic` to `e`, and by hand-offs. -/
structure State.Changed (s t : State) (mic : Nat) (e : Entry) : Prop where
  only : s.onlyHandOffs t
  view : t.view = s.viewWith mic e
  sound : SoundLaw s → SoundLaw t

/-- A change of one entry, written back. -/
theorem State.modEntry_changed {s : State} (h : TableLaw s) {mic : Nat} {e : Entry} (he : s.entry? mic = some e)
    (f : Entry → Entry) : s.Changed (s.modEntry mic f) mic (f e) where
  only := rfl
  view := by
    obtain ⟨hmem, hmic⟩ := State.entry?_some he
    simp only [State.view, State.viewWith, State.modEntry, State.mapEntry, List.map_map]
    refine List.map_congr_left fun x hx => ?_
    by_cases hm : x.mic = mic
    · have : x = e := h.unique hx hmem (hm.trans hmic.symm)
      subst this
      simp [hm, Entry.untold]
    · simp [hm]
  sound := fun hs => hs.modEntry mic f

/-- A change and then hand-offs. -/
theorem State.Changed.told {s t u : State} {mic : Nat} {e : Entry} (h : s.Changed t mic e) (k : t.Told u) :
    s.Changed u mic e where
  only := by
    have h1 := h.only
    have h2 := k.only
    unfold State.onlyHandOffs at *
    rw [h2, h1]
  view := k.view.trans h.view
  sound := fun hs => k.sound (h.sound hs)

/-- Hand-offs and then a change. -/
theorem State.Told.changed {s t u : State} {mic : Nat} {e : Entry} (h : s.Told t) (k : t.Changed u mic e) :
    s.Changed u mic e where
  only := by
    have h1 := h.only
    have h2 := k.only
    unfold State.onlyHandOffs at *
    rw [h2, h1]
  view := by
    have hv := h.view
    have hw : ∀ v : State, v.viewWith mic e = v.view.map fun y => if y.mic = mic then e.untold else y := by
      intro v
      simp only [State.viewWith, State.view, List.map_map]
      refine List.map_congr_left fun x _ => ?_
      by_cases hm : x.mic = mic <;> simp [hm]
    rw [k.view, hw t, hw s, hv]
  sound := fun hs => k.sound (h.sound hs)

/-- Two changes of one entry are the later one. -/
theorem State.Changed.trans {s t u : State} {mic : Nat} {e f : Entry} (he : e.mic = mic) (h : s.Changed t mic e)
    (k : t.Changed u mic f) : s.Changed u mic f where
  only := by
    have h1 := h.only
    have h2 := k.only
    unfold State.onlyHandOffs at *
    rw [h2, h1]
  view := by
    have hv := h.view
    have hw : ∀ v : State, v.viewWith mic f = v.view.map fun y => if y.mic = mic then f.untold else y := by
      intro v
      simp only [State.viewWith, State.view, List.map_map]
      refine List.map_congr_left fun x _ => ?_
      by_cases hm : x.mic = mic <;> simp [hm]
    rw [k.view, hw t, hv]
    simp only [State.viewWith, List.map_map]
    refine List.map_congr_left fun x _ => ?_
    by_cases hm : x.mic = mic <;> simp [hm, he]
  sound := fun hs => k.sound (h.sound hs)

/-- The entry found after a change, up to what the view leaves out. -/
theorem State.Changed.entry? {s t : State} {mic : Nat} {e : Entry} (h : s.Changed t mic e) (he : e.mic = mic)
    (hs : (s.entry? mic).isSome) : (t.entry? mic).map Entry.untold = some e.untold := by
  have hfind : ∀ v : State, (v.entry? mic).map Entry.untold = v.view.find? fun y => y.mic == mic := by
    intro v
    simp only [State.entry?, State.view, List.find?_map]
    rfl
  rw [hfind, h.view]
  obtain ⟨x, hx⟩ := Option.isSome_iff_exists.mp hs
  obtain ⟨hmem, hmic⟩ := State.entry?_some hx
  simp only [State.viewWith, List.find?_map]
  have : s.table.find? ((fun y : Entry => y.mic == mic) ∘ fun x => (if x.mic = mic then e else x).untold) = some x := by
    have heq : ((fun y : Entry => y.mic == mic) ∘ fun x => (if x.mic = mic then e else x).untold) =
        fun y : Entry => y.mic == mic := by
      funext y
      by_cases hm : y.mic = mic <;> simp [hm, he]
    rw [heq]
    exact hx
  rw [this]
  simp [hmic]

/-- A change leaves the table lawful when it keeps the mic ID. -/
theorem State.Changed.table {s t : State} {mic : Nat} {e : Entry} (h : s.Changed t mic e) (he : e.mic = mic)
    (hT : TableLaw s) : TableLaw t := by
  have hm : t.mics = s.mics := by
    have hv : ∀ u : State, u.mics = u.view.map Entry.mic := by
      intro u
      simp only [State.mics, State.view, List.map_map]
      rfl
    rw [hv t, h.view]
    simp only [State.viewWith, State.mics, List.map_map]
    refine List.map_congr_left fun x _ => ?_
    by_cases hx : x.mic = mic <;> simp [hx, he]
  have hi : t.intake = s.intake := by
    have h1 := h.only
    unfold State.onlyHandOffs at h1
    rw [h1]
  refine ⟨by rw [hm]; exact hT.ascending, ?_, ?_, by rw [hi]; exact hT.queuedSeats⟩
  · have := congrArg List.length hm
    simp only [State.mics, List.length_map] at this
    rw [this]
    exact hT.atMost96
  · intro x hx
    have : x.mic ∈ s.mics := hm ▸ List.mem_map_of_mem hx
    obtain ⟨y, hy, hxy⟩ := List.mem_map.mp this
    rw [← hxy]
    exact hT.seats y hy

/-! ## Inputs (R58) -/

/-- An input given to a lawful table's entry steps that record and nothing else. -/
theorem State.giveInput_changed {s : State} (h : TableLaw s) {mic : Nat} {e : Entry} (he : s.entry? mic = some e)
    (k : Kind) : s.Changed (s.giveInput mic k) mic
      (e.setRecord k ((e.record k).step s.params s.now k (s.input k e))) := by
  simp only [State.giveInput, he]
  exact State.modEntry_changed h he fun x => x.setRecord k ((x.record k).step s.params s.now k (s.input k e))

/-! ## Cues (R161) -/

theorem State.offerCue_told (c : Cue) (s : State) : s.Told (s.offerCue c) := by
  unfold State.offerCue
  split <;> exact ⟨rfl, rfl, id⟩

/-- A cue selection changes the cue pattern and refresh timer of its entry as R161 states. -/
theorem State.selectCue_changed {s : State} (h : TableLaw s) {mic : Nat} {e : Entry} (he : s.entry? mic = some e) :
    s.Changed (s.selectCue mic) mic (s.recued e) := by
  simp only [State.selectCue, he, State.recued]
  split
  · split
    · refine ⟨rfl, ?_, id⟩
      obtain ⟨hmem, hmic⟩ := State.entry?_some he
      simp only [State.view, State.viewWith]
      refine List.map_congr_left fun x hx => ?_
      by_cases hm : x.mic = mic
      · simp [h.unique hx hmem (hm.trans hmic.symm)]
      · simp [hm]
    · refine State.Changed.told (t := s.modEntry mic fun x => { x with
        cue := cuePattern x
        cueRefresh := if cuePattern x = 0 then .stopped else s.after s.params.cueRefreshMs }) ?_ (State.offerCue_told _ _)
      exact State.modEntry_changed h he fun x => { x with
        cue := cuePattern x
        cueRefresh := if cuePattern x = 0 then .stopped else s.after s.params.cueRefreshMs }
  · exact State.modEntry_changed h he fun x => { x with cue := 0, cueRefresh := .stopped }

/-! ## Roles (R117, R118) -/

@[simp] theorem State.recued_mic (s : State) (e : Entry) : (s.recued e).mic = e.mic := by
  unfold State.recued
  split
  · split <;> rfl
  · rfl

end Sys2Proof.Machine
end

