-- ==== Sys2Proof/Laws/Outputs.lean ====
section
/-! SUPPORT. Generators, cues, counters and timers: what a selection, an offer, a count and a pause can do (R163, R167, R171,
R172). -/

namespace Sys2Proof.Machine

/-! ## Timers and counters -/

/-- A due timer is running. -/
theorem Timer.isRunning_of_isDue {t : Timer} {now : Nat} (h : t.isDue now = true) : t.isRunning = true := by
  cases t <;> simp_all [Timer.isDue, Timer.isRunning]

/-- A counter counts one event more, up to its limit. -/
theorem satAdd_one_le (limit n : Nat) (h : n ≤ limit) : n ≤ satAdd limit n 1 ∧ satAdd limit n 1 ≤ limit := by
  unfold satAdd; omega

@[simp] theorem Timer.resume_pause (now later due : Nat) :
    (Timer.running due |>.pause now).resume later = .running (later + (due - now)) := rfl

/-! ## Generators -/

/-- The pattern a generator begins at once is lawful and is its target (R167, R171). -/
theorem Generator.show_lawful (p : Params) (now pat : Nat) :
    (Generator.show p now pat).Lawful ∧ (Generator.show p now pat).target = pat := by
  unfold Generator.show
  split
  · subst_vars
    refine ⟨?_, rfl⟩
    constructor <;> simp [Timer.isRunning, Generator.blinking]
  · split
    · subst_vars
      refine ⟨?_, rfl⟩
      constructor <;> simp [Timer.isRunning, Generator.blinking]
    · refine ⟨?_, rfl⟩
      constructor <;> simp_all [Timer.isRunning, Generator.blinking]

/-- A selection leaves a lawful generator lawful, with the selected pattern shown or staged (R171). -/
theorem Generator.Lawful.select {g : Generator} (h : g.Lawful) (p : Params) (now pat : Nat) :
    (g.select p now pat).Lawful ∧ (g.select p now pat).target = pat := by
  unfold Generator.select
  split
  · rename_i hb
    by_cases he : pat = g.pattern
    · subst he
      simp only [if_true]
      refine ⟨⟨h.dark, h.steady, ?_, ?_, ?_⟩, rfl⟩
      · exact h.timer
      · simp
      · simp
    · simp only [he, if_false]
      refine ⟨⟨h.dark, h.steady, h.timer, fun _ => hb, ?_⟩, rfl⟩
      simpa using he
  · rename_i hb
    have hs : g.staged = none := by
      by_contra hne
      exact hb (h.staged (Option.isSome_iff_ne_none.mpr hne))
    split
    · rename_i he
      exact ⟨h, by simp [Generator.target, hs, he]⟩
    · exact Generator.show_lawful p now pat

/-- The expiry of a phase timer leaves a lawful generator lawful and its target as it was (R172). -/
theorem Generator.Lawful.phaseEnd {g : Generator} (h : g.Lawful) (p : Params) (now : Nat) :
    (g.phaseEnd p now).Lawful ∧ (g.phaseEnd p now).target = g.target := by
  unfold Generator.phaseEnd
  obtain ⟨hd, hst, ht, hg, hf⟩ := h
  cases hp : g.phase with
  | dark => exact ⟨⟨hd, hst, ht, hg, hf⟩, rfl⟩
  | steady => exact ⟨⟨hd, hst, ht, hg, hf⟩, rfl⟩
  | on =>
    refine ⟨?_, rfl⟩
    constructor <;> simp_all [Generator.blinking, Timer.isRunning]
  | off =>
    cases hs : g.staged with
    | none =>
      refine ⟨?_, by simp [Generator.target, hs]⟩
      constructor <;> simp_all [Generator.blinking, Timer.isRunning]
    | some pat =>
      have := Generator.show_lawful p now pat
      simpa [Generator.target, hs] using this

theorem Generator.dark_lawful : Generator.dark.Lawful := by
  constructor <;> simp [Generator.dark, Timer.isRunning, Generator.blinking]

/-! ## The cue queue (R163) -/

/-- What an offer can do: the same microphone's cue takes the pattern in place; or the cue joins the tail; or it is dropped. -/
theorem placeCue_cases (c : Cue) (q : List Cue) :
    ((∃ x ∈ q, x.mic = c.mic) ∧ placeCue c q = some (q.map fun x => if x.mic = c.mic then c else x)) ∨
    ((∀ x ∈ q, x.mic ≠ c.mic) ∧ q.length < cueMax ∧ placeCue c q = some (q ++ [c])) ∨
    ((∀ x ∈ q, x.mic ≠ c.mic) ∧ cueMax ≤ q.length ∧ placeCue c q = none) := by
  unfold placeCue
  by_cases h : ∃ x ∈ q, x.mic = c.mic
  · have hy : (q.any fun x => x.mic == c.mic) = true := by simpa using h
    exact .inl ⟨h, by simp [hy]⟩
  · have hn : (q.any fun x => x.mic == c.mic) = false := by
      simpa using h
    push Not at h
    by_cases hl : q.length < cueMax
    · exact .inr (.inl ⟨h, hl, by simp [hn, hl]⟩)
    · exact .inr (.inr ⟨h, by omega, by simp [hn, hl]⟩)

/-- A placed cue keeps the bound of the queue and one cue for a microphone. -/
theorem placeCue_some {c : Cue} {q r : List Cue} (h : placeCue c q = some r) (hl : q.length ≤ cueMax)
    (ho : q.Pairwise fun a b => a.mic ≠ b.mic) : r.length ≤ cueMax ∧ r.Pairwise fun a b => a.mic ≠ b.mic := by
  rcases placeCue_cases c q with ⟨-, he⟩ | ⟨hn, hlt, he⟩ | ⟨-, -, he⟩
  · obtain rfl : q.map (fun x => if x.mic = c.mic then c else x) = r := by simpa [he] using h
    refine ⟨by simpa using hl, ?_⟩
    rw [List.pairwise_map]
    refine ho.imp fun {a b} hab => ?_
    by_cases ha : a.mic = c.mic <;> by_cases hb : b.mic = c.mic <;> simp_all
  · obtain rfl : q ++ [c] = r := by simpa [he] using h
    refine ⟨by simp; omega, ?_⟩
    rw [List.pairwise_append]
    exact ⟨ho, by simp, by simpa using hn⟩
  · simp [he] at h

/-- An offer changes the cue queue, or counts one drop. -/
theorem State.offerCue_cases (c : Cue) (s : State) :
    (∃ q, placeCue c s.cueQueue = some q ∧ s.offerCue c = { s with cueQueue := q }) ∨
    (placeCue c s.cueQueue = none ∧ s.offerCue c = s.count .cuesDropped) := by
  unfold State.offerCue
  cases h : placeCue c s.cueQueue with
  | none => exact .inr ⟨rfl, rfl⟩
  | some q => exact .inl ⟨q, rfl, rfl⟩

end Sys2Proof.Machine
end

