-- ==== Sys2Proof/WellFormed.lean ====
section
/-! DEFINITION. Which commands are well formed: operands within the ranges the spec gives them. The meanings are total and
do not rest on these checks: a command that names nothing the part holds changes nothing (notes/assumptions/2.md). -/

namespace Sys2Proof

/-- Mic IDs are seat numbers 1 to 480 (00_scope.md section 4.3). -/
def micInRange (mic : Nat) : Bool := 1 ≤ mic && mic ≤ 480

/-- Station numbers are 0 to 15 (00_scope.md section 4.3). -/
def stationInRange (n : Nat) : Bool := n ≤ 15

/-- The operand checks, per command. -/
def Instr.wellFormed : Instr → Bool
  | .start _ => true
  | .loadBegin _ => true
  | .areaReadComplete none => true
  | .areaReadComplete (some bytes) => bytes.length == 128
  | .areaReadTimeout => true
  | .strobeAsserted => true
  | .recordCompletion _ => true
  | .feedSilenceExpiry => true
  | .sightingTaken through => 1 ≤ through && through ≤ 9
  | .lossTimerExpiry mic => micInRange mic
  | .forgetTimerExpiry mic => micInRange mic
  | .lostForgetExpiry mic => micInRange mic
  | .epochTimerExpiry mic => micInRange mic
  | .staleTimerExpiry mic => micInRange mic
  | .persistenceTimerExpiry mic _ => micInRange mic
  | .repeatTimerExpiry mic _ => micInRange mic
  | .zoneRepeatTimerExpiry => true
  | .stationRepeatTimerExpiry => true
  | .floorTimerExpiry => true
  | .absenceTimerExpiry n => stationInRange n
  | .claimExpiry mic n => micInRange mic && (1 ≤ n && stationInRange n)
  | .pendingTimerExpiry mic => micInRange mic
  | .takeoverTimerExpiry mic => micInRange mic
  | .claimRoundTimerExpiry => true
  | .cueRefreshExpiry mic => micInRange mic
  | .cueTransferStart _ => true
  | .cueTransferComplete => true
  | .phaseTimerExpiry _ => true
  | .joiningTimerExpiry => true
  | .integrityWindowExpiry => true
  | .lineIdle => true
  | .lineActivity => true
  | .slotBoundary => true
  | .frameSent => true
  | .collision => true
  | .frameCompletion bits gap _ => bits.head? == some false && 2 < gap
  | .claimTaken => true
  | .warnTaken => true
  | .floorTaken => true
  | .ackTaken => true
  | .entryQuery => true
  | .statsQuery => true
  | .restart => true
  | .peerReportTaken => true

end Sys2Proof
end

