-- ==== Sys2Proof/Laws/PerInstr.lean ====
section
/-! SUPPORT. Per-command facts about syntax: which operands well-formedness constrains, and that it constrains nothing else. -/

namespace Sys2Proof.Laws.Operands

/-- The mic ID a command names. -/
def micOf : Instr → Option Nat
  | .start _ => none
  | .loadBegin _ => none
  | .areaReadComplete _ => none
  | .areaReadTimeout => none
  | .strobeAsserted => none
  | .recordCompletion _ => none
  | .feedSilenceExpiry => none
  | .sightingTaken _ => none
  | .lossTimerExpiry mic => some mic
  | .forgetTimerExpiry mic => some mic
  | .lostForgetExpiry mic => some mic
  | .epochTimerExpiry mic => some mic
  | .staleTimerExpiry mic => some mic
  | .persistenceTimerExpiry mic _ => some mic
  | .repeatTimerExpiry mic _ => some mic
  | .zoneRepeatTimerExpiry => none
  | .stationRepeatTimerExpiry => none
  | .floorTimerExpiry => none
  | .absenceTimerExpiry _ => none
  | .claimExpiry mic _ => some mic
  | .pendingTimerExpiry mic => some mic
  | .takeoverTimerExpiry mic => some mic
  | .claimRoundTimerExpiry => none
  | .cueRefreshExpiry mic => some mic
  | .cueTransferStart _ => none
  | .cueTransferComplete => none
  | .phaseTimerExpiry _ => none
  | .joiningTimerExpiry => none
  | .integrityWindowExpiry => none
  | .lineIdle => none
  | .lineActivity => none
  | .slotBoundary => none
  | .frameSent => none
  | .collision => none
  | .frameCompletion _ _ _ => none
  | .claimTaken => none
  | .warnTaken => none
  | .floorTaken => none
  | .ackTaken => none
  | .entryQuery => none
  | .statsQuery => none
  | .restart => none
  | .peerReportTaken => none

/-- The station number a command names, and the least it may be: a roster slot is of any station, a claim never of station 0. -/
def stationOf : Instr → Option (Nat × Nat)
  | .start _ => none
  | .loadBegin _ => none
  | .areaReadComplete _ => none
  | .areaReadTimeout => none
  | .strobeAsserted => none
  | .recordCompletion _ => none
  | .feedSilenceExpiry => none
  | .sightingTaken _ => none
  | .lossTimerExpiry _ => none
  | .forgetTimerExpiry _ => none
  | .lostForgetExpiry _ => none
  | .epochTimerExpiry _ => none
  | .staleTimerExpiry _ => none
  | .persistenceTimerExpiry _ _ => none
  | .repeatTimerExpiry _ _ => none
  | .zoneRepeatTimerExpiry => none
  | .stationRepeatTimerExpiry => none
  | .floorTimerExpiry => none
  | .absenceTimerExpiry n => some (n, 0)
  | .claimExpiry _ n => some (n, 1)
  | .pendingTimerExpiry _ => none
  | .takeoverTimerExpiry _ => none
  | .claimRoundTimerExpiry => none
  | .cueRefreshExpiry _ => none
  | .cueTransferStart _ => none
  | .cueTransferComplete => none
  | .phaseTimerExpiry _ => none
  | .joiningTimerExpiry => none
  | .integrityWindowExpiry => none
  | .lineIdle => none
  | .lineActivity => none
  | .slotBoundary => none
  | .frameSent => none
  | .collision => none
  | .frameCompletion _ _ _ => none
  | .claimTaken => none
  | .warnTaken => none
  | .floorTaken => none
  | .ackTaken => none
  | .entryQuery => none
  | .statsQuery => none
  | .restart => none
  | .peerReportTaken => none

/-- The other operands: an area's answer has 128 bytes, a processing has nine steps, and a frame of the line begins with a start
bit and ends in a gap of more than 2 bit times. -/
def restGood : Instr → Prop
  | .start _ => True
  | .loadBegin _ => True
  | .areaReadComplete answer => ∀ bytes, answer = some bytes → bytes.length = 128
  | .areaReadTimeout => True
  | .strobeAsserted => True
  | .recordCompletion _ => True
  | .feedSilenceExpiry => True
  | .sightingTaken through => 1 ≤ through ∧ through ≤ 9
  | .lossTimerExpiry _ => True
  | .forgetTimerExpiry _ => True
  | .lostForgetExpiry _ => True
  | .epochTimerExpiry _ => True
  | .staleTimerExpiry _ => True
  | .persistenceTimerExpiry _ _ => True
  | .repeatTimerExpiry _ _ => True
  | .zoneRepeatTimerExpiry => True
  | .stationRepeatTimerExpiry => True
  | .floorTimerExpiry => True
  | .absenceTimerExpiry _ => True
  | .claimExpiry _ _ => True
  | .pendingTimerExpiry _ => True
  | .takeoverTimerExpiry _ => True
  | .claimRoundTimerExpiry => True
  | .cueRefreshExpiry _ => True
  | .cueTransferStart _ => True
  | .cueTransferComplete => True
  | .phaseTimerExpiry _ => True
  | .joiningTimerExpiry => True
  | .integrityWindowExpiry => True
  | .lineIdle => True
  | .lineActivity => True
  | .slotBoundary => True
  | .frameSent => True
  | .collision => True
  | .frameCompletion bits gap _ => bits.head? = some false ∧ 2 < gap
  | .claimTaken => True
  | .warnTaken => True
  | .floorTaken => True
  | .ackTaken => True
  | .entryQuery => True
  | .statsQuery => True
  | .restart => True
  | .peerReportTaken => True

/-- A command is well formed exactly when the mic ID it names is a seat number, the station it names is in its range, and its
other operands are as they must be. -/
def Statement (i : Instr) : Prop :=
  i.wellFormed = true ↔
    (∀ mic, micOf i = some mic → 1 ≤ mic ∧ mic ≤ 480) ∧
    (∀ n lo, stationOf i = some (n, lo) → lo ≤ n ∧ n ≤ 15) ∧ restGood i

/-- A command with no mic ID and no station to check. -/
theorem of_plain {i : Instr} (hw : i.wellFormed = true) (hm : micOf i = none) (hs : stationOf i = none) (hb : restGood i) :
    Statement i := by
  refine ⟨fun _ => ⟨fun mic h => ?_, fun n lo h => ?_, hb⟩, fun _ => hw⟩
  · rw [hm] at h; cases h
  · rw [hs] at h; cases h

/-- A command that names a microphone only. -/
theorem of_mic {i : Instr} {mic : Nat} (hw : i.wellFormed = micInRange mic) (hm : micOf i = some mic)
    (hs : stationOf i = none) (hb : restGood i) : Statement i := by
  have h : micInRange mic = true ↔ 1 ≤ mic ∧ mic ≤ 480 := by simp [micInRange]
  refine ⟨fun g => ⟨fun m e => ?_, fun n lo e => ?_, hb⟩, fun ⟨g, _, _⟩ => ?_⟩
  · rw [hm] at e; cases e; exact h.1 (hw ▸ g)
  · rw [hs] at e; cases e
  · rw [hw]; exact h.2 (g mic hm)

theorem start (cause : StartCause) : Statement (.start cause) :=
  of_plain rfl rfl rfl trivial
theorem loadBegin (straps : BitVec 4) : Statement (.loadBegin straps) :=
  of_plain rfl rfl rfl trivial
theorem areaReadComplete (answer : Option (List Byte)) : Statement (.areaReadComplete answer) := by
  cases answer <;> simp [Statement, Instr.wellFormed, micOf, stationOf, restGood]
theorem areaReadTimeout : Statement .areaReadTimeout :=
  of_plain rfl rfl rfl trivial
theorem strobeAsserted : Statement .strobeAsserted :=
  of_plain rfl rfl rfl trivial
theorem recordCompletion (bits : List Bool) : Statement (.recordCompletion bits) :=
  of_plain rfl rfl rfl trivial
theorem feedSilenceExpiry : Statement .feedSilenceExpiry :=
  of_plain rfl rfl rfl trivial
theorem sightingTaken (through : Nat) : Statement (.sightingTaken through) := by
  simp [Statement, Instr.wellFormed, micOf, stationOf, restGood]
theorem lossTimerExpiry (mic : Nat) : Statement (.lossTimerExpiry mic) :=
  of_mic rfl rfl rfl trivial
theorem forgetTimerExpiry (mic : Nat) : Statement (.forgetTimerExpiry mic) :=
  of_mic rfl rfl rfl trivial
theorem lostForgetExpiry (mic : Nat) : Statement (.lostForgetExpiry mic) :=
  of_mic rfl rfl rfl trivial
theorem epochTimerExpiry (mic : Nat) : Statement (.epochTimerExpiry mic) :=
  of_mic rfl rfl rfl trivial
theorem staleTimerExpiry (mic : Nat) : Statement (.staleTimerExpiry mic) :=
  of_mic rfl rfl rfl trivial
theorem persistenceTimerExpiry (mic : Nat) (kind : Kind) : Statement (.persistenceTimerExpiry mic kind) :=
  of_mic rfl rfl rfl trivial
theorem repeatTimerExpiry (mic : Nat) (kind : Kind) : Statement (.repeatTimerExpiry mic kind) :=
  of_mic rfl rfl rfl trivial
theorem zoneRepeatTimerExpiry : Statement .zoneRepeatTimerExpiry :=
  of_plain rfl rfl rfl trivial
theorem stationRepeatTimerExpiry : Statement .stationRepeatTimerExpiry :=
  of_plain rfl rfl rfl trivial
theorem floorTimerExpiry : Statement .floorTimerExpiry :=
  of_plain rfl rfl rfl trivial
theorem absenceTimerExpiry (station : Nat) : Statement (.absenceTimerExpiry station) := by
  simp [Statement, Instr.wellFormed, micOf, stationOf, restGood, stationInRange]
theorem claimExpiry (mic : Nat) (station : Nat) : Statement (.claimExpiry mic station) := by
  simp [Statement, Instr.wellFormed, micOf, stationOf, restGood, micInRange, stationInRange]
theorem pendingTimerExpiry (mic : Nat) : Statement (.pendingTimerExpiry mic) :=
  of_mic rfl rfl rfl trivial
theorem takeoverTimerExpiry (mic : Nat) : Statement (.takeoverTimerExpiry mic) :=
  of_mic rfl rfl rfl trivial
theorem claimRoundTimerExpiry : Statement .claimRoundTimerExpiry :=
  of_plain rfl rfl rfl trivial
theorem cueRefreshExpiry (mic : Nat) : Statement (.cueRefreshExpiry mic) :=
  of_mic rfl rfl rfl trivial
theorem cueTransferStart (crdy : Bool) : Statement (.cueTransferStart crdy) :=
  of_plain rfl rfl rfl trivial
theorem cueTransferComplete : Statement .cueTransferComplete :=
  of_plain rfl rfl rfl trivial
theorem phaseTimerExpiry (lamp : Lamp) : Statement (.phaseTimerExpiry lamp) :=
  of_plain rfl rfl rfl trivial
theorem joiningTimerExpiry : Statement .joiningTimerExpiry :=
  of_plain rfl rfl rfl trivial
theorem integrityWindowExpiry : Statement .integrityWindowExpiry :=
  of_plain rfl rfl rfl trivial
theorem lineIdle : Statement .lineIdle :=
  of_plain rfl rfl rfl trivial
theorem lineActivity : Statement .lineActivity :=
  of_plain rfl rfl rfl trivial
theorem slotBoundary : Statement .slotBoundary :=
  of_plain rfl rfl rfl trivial
theorem frameSent : Statement .frameSent :=
  of_plain rfl rfl rfl trivial
theorem collision : Statement .collision :=
  of_plain rfl rfl rfl trivial
theorem frameCompletion (bits : List Bool) (gap : Nat) (headMissed : Bool) : Statement (.frameCompletion bits gap headMissed) := by
  simp [Statement, Instr.wellFormed, micOf, stationOf, restGood]
theorem claimTaken : Statement .claimTaken :=
  of_plain rfl rfl rfl trivial
theorem warnTaken : Statement .warnTaken :=
  of_plain rfl rfl rfl trivial
theorem floorTaken : Statement .floorTaken :=
  of_plain rfl rfl rfl trivial
theorem ackTaken : Statement .ackTaken :=
  of_plain rfl rfl rfl trivial
theorem entryQuery : Statement .entryQuery :=
  of_plain rfl rfl rfl trivial
theorem statsQuery : Statement .statsQuery :=
  of_plain rfl rfl rfl trivial
theorem restart : Statement .restart :=
  of_plain rfl rfl rfl trivial
theorem peerReportTaken : Statement .peerReportTaken :=
  of_plain rfl rfl rfl trivial

end Sys2Proof.Laws.Operands
end

