-- ==== Sys2Proof/Laws/Processing.lean ====
section
/-! SUPPORT. A sighting's processing taken in parts (R33, R5), an acknowledgement that lets an entry go (R29), the roster's gate on
claims (R109), and the bytes of the line (R124). -/

namespace Sys2Proof.Machine

/-! ## A sighting in processing -/

@[simp] theorem State.underway_idle {s : State} (h : s.inProcessing = none) : s.underway = none := by
  simp [State.underway, h]

/-- The processing under way is the one State holds, in an entry that is there. -/
theorem State.underway_some {s : State} {p : Processing} (h : s.underway = some p) :
    s.inProcessing = some p ∧ ∃ e, s.entry? p.sighting.mic = some e := by
  unfold State.underway at h
  split at h
  · cases h
  · rename_i q hq
    split at h
    · cases h
    · cases h
      exact ⟨hq, Option.ne_none_iff_exists'.mp ‹_›⟩

/-- With its entry gone a processing does nothing further (R33). -/
theorem State.workThrough_gone {p : Processing} {s : State} (h : s.entry? p.sighting.mic = none) (first count : Nat) :
    s.workThrough p first count = s := by
  induction count generalizing first with
  | zero => rfl
  | succ n ih =>
    have hw : s.workOn p first = s := by simp [State.workOn, h]
    simp only [State.workThrough, hw, ih]

/-- A run of steps is a shorter run and the rest. -/
theorem State.workThrough_add (p : Processing) (first a b : Nat) (s : State) :
    s.workThrough p first (a + b) = (s.workThrough p first a).workThrough p (first + a) b := by
  induction a generalizing first s with
  | zero => simp [State.workThrough]
  | succ n ih =>
    rw [Nat.add_right_comm n 1 b]
    simp only [State.workThrough]
    rw [ih, Nat.add_right_comm first 1 n, Nat.add_assoc]

/-- A processing ends after its last step or with its entry; else it stands at the step reached. -/
theorem State.proceed_cases (through : Nat) (p : Processing) (s : State) :
    let done := max p.done (min through lastStep)
    let worked := s.workThrough p (p.done + 1) (done - p.done)
    (s.proceed through p).underway = none ∧ s.proceed through p = { worked with inProcessing := none } ∨
      done < lastStep ∧ s.proceed through p = { worked with inProcessing := some { p with done := done } } := by
  intro done worked
  by_cases h : lastStep ≤ done ∨ worked.entry? p.sighting.mic = none
  · have he : s.proceed through p = { worked with inProcessing := none } := by
      show { worked with inProcessing := if lastStep ≤ done ∨ worked.entry? p.sighting.mic = none then none else _ } = _
      rw [if_pos h]
    exact .inl ⟨by rw [he]; rfl, he⟩
  · refine .inr ⟨by omega, ?_⟩
    show { worked with inProcessing := if lastStep ≤ done ∨ worked.entry? p.sighting.mic = none then none else _ } = _
    rw [if_neg h]

/-! ## Claims of stations that are not there (R109) -/

/-- A claim of an ABSENT station is not entered. -/
theorem State.enterClaimFor_absent {s : State} {c : Claim} (h : s.hasPeer c.station = false) (mic : Nat) :
    s.enterClaimFor mic c = s := by
  unfold State.enterClaimFor
  split
  · rfl
  · simp [h]

/-- A claim is dropped, or it is entered and its station is PRESENT. -/
theorem State.enterClaimFor_cases (mic : Nat) (c : Claim) (s : State) :
    s.enterClaimFor mic c = s ∨ ∃ e l, s.entry? mic = some e ∧ s.hasPeer c.station = true ∧
      enterClaim s.params c e.claims = some l ∧
      s.enterClaimFor mic c = (s.modEntry mic fun e => { e with claims := l }).claimsChanged mic := by
  unfold State.enterClaimFor
  split
  · exact .inl rfl
  · rename_i e he
    by_cases hp : s.hasPeer c.station = true
    · simp only [hp, if_true]
      split
      · exact .inl rfl
      · rename_i l hl
        exact .inr ⟨e, l, he, trivial, hl, rfl⟩
    · simp [hp]

/-! ## Acknowledgements that let an entry go (R29) -/

/-- The hand-offs of a level's change: an entry that its acknowledgement lets go is removed, any other is handed on (R80). -/
theorem State.levelHandOff_cases (mic : Nat) (k : Kind) (s : State) :
    (s.entry? mic = none ∧ s.levelHandOff mic k = s) ∨ ∃ e, s.entry? mic = some e ∧
      ((k = .signal ∧ e.letGo = true ∧ s.levelHandOff mic k = s.removeEntry State.entryFault mic) ∨
        (¬(k = .signal ∧ e.letGo = true) ∧ s.levelHandOff mic k =
          (((if k = .signal then s.updateLost State.entryFault else s).selectCue mic).selectLamp (lampOf k)))) := by
  unfold State.levelHandOff
  split
  · exact .inl ⟨‹_›, rfl⟩
  · rename_i e he
    by_cases h : k = .signal ∧ e.letGo = true
    · exact .inr ⟨e, he, .inl ⟨h.1, h.2, if_pos h⟩⟩
    · exact .inr ⟨e, he, .inr ⟨h, if_neg h⟩⟩

/-! ## Bytes of the line (R124) -/

/-- Eight data bits make the byte they were taken from. -/
theorem lineByte_bits : ∀ b : Byte, lineByte (b.getLsbD 0) (b.getLsbD 1) (b.getLsbD 2) (b.getLsbD 3) (b.getLsbD 4) (b.getLsbD 5)
    (b.getLsbD 6) (b.getLsbD 7) = b := by decide

/-- A byte on the line, then its bits, is read whole and with no framing error of its own. -/
theorem assemble_lineBits (gap : Nat) (b : Byte) (rest : List Bool) :
    assemble gap (lineBits b ++ rest) = (b :: (assemble 0 rest).1, (assemble 0 rest).2) := by
  show (lineByte (b.getLsbD 0) (b.getLsbD 1) (b.getLsbD 2) (b.getLsbD 3) (b.getLsbD 4) (b.getLsbD 5) (b.getLsbD 6)
    (b.getLsbD 7) :: (assemble 0 rest).1, !true || (assemble 0 rest).2) = _
  rw [lineByte_bits]
  rfl

end Sys2Proof.Machine
end

