-- ==== Sys2Proof/Laws/Records.lean ====
section
/-! SUPPORT. The persistence machine (section 4): the laws of a record through each of its moves, and what a move leaves. -/

namespace Sys2Proof.Machine

/-! ## What a step on an input leaves (R60 to R66) -/

/-- A step on an input changes the state, the pending level and the persistence timer, and nothing else. -/
theorem Record.step_eq (p : Params) (now : Nat) (k : Kind) (i : Input) (r : Record) :
    r.step p now k i = { r with
      state := (r.step p now k i).state
      pending := (r.step p now k i).pending
      persist := (r.step p now k i).persist } := by
  unfold Record.step
  cases r.state <;> cases i <;> dsimp only <;> (repeat' split) <;> rfl

@[simp] theorem Record.step_level (p : Params) (now : Nat) (k : Kind) (i : Input) (r : Record) :
    (r.step p now k i).level = r.level := by rw [Record.step_eq]
@[simp] theorem Record.step_acked (p : Params) (now : Nat) (k : Kind) (i : Input) (r : Record) :
    (r.step p now k i).acked = r.acked := by rw [Record.step_eq]
@[simp] theorem Record.step_chamber (p : Params) (now : Nat) (k : Kind) (i : Input) (r : Record) :
    (r.step p now k i).chamber = r.chamber := by rw [Record.step_eq]
@[simp] theorem Record.step_repeatTimer (p : Params) (now : Nat) (k : Kind) (i : Input) (r : Record) :
    (r.step p now k i).repeatTimer = r.repeatTimer := by rw [Record.step_eq]
@[simp] theorem Record.step_repeats (p : Params) (now : Nat) (k : Kind) (i : Input) (r : Record) (role : Role) :
    (r.step p now k i).repeats role = r.repeats role := by simp [Record.repeats]

/-! ## The laws of a record -/

theorem Record.fresh_lawful : Record.fresh.Lawful := by
  constructor <;> simp [Record.fresh, Timer.isRunning]

/-- A record's laws hold after a step on any input (R60 to R66). -/
theorem Record.Lawful.step {r : Record} (h : r.Lawful) (p : Params) (now : Nat) (k : Kind) (i : Input) :
    (r.step p now k i).Lawful := by
  obtain ⟨hl, hp, ht, hr, ha, hs, hg⟩ := h
  unfold Record.step
  cases hst : r.state <;> cases i <;> dsimp only <;> (repeat' split) <;>
    constructor <;>
    simp_all [Record.toQuiet, Record.toActive, Record.toReleasing, Record.toShifting, Record.toQualifying, Timer.isRunning]

/-- The target of a waiting record is its pending level, which is not NONE. -/
theorem Record.Lawful.target {r : Record} (h : r.Lawful) (hst : r.state = .qualifying ∨ r.state = .shifting) :
    r.pending = some r.target ∧ r.target ≠ .none ∧ r.target ≠ r.level := by
  obtain ⟨l, hl⟩ := Option.isSome_iff_exists.mp (h.pending.mpr hst)
  have := h.toward l hl
  simp [Record.target, hl, this]

/-- A record's laws hold after a raise (R62). -/
theorem Record.Lawful.raised {r : Record} (h : r.Lawful) (hst : r.state = .qualifying) (now : Nat) :
    (r.raised now).Lawful := by
  obtain ⟨-, hn, -⟩ := h.target (.inl hst)
  constructor <;> simp [Record.raised, Record.toActive, Record.logged, Timer.isRunning, hn]
  all_goals simp_all

/-- A record's laws hold after a shift (R65). -/
theorem Record.Lawful.shifted {r : Record} (h : r.Lawful) (hst : r.state = .shifting) : r.shifted.Lawful := by
  obtain ⟨-, hn, -⟩ := h.target (.inr hst)
  have hl : r.level ≠ .none := by
    intro he
    have := h.level.mp he
    simp [hst] at this
  have hs := h.spell.mpr hl
  constructor <;> simp [Record.shifted, Record.toActive, Record.logged, Timer.isRunning, hn, hs]
  all_goals simp_all

/-- A record's laws hold after a release (R67). -/
theorem Record.Lawful.released {r : Record} (now : Nat) : (r.released now).Lawful := by
  constructor <;> simp [Record.released, Record.toQuiet, Timer.isRunning]

/-- A record's laws do not speak of what the chamber was told or of the repeat timer. -/
theorem Record.Lawful.untold_iff {r : Record} : r.untold.Lawful ↔ r.Lawful := by
  constructor <;> rintro ⟨hl, hp, ht, hr, ha, hs, hg⟩ <;> exact ⟨hl, hp, ht, hr, ha, hs, hg⟩

theorem Record.Lawful.treatRepeat {r : Record} (h : r.Lawful) (role : Role) (due : Nat) : (r.treatRepeat role due).Lawful :=
  ⟨h.level, h.pending, h.toward, h.timed, h.acked, h.spell, h.log⟩

theorem Record.Lawful.announced {r : Record} (h : r.Lawful) (l : Level) (a : Bool) : (r.announced l a).Lawful :=
  ⟨h.level, h.pending, h.toward, h.timed, h.acked, h.spell, h.log⟩

theorem Record.Lawful.forgotten {r : Record} (h : r.Lawful) : r.forgotten.Lawful :=
  ⟨h.level, h.pending, h.toward, h.timed, h.acked, h.spell, h.log⟩

/-- A record's laws hold after a matching ACK, whose level is not NONE (R70). -/
theorem Record.Lawful.acknowledge {r : Record} (h : r.Lawful) (hn : r.level ≠ .none) : r.acknowledge.Lawful :=
  ⟨h.level, h.pending, h.toward, h.timed, fun _ => hn, h.spell, h.log⟩

/-- A record's laws hold after a peer's WARN (R72). -/
theorem Record.Lawful.absorb {r : Record} (h : r.Lawful) (w : Warn) : (r.absorb w).Lawful := by
  unfold Record.absorb
  dsimp only
  split
  · rename_i hm
    have hn : r.level ≠ .none := by
      simp only [Record.matchesWarn, Bool.and_eq_true, decide_eq_true_eq] at hm
      exact hm.1.2 ▸ hm.2
    exact ⟨h.level, h.pending, h.toward, h.timed, fun _ => hn, h.spell, h.log⟩
  · exact ⟨h.level, h.pending, h.toward, h.timed, h.acked, h.spell, h.log⟩

/-! ## The repeat timer (R76) -/

/-- A treated repeat timer runs exactly while the conditions hold. -/
@[simp] theorem Record.treatRepeat_isRunning (r : Record) (role : Role) (due : Nat) :
    (r.treatRepeat role due).repeatTimer.isRunning = (r.treatRepeat role due).repeats role := by
  have hr : (r.treatRepeat role due).repeats role = r.repeats role := rfl
  rw [hr]
  unfold Record.treatRepeat
  cases r.repeats role <;> rfl

/-- No record repeats for a role other than REPORTER. -/
theorem Record.repeats_of_ne {r : Record} {role : Role} (h : role ≠ .reporter) : r.repeats role = false := by
  simp [Record.repeats, h]

end Sys2Proof.Machine
end

