-- ==== Sys2Proof/Tests/Slice0.lean ====
section
/-! SUPPORT. Tests on small states: the checks of well-formedness, the worked examples of the spec, at most two tests per command,
and for each statement with hypotheses a state and operands that meet them. -/

namespace Sys2Proof.Tests

open Sys2Proof Sys2Proof.Machine

/-! ## Well-formedness: each check refuses an ill-formed command -/

theorem test_wf_mic_zero : (Instr.lossTimerExpiry 0).wellFormed = false := by decide
theorem test_wf_mic_high : (Instr.forgetTimerExpiry 481).wellFormed = false := by decide
theorem test_wf_lostForget : (Instr.lostForgetExpiry 481).wellFormed = false := by decide
theorem test_wf_epoch : (Instr.epochTimerExpiry 0).wellFormed = false := by decide
theorem test_wf_stale : (Instr.staleTimerExpiry 481).wellFormed = false := by decide
theorem test_wf_persistence : (Instr.persistenceTimerExpiry 0 .mute).wellFormed = false := by decide
theorem test_wf_repeat : (Instr.repeatTimerExpiry 481 .signal).wellFormed = false := by decide
theorem test_wf_pending : (Instr.pendingTimerExpiry 0).wellFormed = false := by decide
theorem test_wf_takeover : (Instr.takeoverTimerExpiry 481).wellFormed = false := by decide
theorem test_wf_cueRefresh : (Instr.cueRefreshExpiry 0).wellFormed = false := by decide
theorem test_wf_absence : (Instr.absenceTimerExpiry 16).wellFormed = false := by decide
theorem test_wf_claim_mic : (Instr.claimExpiry 481 3).wellFormed = false := by decide
theorem test_wf_claim_station : (Instr.claimExpiry 7 0).wellFormed = false := by decide
theorem test_wf_area : (Instr.areaReadComplete (some [0xC6#8])).wellFormed = false := by decide
theorem test_wf_frame : (Instr.frameCompletion [true] 3 false).wellFormed = false := by decide
theorem test_wf_gap : (Instr.frameCompletion [false] 2 false).wellFormed = false := by decide
theorem test_wf_sighting_none : (Instr.sightingTaken 0).wellFormed = false := by decide
theorem test_wf_sighting_past : (Instr.sightingTaken 10).wellFormed = false := by decide
theorem test_wf_edges : (Instr.claimExpiry 480 15).wellFormed = true ∧ (Instr.absenceTimerExpiry 0).wellFormed = true := by decide

/-! ## States to test on -/

/-- The state a command leaves. -/
def after (c : Instr) (s : State) : State :=
  match exec c s with
  | .next t => t
  | .fault _ => s
  | .refused _ => s

/-- Station 5, RUNNING at 100 000 ms, the feed LIVE, the line IDLE for nobody, no entry. -/
def running : State :=
  { State.reset with
    now := 100000
    station := .running
    number := 5
    load := .done
    source := .site
    feedTimer := .running 100900
    claimRound := .running 100000
    stationRepeat := .running 105000
    access := .busy
    lampStation := ⟨7, .steady, .stopped, none⟩ }

/-- A HEARD entry that this station reports, last heard 1500 ms ago. -/
def heard (mic : Nat) : Entry where
  mic := mic
  presence := .heard
  lastLocal := 98500
  sightings := 3
  gapVoid := false
  longestGap := 200
  loss := .running 100000
  forget := .running 100000
  lostForget := .stopped
  qs := 150
  qf := 150
  history := [false, false, false]
  q := 150
  mute := .unknown
  muteCand := .none
  battery := Battery.fresh
  band := .none
  claims := []
  role := .reporter
  pendingTimer := .stopped
  takeover := .stopped
  recBattery := Record.fresh
  recMute := Record.fresh
  recSignal := Record.fresh
  cue := 0
  cueRefresh := .stopped
  checkGood := true

/-- `running` with one entry. -/
def one (e : Entry) : State := { running with table := [e] }

/-- The entry of mic 7 after a command. -/
def left (c : Instr) (s : State) : Option Entry := (after c s).entry? 7

/-- A record ACTIVE at a level, raised at 90 000 ms. -/
def active (l : Level) : Record :=
  { Record.fresh with
    state := .active
    level := l
    logLower := decide (l = .lower)
    logHigher := decide (l = .higher)
    spellStart := some 90000
    raiseCount := 1
    repeatTimer := .running 100000 }

/-- A claim of another station, 1000 ms old. -/
def claimOf (station q : Nat) (reporter : Bool) : Claim := ⟨station, q, reporter, 99000⟩

/-! ## Worked examples of the spec -/

/-- R126: "the nine bytes 31H to 39H give 29B1H". -/
theorem test_crc_check : crc16 [0x31#8, 0x32#8, 0x33#8, 0x34#8, 0x35#8, 0x36#8, 0x37#8, 0x38#8, 0x39#8] = 0x29B1#16 := by decide +kernel

/-- Sections 1.7 and 1.7.1: the sightings of microphone 214. -/
def sightingOf (arrival : Nat) (rssi : Int) (err : Bool) : Sighting := ⟨arrival, 214, clampRssi rssi, err, none, none, false⟩

/-- The quality and gap fields: qs, qf, Q and the longest gap. -/
def measures (e : Entry) : List Nat := [e.qs, e.qf, e.q, e.longestGap]

def track (e : Entry) : List Sighting → List (List Nat)
  | [] => []
  | g :: rest => measures ((e.quality false g).gap false g) :: track ((e.quality false g).gap false g) rest

def first214 : Entry :=
  (({ heard 214 with history := [] }).quality true (sightingOf 10000 (-58) false)).gap true (sightingOf 10000 (-58) false)

theorem test_quality_first : measures first214 = [126, 126, 126, 0] := by decide
theorem test_quality_table :
    track first214 [sightingOf 10020 (-60) true, sightingOf 10040 (-35) false, sightingOf 10310 (-118) false,
      sightingOf 10330 (-62) true, sightingOf 10350 (-62) false, sightingOf 10370 (-62) false] =
    [[120, 125, 115, 20], [195, 142, 132, 20], [0, 107, 97, 270], [114, 108, 88, 270], [114, 109, 89, 270],
      [114, 110, 90, 270]] := by decide
theorem test_quality_rests : truncStep 111 114 4 = 111 := by decide

/-- Section 3.8: the epoch ends of microphone 305 at 1200 s to 1440 s. Each Vf is the table's. -/
def cellAt (vf : Nat) (c : Cell) : Cell := { c with vf := vf, charge := chargeOf defaultCurve vf }

def drain (b : Battery) (c : Cell) : List Nat → List (Nat × Nat × Option Nat × Level)
  | [] => []
  | vf :: rest =>
    let b' := b.endEpoch defaultParams 0 (cellAt vf c)
    match b'.cell with
    | some c' => (c'.charge, c'.rate, b'.minutes, b'.cand) :: drain b' c' rest
    | none => []

def drained : Battery := { Battery.fresh with epochCount := 15, minutes := some 32 }

theorem test_battery_drains :
    drain drained ⟨3555, 3555, 130, 130, 64⟩ [3555, 3551, 3547, 3545, 3539] =
    [(126, 64, some 31, .none), (121, 68, some 28, .lower), (117, 67, some 27, .lower), (116, 55, some 33, .lower),
      (112, 57, some 31, .lower)] := by decide
theorem test_battery_knee :
    drain { drained with minutes := some 8, cand := .lower } ⟨3390, 3390, 31, 31, 57⟩ [3384, 3378, 3369] =
    [(28, 55, some 8, .lower), (26, 50, some 8, .lower), (23, 50, some 7, .higher)] := by decide

/-- Section 3.9: a seed at 3310 mV and eleven samples of 3290 mV. -/
def samples (b : Battery) : Nat → Battery
  | 0 => b
  | n + 1 => samples (b.sample defaultParams 0 39) n

theorem test_filter_at_cutoff :
    [0, 1, 4, 7, 8, 11].map (fun n =>
      let b := samples (Battery.fresh.sample defaultParams 0 41) n
      (b.cell.map Cell.vf, b.cell.map Cell.charge, b.cand)) =
    [(some 3310, some 3, .lower), (some 3308, some 2, .lower), (some 3303, some 1, .lower), (some 3300, some 0, .lower),
      (some 3299, some 0, .higher), (some 3297, some 0, .higher)] := by decide

/-- Section 3.10: the swap at the epoch end at 3060 s. -/
theorem test_battery_swap :
    let b := ({ drained with minutes := some 0, cand := .higher }).endEpoch defaultParams 0 ⟨4150, 4143, 973, 0, 57⟩
    (b.cell, b.epochCount, b.minutes, b.cand) = (some ⟨4150, 4150, 980, 980, 40⟩, 0, none, .none) := by decide

/-- Section 4.7.3: settled at CRITICAL with M 24, a sample that brings Vf to 3350 makes the candidate LOW, and one that brings it to
3348 does not (log 39). -/
theorem test_battery_recovers :
    let at_ := fun vf => ({ drained with
      cell := some ⟨vf, vf, 0, 20, 57⟩, minutes := some 24, cand := .higher }).sample defaultParams 0 51
    [at_ 3342, at_ 3340].map (fun b => (b.cell.map Cell.vf, b.cand)) = [(some 3350, .lower), (some 3348, .higher)] := by decide

/-- Section 5.6.1: the list 102, 0, 57, 102, 612, 57. -/
theorem test_floor_list : floorSetOf [102, 0, 57, 102, 612, 57] = [57, 102] := by decide

/-- Section 7.7: the claim list of microphone 300 at station 9. -/
def list300 : List Claim := [⟨4, 140, true, 0⟩, ⟨11, 150, false, 0⟩, ⟨2, 120, false, 0⟩]

def scores (l : Option (List Claim)) : Option (List (Nat × Nat)) :=
  l.map fun m => m.map fun c => (c.station, c.score defaultParams)

theorem test_claim_list_evicts : scores (enterClaim defaultParams ⟨7, 130, false, 0⟩ list300) = some [(4, 152), (11, 150), (7, 130)] := by
  decide
theorem test_claim_list_drops :
    enterClaim defaultParams ⟨13, 125, false, 0⟩ [⟨4, 140, true, 0⟩, ⟨11, 150, false, 0⟩, ⟨7, 130, false, 0⟩] = none := by decide
theorem test_claim_list_replaces :
    scores (enterClaim defaultParams ⟨11, 160, false, 0⟩ [⟨4, 140, true, 0⟩, ⟨11, 150, false, 0⟩, ⟨7, 130, false, 0⟩]) =
    some [(11, 160), (4, 152), (7, 130)] := by decide
theorem test_claim_list_ties :
    scores (enterClaim defaultParams ⟨2, 130, false, 0⟩ [⟨11, 160, false, 0⟩, ⟨4, 140, true, 0⟩, ⟨7, 130, false, 0⟩]) =
    some [(11, 160), (4, 152), (2, 130)] := by decide

/-- Section 7.6: own 177 against 177 of station 5, at station 3. -/
theorem test_role_tie : reporterWins defaultParams 3 177 [⟨5, 165, true, 0⟩] = true ∧ reporterWins defaultParams 6 177 [⟨5, 165, true, 0⟩] = false := by
  decide

/-- Section 8.5.1: the header bits of the two frames, least significant first, and the first difference. -/
def header (n kind : Nat) : List Bool := [0, 1, 2, 3, 4, 5, 6, 7].map fun i => (byte (16 * n + kind)).getLsbD i

theorem test_headers_meet :
    header 15 3 = [true, true, false, false, true, true, true, true] ∧
    header 7 2 = [false, true, false, false, true, true, true, false] ∧
    firstMismatch (header 15 3) (List.zipWith wiredAnd (header 15 3) (header 7 2)) = some 0 := by decide

def stationReport : StationReport := ⟨.running, .notInForce, 0, .site, false, none⟩

def warn188 : Warn := ⟨188, .battery, .lower, .raise, false, true, true, 150, 0, 1, some 28⟩

/-- Section 8.5: the access waits of the three head frames. -/
theorem test_access_waits :
    ({ running with number := 15, lastSender := true }).accessWait (.station stationReport) = 31 ∧
    ({ running with number := 7 }).accessWait (.warn warn188) = 31 ∧
    ({ running with number := 2 }).accessWait (.claim 0 []) = 98 := by decide

/-- Section 9.9, event 2: RAISE 70 joins class 1 behind the SHIFT, and the newest CLAIM gives way. -/
def pressed : List TxFrame :=
  [⟨.station stationReport, 0⟩, ⟨.warn { warn188 with mic := 30 }, 0⟩, ⟨.warn { warn188 with mic := 31, kind := .mute }, 0⟩,
   ⟨.warn { warn188 with mic := 41, reason := .shift }, 0⟩, ⟨.warn { warn188 with mic := 40, reason := .repeated }, 0⟩,
   ⟨.warn { warn188 with mic := 42, reason := .repeated }, 0⟩, ⟨.warn { warn188 with mic := 50, reason := .clear }, 0⟩,
   ⟨.warn { warn188 with mic := 51, reason := .clear }, 0⟩, ⟨.warn { warn188 with mic := 60, reason := .adopt }, 0⟩,
   ⟨.stats Counters.zero, 0⟩, ⟨.entry 77 none, 0⟩, ⟨.claim 1 [⟨1, 1, true⟩], 0⟩, ⟨.claim 1 [⟨2, 1, true⟩], 0⟩,
   ⟨.claim 1 [⟨3, 1, true⟩], 0⟩, ⟨.claim 1 [⟨4, 1, true⟩], 0⟩, ⟨.claim 1 [⟨5, 1, true⟩], 0⟩]

def classes (q : List TxFrame) : List Nat := [0, 1, 2, 3, 4].map fun c => q.countP fun t => t.frame.cls == c

theorem test_queue_under_pressure :
    let s := (({ running with tx := pressed, round := 1 }).submit (.warn { warn188 with mic := 70, kind := .signal })).1
    classes pressed = [1, 3, 5, 2, 5] ∧ classes s.tx = [1, 4, 5, 2, 4] ∧ s.counters.framesDropped = 1 ∧
    (s.tx.getD 4 ⟨.stats Counters.zero, 0⟩).frame.warnOf 70 = true ∧
    s.tx.all (fun t => decide (t.frame ≠ .claim 1 [⟨5, 1, true⟩])) = true := by decide +kernel

/-- Section 10.7: pattern 2 staged at 202 800 and applied at 204 000; 7 staged at 204 220 and applied at 204 300. -/
theorem test_staged_lamp :
    let g : Generator := ⟨1, .off, .running 204000, none⟩
    let staged := g.select defaultParams 202800 2
    let rapid := staged.phaseEnd defaultParams 204000
    let off := rapid.phaseEnd defaultParams 204150
    staged = ⟨1, .off, .running 204000, some 2⟩ ∧ rapid = ⟨2, .on, .running 204150, none⟩ ∧
    off = ⟨2, .off, .running 204300, none⟩ ∧
    (off.select defaultParams 204220 7).phaseEnd defaultParams 204300 = ⟨7, .steady, .stopped, none⟩ := by decide

/-- Section 11.6: the values the engineer entered, among the defaults, and their checks. -/
def values116 : List Nat :=
  [1000, 250, 30, 120, 60, 36, 6, 200, 5, 70, 45, 3300, 150, 20, 10000, 3000, 30000, 4000, 2000, 1000, 3000, 500, 2000, 10, 5, 90,
   6, 400, 12, 3]

def knots116 : List Knot :=
  [⟨3300, 0⟩, ⟨3450, 50⟩, ⟨3550, 120⟩, ⟨3650, 250⟩, ⟨3720, 400⟩, ⟨3800, 380⟩, ⟨3900, 700⟩, ⟨4020, 850⟩, ⟨4170, 1000⟩]

/-- The bytes of an area: tag, format, the parameters at their widths, the knots and the pattern times (section 12.3). -/
def be (width n : Nat) : List Byte :=
  match width with
  | 1 => [byte n]
  | 2 => word16 n
  | _ => byte (n / 65536) :: word16 (n % 65536)

def areaBody (values : List Nat) (knots : List Knot) : List Byte :=
  0xC6#8 :: 1#8 :: List.flatten (List.zipWith (fun (p : ParamSpec) v => be p.width v) paramSpecs values) ++
  knots.flatMap (fun k => word16 k.mV ++ word16 k.permille) ++ defaultPatterns.flatMap (fun c => word16 c.on ++ word16 c.off)

def fullBody (values : List Nat) (knots : List Knot) : List Byte :=
  let body := areaBody values knots
  body ++ List.replicate (126 - body.length) 0#8

def area116 : List Byte := fullBody values116 knots116 ++ word16 (crc16 (fullBody values116 knots116)).toNat

theorem test_area_length : (areaBody values116 knots116).length = 120 ∧ area116.length = 128 := by decide +kernel
/-- An area whose last two bytes are the CRC of its first 126 is good. -/
theorem areaGood_of (body : List Byte) (h : body.length = 126) (h0 : body.getD 0 0 = 0xC6#8) (h1 : body.getD 1 0 = 1#8) :
    areaGood (some (body ++ word16 (crc16 body).toNat)) = true := by
  have t : (body ++ word16 (crc16 body).toNat).take 126 = body := by rw [← h]; exact List.take_left
  have d : (body ++ word16 (crc16 body).toNat).drop 126 = word16 (crc16 body).toNat := by rw [← h]; exact List.drop_left
  have g0 : (body ++ word16 (crc16 body).toNat).getD 0 0 = 0xC6#8 := by
    rw [← h0]; exact List.getD_append _ _ _ _ (by omega)
  have g1 : (body ++ word16 (crc16 body).toNat).getD 1 0 = 1#8 := by
    rw [← h1]; exact List.getD_append _ _ _ _ (by omega)
  unfold areaGood
  simp only [t, d, g0, g1, List.length_append, h]
  rfl

theorem test_area_good : areaGood (some area116) = true :=
  areaGood_of (fullBody values116 knots116) (by decide +kernel) (by decide +kernel) (by decide +kernel)

theorem test_area_image :
    let im := imageOfArea area116
    im.clamps = 2 ∧ im.partialImage = true ∧ im.params.curve = defaultCurve ∧
    im.params = { defaultParams with claimInterval := 400, lossTime := 300, rateMin := 6, nominalRate := 36 } := by decide +kernel

/-! ## One small test for each command -/

/-- R183, R190: a start, and the 20 ms of a power-on. -/
theorem test_start : after (.start .reset) { one (heard 7) with pending := [.lineIdle] } =
    { State.reset with now := 100000, pending := [.lineIdle] } := by decide

/-- R183, R184: the straps read 0111B. -/
theorem test_loadBegin : after (.loadBegin 7#4) State.reset =
    { State.reset with number := 7, load := .reading .site 50 } := by decide

/-- R190: the power-on start lasts 20 ms, whatever RESET does in it. -/
theorem test_loadBegin_powerOn :
    let s := after (.start .reset) (after (.start .powerOn) { State.reset with now := 100 })
    (after (.loadBegin 7#4) { s with now := 119 }).load = .held ∧
    (after (.loadBegin 7#4) { s with now := 120 }).load = .reading .site 170 := by decide

/-- Section 11.6, at 12 ms: JOINING until 1212, SITE, partial, two clamps, the STATION lamp at pattern 5, ATTN deasserted. -/
theorem test_site_load :
    let t := ({ State.reset with now := 12, number := 7, load := .reading .site 50 }).completeLoad .site (imageOfArea area116)
    (t.station, t.joining, t.source, t.partialImage) = (.joining, .running 1212, .site, true) ∧
    (t.counters.configClamps, t.lampStation.pattern, t.attn, t.access) = (2, 5, false, .busy) := by decide +kernel

/-- R184, R182: two area reads time out, and the defaults assert ATTN. -/
theorem test_areaReadTimeout :
    let t := after .areaReadTimeout (after .areaReadTimeout { State.reset with number := 7, load := .reading .site 0 })
    t.load = .reading .factory 50 ∧
    (after .areaReadTimeout { State.reset with now := 50, number := 7, load := .reading .factory 50 }).source = .defaults ∧
    (after .areaReadTimeout { State.reset with now := 50, number := 7, load := .reading .factory 50 }).attn = true := by decide

/-- R184, R175: the memory does not answer. -/
theorem test_areaReadComplete :
    (after (.areaReadComplete none) { State.reset with number := 7, load := .reading .factory 50 }).station = .joining := by decide

/-- R1: a strobe period that begins in STARTING is not collected. -/
theorem test_strobeAsserted : (after .strobeAsserted State.reset).strobe = .unheard ∧
    (after .strobeAsserted running).strobe = .collecting [] := by decide

/-- The record of microphone 214: −58 dBm, MUTED, battery code 41 (section 12.1, laid out by hand). -/
def record214 : List Bool := [0x6B#8, 0x38#8, 0xC6#8, 0x29#8, 0#8, 0#8, 0#8, 0x6E#8].flatMap msbFirst

theorem test_recordCompletion :
    (after (.recordCompletion record214) { running with strobe := .collecting [] }).intake =
    [⟨100000, 214, -58, false, some true, some 41, false⟩] := by decide

/-- Section 1.7.1 and R178: 1000 ms of silence. -/
theorem test_feedSilenceExpiry :
    let t := after .feedSilenceExpiry { one (heard 7) with feedTimer := .running 100000, now := 100000 }
    (t.station, t.zone, t.attn, t.lampStation.pattern) = (.feedDown, .inForce .feed, true, 1) ∧
    (t.entry? 7).map Entry.loss = some (.paused 0) := by decide

/-- Section 2.12, row 0: taken at 40 000. -/
theorem test_sightingTaken :
    let t := after (.sightingTaken 9) { one (heard 7) with now := 40000, intake := [⟨40000, 7, -50, false, none, none, false⟩] }
    (t.entry? 7).map (fun e => (e.loss, e.forget, e.sightings)) = some (.running 41500, .running 70000, 4) ∧ t.intake = [] := by
  decide

/-- R20: a new microphone is admitted at its place. -/
theorem test_sightingTaken_new :
    let t := after (.sightingTaken 9) { one (heard 7) with intake := [⟨100000, 5, -58, false, none, none, false⟩] }
    t.mics = [5, 7] ∧ (t.entry? 5).map (fun e => (e.role, e.q, e.pendingTimer)) = some (.pending, 126, .running 101000) := by
  decide

/-- R54, R33: an epoch ends between the sample and the input of one sighting's processing. -/
theorem test_epoch_between_sample_and_input :
    let s := { one { heard 7 with battery := { drained with
        cell := some ⟨3551, 3551, 121, 126, 64⟩, minutes := some 31, epoch := .running 100000 } } with
      intake := [⟨100000, 7, -50, false, none, some 65, false⟩] }
    let sampled := after (.sightingTaken 3) s
    let ended := after (.epochTimerExpiry 7) sampled
    let done := after (.sightingTaken 9) ended
    (sampled.entry? 7).map (fun e => (e.battery.cand, e.recBattery.state)) = some (.none, .quiet) ∧
    (ended.entry? 7).map (fun e => (e.battery.cand, e.recBattery.state)) = some (.lower, .qualifying) ∧
    (done.entry? 7).map (fun e => e.recBattery.state) = some .qualifying ∧
    (sampled.underway.isSome, ended.underway.isSome, done.underway.isSome) = (true, true, false) := by decide

/-- Section 2.13, at 51 500. -/
theorem test_lossTimerExpiry :
    let e := left (.lossTimerExpiry 7) (one (heard 7))
    e.map (fun e => (e.presence, e.role, e.lostForget)) = some (.silent, .reporter, .running 220000) ∧
    e.map (fun e => (e.recSignal.state, e.recSignal.pending, e.recSignal.persist)) =
      some (.qualifying, some .higher, .running 100500) := by decide

/-- Section 2.12, row 8. -/
theorem test_forgetTimerExpiry :
    (after (.forgetTimerExpiry 7) (one { heard 7 with presence := .covered, claims := [claimOf 3 179 true] })).table = [] := by
  decide

/-- Section 2.13: unacknowledged the entry is held, acknowledged it goes. -/
theorem test_lostForgetExpiry :
    let e := { heard 7 with presence := .silent, lostForget := .running 100000, recSignal := active .higher }
    (left (.lostForgetExpiry 7) (one e)).map Entry.lostForget = some .expired ∧
    (after (.lostForgetExpiry 7) (one { e with recSignal := { active .higher with acked := true } })).table = [] := by decide

/-- Section 3.8, the end at 1260 s: LOW qualifies for 10 s. -/
def battery305 : Battery := { drained with
  cell := some ⟨3551, 3551, 121, 126, 64⟩, minutes := some 31, epoch := .running 100000, sampled := true }

theorem test_epochTimerExpiry :
    let e := left (.epochTimerExpiry 7) (one { heard 7 with battery := battery305 })
    e.map (fun e => (e.battery.minutes, e.battery.cand, e.recBattery.pending)) = some (some 28, .lower, some .lower) ∧
    e.map (fun e => e.recBattery.persist) = some (.running 110000) := by decide

/-- R42, R61: staleness ends a qualification. -/
def waiting (l : Level) : Record := { Record.fresh with state := .qualifying, pending := some l, persist := .running 100000 }

theorem test_staleTimerExpiry :
    let e := left (.staleTimerExpiry 7)
      (one { heard 7 with battery := { battery305 with stale := .running 100000 }, recBattery := waiting .lower })
    e.map (fun e => (e.battery.stale, e.recBattery.state)) = some (.expired, .quiet) := by decide

/-- Section 4.7.1, at 110 000. -/
theorem test_persistenceTimerExpiry :
    let s := one { heard 7 with recBattery := waiting .lower }
    let t := after (.persistenceTimerExpiry 7 .battery) s
    (t.entry? 7).map (fun e => (e.recBattery.state, e.recBattery.level, e.recBattery.raiseCount, e.recBattery.chamber)) =
      some (.active, .lower, 1, .told .lower) ∧
    (t.entry? 7).map (fun e => (e.recBattery.repeatTimer, e.cue)) = some (.running 110000, 1) ∧
    t.tx.map (·.frame) = [.warn ⟨7, .battery, .lower, .raise, false, true, true, 150, 0, 1, none⟩] ∧
    t.cueQueue = [⟨7, 1⟩] ∧ t.lampBattery.pattern = 1 := by decide

/-- R69, R29: the acknowledgement of LOST came while the record was SHIFTING toward it in a held SILENT entry. -/
theorem test_persistenceTimerExpiry_letGo :
    let r : Record := { active .lower with
      state := .shifting, pending := some .higher, persist := .running 100000, chamber := .told .higher, chamberAcked := true }
    (after (.persistenceTimerExpiry 7 .signal)
      (one { heard 7 with presence := .silent, lostForget := .expired, recSignal := r })).table = [] := by decide

/-- Section 4.7.2, at 174 500. -/
theorem test_repeatTimerExpiry :
    let t := after (.repeatTimerExpiry 7 .battery) (one { heard 7 with recBattery := active .higher })
    (t.entry? 7).map (fun e => e.recBattery.repeatTimer) = some (.running 110000) ∧
    t.tx.map (·.frame) = [.warn ⟨7, .battery, .higher, .repeated, false, true, true, 150, 10, 1, none⟩] := by decide +kernel

/-- Section 6.8.2, at 511 700. -/
theorem test_zoneRepeatTimerExpiry :
    let t := after .zoneRepeatTimerExpiry { running with zone := .inForce .count, zoneRepeat := .running 100000 }
    t.zoneRepeat = .running 110000 ∧ t.stationRepeat = .running 110000 ∧ t.tx.length = 1 := by decide

/-- R151: in LISTEN_ONLY the timer is stopped, so nothing is asked. -/
theorem test_stationRepeatTimerExpiry :
    (after .stationRepeatTimerExpiry { running with stationRepeat := .running 100000 }).tx =
      [⟨.station ⟨.running, .notInForce, 0, .site, false, none⟩, 0⟩] ∧
    (after .stationRepeatTimerExpiry { running with station := .listenOnly, stationRepeat := .stopped }).tx = [] := by decide

/-- R84, R88: STALE knowledge gives UNKNOWN. -/
theorem test_floorTimerExpiry :
    let t := after .floorTimerExpiry
      { one { heard 7 with mute := .open_, recMute := waiting .higher } with floor := .fresh, floorTimer := .running 100000 }
    t.floor = .stale ∧ (t.entry? 7).map (fun e => e.recMute.state) = some .quiet := by decide

/-- R107, R25, R113: the claim goes; a COVERED entry becomes SILENT, a HEARD follower REPORTER. -/
theorem test_absenceTimerExpiry :
    let s := { running with
      roster := State.reset.roster.set 3 (.present 100000)
      table := [{ heard 7 with presence := .covered, role := .follower, claims := [claimOf 3 179 true] },
        { heard 9 with role := .follower, claims := [claimOf 3 179 true] }] }
    let t := after (.absenceTimerExpiry 3) s
    (t.entry? 7).map Entry.presence = some .silent ∧ (t.entry? 9).map Entry.role = some .reporter ∧
    t.roster = State.reset.roster := by decide

/-- Section 7.7, the last expiry. -/
theorem test_claimExpiry :
    (left (.claimExpiry 7 2) (one { heard 7 with q := 118, role := .follower, claims := [claimOf 2 130 false] })).map
      (fun e => (e.role, e.claims)) = some (.reporter, []) := by decide

/-- R112: own Q without margin against the top claim. -/
theorem test_pendingTimerExpiry :
    let e := { heard 7 with role := .pending, pendingTimer := .running 100000, claims := [claimOf 3 150 false] }
    (left (.pendingTimerExpiry 7) (one e)).map Entry.role = some .follower ∧
    (left (.pendingTimerExpiry 7) { one e with number := 2 }).map Entry.role = some .reporter := by decide

/-- R116, R117: the loss is taken over and announced. -/
theorem test_takeoverTimerExpiry :
    let e := { heard 7 with presence := .silent, role := .follower, takeover := .running 100000, recSignal := active .higher }
    (after (.takeoverTimerExpiry 7) (one e)).tx.map (·.frame.lostWarn) = [true] ∧
    (after (.takeoverTimerExpiry 7) (one { e with recSignal := { active .higher with chamber := .told .higher } })).tx = [] := by
  decide

/-- R122: the pair of a HEARD entry. -/
theorem test_claimRoundTimerExpiry :
    (after .claimRoundTimerExpiry (one (heard 7))).tx = [⟨.claim 1 [⟨7, 150, true⟩], 0⟩] ∧
    (after .claimRoundTimerExpiry (one (heard 7))).claimRound = .running 100500 := by decide

/-- Section 10.7, at 205 800. -/
theorem test_cueRefreshExpiry :
    let t := after (.cueRefreshExpiry 7) (one { heard 7 with cue := 2, cueRefresh := .running 100000 })
    t.cueQueue = [⟨7, 2⟩] ∧ (t.entry? 7).map Entry.cueRefresh = some (.running 103000) := by decide

theorem test_cueTransferStart :
    let s := { running with cueQueue := [⟨7, 2⟩, ⟨9, 0⟩] }
    (after (.cueTransferStart true) s).cueTransfer = some ⟨7, 2⟩ ∧ after (.cueTransferStart false) s = s := by decide

theorem test_cueTransferComplete :
    (after .cueTransferComplete { running with cueTransfer := some ⟨7, 2⟩ }).counters.cuesSent = 1 := by decide

/-- Section 12.1: the cue word of mic 300, pattern 2, laid out by hand. -/
theorem test_cueWord : cueWord ⟨300, 2⟩ = [0x01#8, 0x2C#8, 0x02#8, 0xD1#8] := by decide

/-- Section 10.7, at 200 500. -/
theorem test_phaseTimerExpiry :
    (after (.phaseTimerExpiry .battery) { running with now := 200500, lampBattery := ⟨1, .on, .running 200500, none⟩ }).lampBattery =
      ⟨1, .off, .running 202000, none⟩ := by decide

/-- Section 11.6, at 1212. -/
theorem test_joiningTimerExpiry :
    let t := after .joiningTimerExpiry { running with station := .joining, joining := .running 100000, stationRepeat := .stopped }
    t.station = .running ∧ t.claimRound = .running 100500 ∧ t.tx.length = 1 := by decide

theorem test_integrityWindowExpiry :
    let s := { running with window := .running 100000, fault := some (.table 7) }
    (after .integrityWindowExpiry s).fault = none ∧
    (after .integrityWindowExpiry { s with fault := some .badId }).fault = some .badId := by decide

theorem test_lineIdle : (after .lineIdle running).access = .idle 0 := by decide

/-- Section 8.5.1: station 2's CLAIM is deferred. -/
theorem test_lineActivity :
    let t := after .lineActivity { running with access := .idle 30, tx := [⟨.claim 1 [⟨7, 150, true⟩], 0⟩] }
    t.access = .busy ∧ t.counters.framesDeferred = 1 ∧ t.tx.length = 1 := by decide

/-- Section 8.5: station 15's STATION frame goes at the boundary of slot 31, and not at 30. -/
theorem test_slotBoundary :
    let s := { running with number := 15, lastSender := true, access := .idle 30, tx := [⟨.station stationReport, 0⟩] }
    (after .slotBoundary s).access = .idle 31 ∧ (after .slotBoundary (after .slotBoundary s)).access = .sending := by decide

/-- Section 8.5.1: station 7's WARN completes. -/
theorem test_frameSent :
    let t := after .frameSent { running with access := .sending, inFlight := some ⟨.warn warn188, 0⟩ }
    (t.counters.framesSent, t.lastSender, t.access, t.inFlight) = (1, true, .busy, none) := by decide

/-- Section 8.5.1: station 15's STATION frame is back at the head. -/
theorem test_collision :
    let t := after .collision { running with access := .sending, inFlight := some ⟨.station stationReport, 0⟩ }
    t.tx = [⟨.station stationReport, 1⟩] ∧ t.counters.collisions = 1 ∧ t.counters.framesDropped = 0 := by decide

/-- R124: the ten bits of 96H, written out. -/
theorem test_lineRead :
    lineRead [false, false, true, true, false, true, false, false, true, true] = ([0x96#8], false) := by decide

/-- ACK (188, BATTERY, LOW) from station 0; its CRC was computed apart from the model. -/
def ackBits : List Bool := [0x96#8, 0x09#8, 0x03#8, 0x00#8, 0xBC#8, 0x04#8, 0x39#8, 0x48#8].flatMap lineBits

theorem test_frameCompletion :
    let t := after (.frameCompletion ackBits 3 false) running
    t.rx = [⟨0, .ack 188 .battery .lower⟩] ∧ t.counters.rxGood = 1 ∧ t.roster[0]? = some (.present 101500) := by decide +kernel

/-- R126: the last stop bit read 0. -/
theorem test_frameCompletion_bad :
    (after (.frameCompletion (ackBits.dropLast ++ [false]) 3 false) running).counters.rxBad = 1 := by
  decide +kernel

/-- The roster with stations PRESENT. -/
def withPeers (peers : List Nat) (s : State) : State :=
  { s with roster := peers.foldl (fun r n => r.set n (.present 101000)) s.roster }

/-- Section 2.12, row 3; and R109, the same claim of a station that is ABSENT. -/
theorem test_claimTaken :
    let s := { one { heard 7 with q := 148, claims := [claimOf 5 158 false] } with
      number := 3, rx := [⟨5, .claim [⟨7, 171, false⟩]⟩] }
    let t := after .claimTaken (withPeers [5] s)
    (t.entry? 7).map (fun e => (e.role, e.claims)) = some (.follower, [⟨5, 171, false, 100000⟩]) ∧ t.rx = [] ∧
    (after .claimTaken s).table = s.table := by decide

/-- Section 4.7.1: station 9 takes the RAISE, its record QUALIFYING. -/
theorem test_warnTaken :
    let t := after .warnTaken (withPeers [4] { one { heard 7 with role := .follower, recBattery := waiting .lower } with
      number := 9, rx := [⟨4, .warn { warn188 with mic := 7 }⟩] })
    (t.entry? 7).map (fun e => (e.recBattery.state, e.recBattery.chamber, e.recBattery.chamberAcked)) =
      some (.qualifying, .told .lower, false) ∧
    (t.entry? 7).map Entry.claims = some [⟨4, 150, true, 100000⟩] := by decide

/-- Section 5.6.1: microphones 34 and 102. -/
theorem test_floorTaken :
    let e := { heard 34 with mute := .open_ }
    let t := after .floorTaken { running with
      table := [e, { e with mic := 102, mute := .muted }], floorSet := [34, 57], rx := [⟨0, .floor [102, 0, 57, 102, 612, 57]⟩] }
    t.floorSet = [57, 102] ∧ t.floorTimer = .running 105000 ∧
    t.table.map (fun e => (e.recMute.pending, e.recMute.persist)) =
      [(some .higher, .running 102000), (some .lower, .running 104000)] := by decide

/-- Section 4.7: the ACKs of 116 500 and 182 000. -/
theorem test_ackTaken :
    let s := { one { heard 7 with recBattery := active .lower } with rx := [⟨0, .ack 7 .battery .lower⟩] }
    (left .ackTaken s).map (fun e => (e.recBattery.acked, e.recBattery.repeatTimer)) = some (true, .stopped) ∧
    (after .ackTaken { s with rx := [⟨0, .ack 7 .battery .higher⟩] }).counters.staleAcks = 1 := by decide

theorem test_entryQuery :
    (after .entryQuery { running with rx := [⟨0, .query 5 (.entry 7)⟩] }).tx = [⟨.entry 7 none, 0⟩] := by decide

theorem test_statsQuery :
    (after .statsQuery { running with rx := [⟨0, .query 5 .stats⟩] }).tx = [⟨.stats Counters.zero, 0⟩] ∧
    (after .statsQuery { running with rx := [⟨0, .query 6 .stats⟩] }).tx = [] := by decide

/-- R187: the roster and the image stay, the table goes, JOINING begins again. -/
theorem test_restart :
    let t := after .restart { one (heard 7) with rx := [⟨0, .restart⟩] }
    (t.station, t.joining, t.table, t.params, t.number) = (.joining, .running 101500, [], defaultParams, 5) := by decide

theorem test_peerReportTaken :
    after .peerReportTaken { running with rx := [⟨3, .report .stats []⟩] } = running := by decide

/-- The outputs (R190): a sending station, a lit lamp, an idle cue port. -/
theorem test_pins :
    ({ running with access := .sending, inFlight := some ⟨.warn warn188, 0⟩ }).lde = true ∧ running.lde = false ∧
    running.lampLit .station = true ∧ running.lampLit .battery = false ∧ running.ltx 0 = true ∧ running.qclk 0 true = false ∧
    ({ running with cueTransfer := some ⟨300, 2⟩ }).qclk 31 true = true ∧
    ({ running with cueTransfer := some ⟨300, 2⟩ }).qclk 32 true = false ∧ State.reset.busSteps = [] := by decide

/-- No word spells a command. -/
theorem test_decode : decodeTableWord 16 0x1234 = none ∧ running.withFetchWord 16 0x1234 = running := by decide

/-! ## A state and operands that meet the hypotheses of each statement -/

/-- The table's law and the check words, as one test. -/
def lawful (s : State) : Bool :=
  decide (s.mics.Pairwise (· < ·)) && decide (s.table.length ≤ 96) && s.table.all (fun e => decide (1 ≤ e.mic ∧ e.mic ≤ 480)) &&
  s.intake.all (fun g => decide (1 ≤ g.mic ∧ g.mic ≤ 480)) && s.table.all Entry.checkGood

theorem laws (s : State) (h : lawful s = true) : TableLaw s ∧ SoundLaw s := by
  simp only [lawful, Bool.and_eq_true, decide_eq_true_eq, List.all_eq_true] at h
  exact ⟨⟨h.1.1.1.1, h.1.1.1.2, h.1.1.2, h.1.2⟩, h.2⟩

/-- A command, an idle part, and a sighting in processing. -/
theorem witness_StepRunsTheFront :
    let s := { one (heard 7) with inProcessing := some ⟨⟨99000, 7, -50, false, none, none, false⟩, false, 4⟩ }
    ({ running with pending := [.lineIdle, .start .reset] }).pending = .lineIdle :: [.start .reset] ∧
    (running.pending = [] ∧ running.underway = none) ∧
    s.pending = [] ∧ s.underway = some ⟨⟨99000, 7, -50, false, none, none, false⟩, false, 4⟩ := by decide

/-- Each clause; the time limit is met at its first millisecond. An area that is good is `area116` (witness_LoadEnds). -/
theorem witness_LoadReadsTheAreas :
    (State.reset.station = .starting ∧ State.reset.load = .held ∧ State.reset.holdUntil ≤ State.reset.now ∧
      0 < ({ State.reset with holdUntil := 1 }).holdUntil) ∧
    (({ State.reset with load := .reading .site 50 }).load = .reading .site 50 ∧ areaGood none = false) ∧
    (({ State.reset with now := 50, load := .reading .site 50 }).load = .reading .site 50 ∧ 50 ≤ 50) := by decide

theorem witness_LoadEnds :
    let s := { State.reset with now := 50, number := 7, load := .reading .factory 50 }
    (s.load = .reading .factory 50 ∧ s.now ≤ 50 ∧ 50 ≤ s.now ∧ s.number ≠ 0 ∧ areaGood none = false ∧ s.table = [] ∧
      ({ s with number := 0 }).number = 0) ∧ areaGood (some area116) = true := ⟨by decide, test_area_good⟩

/-- An image within its ranges, and stored values at and beyond the ends of their limits in groups that do not hold. -/
def odd : Params :=
  { defaultParams with
    feedTimeout := 65535
    lossTime := 250
    critMinutes := 70
    lowMinutes := 45
    rateMin := 64
    nominalRate := 0
    releaseMute := 120001
    curve := defaultParams.curve.reverse }

theorem witness_ImageWithinRanges :
    (∀ f ∈ storedFields odd, f.2 < 256 ^ f.1) ∧ odd.curve.length = 9 ∧ (∀ k ∈ odd.curve, k.mV < 65536 ∧ k.permille < 65536) ∧
      odd.patterns.length = 6 ∧ (∀ c ∈ odd.patterns, c.on < 65536 ∧ c.off < 65536) ∧
      (∀ k ∈ defaultParams.curve, k.mV < 65536) ∧ (areaOf odd).length = 120 ∧
      (imageOfArea (areaOf odd)).clamps = 5 ∧ (imageOfArea (areaOf odd)).partialImage = true ∧
      (imageOfArea (areaOf defaultParams)).clamps = 0 := by decide +kernel

/-- An entry with an adoption to make and one whose chamber level stays; and one adoption more than the queue takes. -/
theorem witness_JoiningEnds :
    let e := { heard 7 with recBattery := active .lower }
    let s := { one e with station := .joining, joining := .running 100000 }
    (TableLaw s ∧ SoundLaw s) ∧ JoiningLaw s ∧ s.adoptions = [(e, .battery)] ∧ (e, Kind.mute) ∉ s.adoptions ∧
      (e ∈ s.table ∧ e.role = .reporter ∧ (e.record .battery).level ≠ .none ∧
        (e.record .battery).chamber ≠ .told (e.record .battery).level) ∧
      s.station = .joining ∧ s.joining.isDue s.now = true ∧ s.feed = .live ∧ ({ s with feed := .silent }).feed = .silent ∧
      ({ running with table := (List.range 16).map fun i => { heard (i + 1) with recBattery := active .lower } }).adoptions.length =
        16 := ⟨laws _ (by decide), ⟨by decide, by decide⟩, by decide⟩

/-- A length of 63, a bad sum, mic IDs 0 and 481; and the station states of the other clauses. -/
def recordOf (b0 b1 check : Byte) : List Bool := [b0, b1, 0#8, 0#8, 0#8, 0#8, 0#8, check].flatMap msbFirst

def collecting : State := { running with strobe := .collecting [true] }

/-- The seats 1 and 480, and the queue lengths 31 and 32. -/
def queued (n : Nat) : List Sighting := List.replicate n ⟨99000, 7, -50, false, none, none, false⟩

theorem witness_RecordCompletes :
    (collecting.station ≠ .starting ∧ collecting.strobe = .collecting [true] ∧ ([true] ++ List.replicate 62 false).length ≠ 64) ∧
    (([true] ++ (recordOf 0x80#8 0#8 0#8).drop 1).length = 64 ∧
      ((bytesOfBits ([true] ++ (recordOf 0x80#8 0#8 0#8).drop 1)).map BitVec.toNat).sum % 256 ≠ 0) ∧
    ([(recordOf 0#8 0#8 0#8), (recordOf 0xF0#8 0x80#8 0x90#8), (recordOf 0#8 0x80#8 0x80#8), (recordOf 0xF0#8 0#8 0x10#8)].map
      fun r => (r.length, ((bytesOfBits r).map BitVec.toNat).sum % 256, recordMic (bytesOfBits r))) =
        [(64, 0, 0), (64, 0, 481), (64, 0, 1), (64, 0, 480)] ∧
    (State.reset.station = .starting ∧ ({ running with strobe := .unheard }).strobe = .unheard) ∧ running.feed = .live ∧
    (queued 31).length < 32 ∧ 32 ≤ (queued 32).length := by decide

theorem witness_SightingFields : 511 < 512 ∧ 127 < 128 ∧ 7 < 8 ∧ 0 < 8 := by decide

theorem witness_FeedReturns :
    let s := { one (heard 7) with feed := .silent, strobe := .collecting [], intake := queued 31 }
    (TableLaw s ∧ SoundLaw s) ∧ s.station ≠ .starting ∧ s.station ≠ .feedDown ∧ s.strobe = .collecting [] ∧ s.feed = .silent ∧
      validate record214 = .accepted ∧ s.intake.length < 32 ∧ 32 ≤ (queued 32).length := ⟨laws _ (by decide), by decide⟩

/-- A feed return, lost counts above the exit level of the zone and at it, an adoption with room, and both lengths of the queue. -/
theorem witness_FeedReturnLeavesFeedDown :
    let e := { heard 7 with recBattery := active .lower }
    let s := { one e with station := .feedDown, zone := .inForce .feed, feed := .silent, strobe := .collecting [] }
    (TableLaw s ∧ SoundLaw s) ∧ s.station = .feedDown ∧ s.zone = .inForce .feed ∧ s.strobe = .collecting [] ∧ s.feed = .silent ∧
      validate ([] ++ record214) = .accepted ∧ s.table ≠ [] ∧ (queued 31).length < 32 ∧ ¬(queued 32).length < 32 ∧
      (s.tx.length + ({ s with zone := .notInForce }).adoptions.length + 1 ≤ 16 ∧ e ∈ s.table ∧ e.role = .reporter ∧
        (e.record .battery).unadopted = true ∧ s.holdsBack .battery .lower = false) ∧ s.params.zoneThreshold - 3 < 4 ∧
      3 ≤ s.params.zoneThreshold - 3 := ⟨laws _ (by decide), by decide⟩

theorem witness_FeedFallsSilent :
    let s := { one (heard 7) with feedTimer := .running 100000 }
    (TableLaw s ∧ SoundLaw s) ∧ s.feed = .live ∧ s.feedTimer.isDue s.now = true ∧ s.station = .running ∧
      ({ s with station := .joining }).station ≠ .running := ⟨laws _ (by decide), by decide⟩

/-- The clamped ends of the RSSI, a full history, and each kind of gap. -/
theorem witness_QualityAndGap :
    let g : Sighting := sightingOf 100000 (-110) true
    (-110 ≤ g.rssi ∧ g.rssi ≤ -20 ∧ (sightingOf 0 0 true).rssi = -20) ∧ (heard 7).history.length ≤ 16 ∧
    (List.replicate 16 true).length ≤ 16 ∧ g.carried = false ∧ g.carry.carried = true ∧ (heard 7).gapVoid = false ∧
    ({ heard 7 with gapVoid := true }).gapVoid = true := by decide

/-- A role kept, one lost to a claim with a WARN queued, and one gained with a record to adopt; the zone stays. -/
theorem witness_SightingOfKnownMicrophone :
    let s := { one (heard 7) with intake := queued 1 }
    let beaten := { heard 7 with claims := [claimOf 3 240 true] }
    let wins := { heard 7 with role := .follower, recBattery := active .lower }
    let u := { one beaten with intake := queued 1, tx := [⟨.warn { warn188 with mic := 7 }, 0⟩] }
    let v := { one wins with intake := queued 1 }
    (TableLaw s ∧ SoundLaw s) ∧ (TableLaw u ∧ SoundLaw u) ∧ (TableLaw v ∧ SoundLaw v) ∧ s.underway = none ∧
      s.intake = ⟨99000, 7, -50, false, none, none, false⟩ :: [] ∧ s.entry? 7 = some (heard 7) ∧
      (after (.sightingTaken 9) s).zone = s.zone ∧
      ((left (.sightingTaken 9) u).map Entry.role = some .follower ∧ (∃ g ∈ u.tx, g.frame.warnFor 7 .battery = true)) ∧
      ((left (.sightingTaken 9) v).map Entry.role = some .reporter ∧ v.station = .running ∧ wins.recBattery.unadopted = true ∧
        v.holdsBack .battery .lower = false ∧ v.tx.length + 3 ≤ 16) :=
  ⟨laws _ (by decide), laws _ (by decide), laws _ (by decide), by decide⟩

/-- Sightings with and without a battery code and a mute bit, and an entry for each row of the SIGNAL input. -/
theorem witness_SightingOfKnownMicrophone_steps :
    let g : Sighting := ⟨99000, 7, -50, false, none, none, false⟩
    (g.battery = none ∧ ({ g with battery := some 41 }).battery = some 41) ∧
      (g.mute = none ∧ ({ g with mute := some true }).mute = some true ∧ ({ g with mute := some false }).mute = some false) ∧
      (running.station ≠ .feedDown ∧ ({ running with station := .feedDown }).station = .feedDown) ∧
      ((heard 7).presence = .heard ∧ (heard 7).band = .none ∧ ({ heard 7 with band := .weak }).band = .weak ∧
        ({ heard 7 with presence := .covered }).presence = .covered ∧
        ({ heard 7 with presence := .silent }).presence = .silent) := by decide

/-- Every seat from 1 to 96, two entries aside. -/
def full (f : Nat → Entry) : State :=
  { running with table := (List.range 96).map (fun i => f (i + 1)), intake := [⟨99000, 480, -50, false, none, none, false⟩] }

theorem full_laws (f : Nat → Entry) (hm : ∀ n, (f n).mic = n) (hg : ∀ n, (f n).checkGood = true) :
    TableLaw (full f) ∧ SoundLaw (full f) := by
  have e : (full f).mics = (List.range 96).map (· + 1) := by
    simp only [State.mics, full, List.map_map]
    exact List.map_congr_left fun i _ => hm (i + 1)
  refine ⟨⟨?_, by simp [full, tableMax], fun x hx => ?_, fun g hg => ?_⟩, fun x hx => ?_⟩
  · rw [e, List.pairwise_map]
    exact List.Pairwise.imp (by intro a b h; omega) List.pairwise_lt_range
  · simp only [full, List.mem_map, List.mem_range] at hx
    obtain ⟨i, hi, rfl⟩ := hx
    rw [hm]; simp only [micMax]; omega
  · simp only [full, List.mem_singleton] at hg
    subst hg; decide
  · simp only [full, List.mem_map] at hx
    obtain ⟨i, _, rfl⟩ := hx
    exact hg _

theorem witness_SightingAdmits :
    let s := { one (heard 7) with intake := [⟨99000, 480, -50, false, none, none, false⟩] }
    (TableLaw s ∧ SoundLaw s) ∧ s.underway = none ∧ s.intake = ⟨99000, 480, -50, false, none, none, false⟩ :: [] ∧
      s.entry? 480 = none ∧ s.table.length < 96 := ⟨laws _ (by decide), by decide⟩

/-- A full table in which nothing gives way. -/
theorem witness_FullTable_refused :
    (TableLaw (full heard) ∧ SoundLaw (full heard)) ∧ (full heard).underway = none ∧ (full heard).entry? 480 = none ∧
      (full heard).table.length = 96 ∧ ∀ e ∈ (full heard).table, e.presence ≠ .covered ∧
        ¬(e.presence = .silent ∧ e.lostForget = .expired ∧ e.recSignal.state = .quiet) := by
  refine ⟨full_laws heard (fun _ => rfl) (fun _ => rfl), rfl, by decide +kernel, by simp [full], fun e he => ?_⟩
  simp only [full, List.mem_map] at he
  obtain ⟨i, _, rfl⟩ := he
  exact ⟨by simp [heard], by simp [heard]⟩

/-- Two COVERED entries of one age: the lower mic ID gives way. -/
def coveredAt (n : Nat) : Entry := if n = 1 ∨ n = 96 then { heard n with presence := .covered } else heard n

theorem witness_FullTable_covered :
    (TableLaw (full coveredAt) ∧ SoundLaw (full coveredAt)) ∧ coveredAt 1 ∈ (full coveredAt).table ∧
      (coveredAt 1).presence = .covered ∧ ∀ e ∈ (full coveredAt).table, e.presence = .covered → e ≠ coveredAt 1 →
        (coveredAt 1).lastLocal < e.lastLocal ∨ (coveredAt 1).lastLocal = e.lastLocal ∧ (coveredAt 1).mic < e.mic := by
  refine ⟨full_laws coveredAt (fun n => by unfold coveredAt; split <;> rfl) (fun n => by unfold coveredAt; split <;> rfl), ?_,
    by decide, by decide +kernel⟩
  simp only [full, List.mem_map]
  exact ⟨0, by simp, rfl⟩

/-- Two spent SILENT entries and no COVERED one. -/
def spentAt (n : Nat) : Entry :=
  if n = 1 ∨ n = 96 then { heard n with presence := .silent, lostForget := .expired } else heard n

theorem witness_FullTable_silent :
    (TableLaw (full spentAt) ∧ SoundLaw (full spentAt)) ∧ spentAt 1 ∈ (full spentAt).table ∧
      (∀ e ∈ (full spentAt).table, e.presence ≠ .covered) ∧ (spentAt 1).presence = .silent ∧ (spentAt 1).lostForget = .expired ∧
      (spentAt 1).recSignal.state = .quiet ∧
      ∀ e ∈ (full spentAt).table, e.presence = .silent → e.lostForget = .expired → e.recSignal.state = .quiet →
        e ≠ spentAt 1 →
        (spentAt 1).lastLocal < e.lastLocal ∨ (spentAt 1).lastLocal = e.lastLocal ∧ (spentAt 1).mic < e.mic := by
  refine ⟨full_laws spentAt (fun n => by unfold spentAt; split <;> rfl) (fun n => by unfold spentAt; split <;> rfl), ?_,
    by decide +kernel, by decide, by decide, by decide, by decide +kernel⟩
  simp only [full, List.mem_map]
  exact ⟨0, by simp, rfl⟩

/-- A processing met after its fourth step; a processing whose entry is gone, with another sighting waiting. -/
def parted : State := { one (heard 7) with intake := queued 2 }

def halfway : State := after (.sightingTaken 4) parted

theorem witness_ProcessingInParts :
    let g : Sighting := ⟨99000, 7, -50, false, none, none, false⟩
    (TableLaw parted ∧ SoundLaw parted) ∧ (TableLaw halfway ∧ SoundLaw halfway) ∧
      exec (.sightingTaken 4) parted = .next halfway ∧
      (parted.underway = none ∧ parted.intake = g :: [g] ∧ parted.entry? 7 = some (heard 7)) ∧
      (halfway.underway ≠ none ∧ halfway.inProcessing = some ⟨g, false, 4⟩ ∧ (halfway.entry? g.mic).isSome = true) ∧
      ({ halfway with table := [] }).entry? g.mic = none ∧ halfway.intake ≠ [] :=
  ⟨laws _ (by decide), laws _ (by decide), rfl, by decide, by decide, by decide, by decide⟩

/-- No claim and one claim; the zone stays in both, a WARN is queued where REPORTER is lost, and the empty queue keeps WarnLaw. -/
theorem witness_LossExpires :
    let e := heard 7
    let c := { e with claims := [claimOf 3 150 false] }
    let u := { one c with tx := [⟨.warn { warn188 with mic := 7 }, 0⟩] }
    WarnLaw (one c) ∧ (TableLaw u ∧ SoundLaw u) ∧ ((after (.lossTimerExpiry 7) (one e)).zone = (one e).zone ∧
      (after (.lossTimerExpiry 7) u).zone = u.zone ∧ c.role = .reporter ∧ (∃ g ∈ u.tx, g.frame.warnFor 7 .battery = true) ∧
      ∀ g ∈ u.tx, g.frame.warnFor 7 .mute = false) ∧ (TableLaw (one e) ∧ SoundLaw (one e)) ∧ (TableLaw (one c) ∧ SoundLaw (one c)) ∧
      ((one e).entry? 7 = some e ∧ e.loss.isDue (one e).now = true ∧ e.claims = []) ∧
      ((one c).entry? 7 = some c ∧ c.claims ≠ [] ∧ c.forget ≠ .expired ∧ ({ c with forget := .expired }).forget = .expired) :=
  ⟨⟨by simp [one, running, State.reset], by simp [one, running, State.reset]⟩, laws _ (by decide), by decide, laws _ (by decide),
    laws _ (by decide), by decide⟩

theorem witness_ForgettingExpires :
    let e := { heard 7 with presence := .silent, lostForget := .running 100000, recSignal := active .higher }
    (TableLaw (one e) ∧ SoundLaw (one e)) ∧ (one e).entry? 7 = some e ∧ e.forget.isDue (one e).now = true ∧
      e.presence ≠ .covered ∧ ({ e with presence := .covered }).presence = .covered ∧ e.lostForget.isDue (one e).now = true ∧
      (e.recSignal.state ≠ .quiet ∧ e.recSignal.acked = false) ∧ Record.fresh.state = .quiet ∧
      ({ active .higher with acked := true }).acked = true := ⟨laws _ (by decide), by decide⟩

theorem witness_BatteryTimersExpire :
    let e := { heard 7 with battery := { battery305 with stale := .running 100000 } }
    (TableLaw (one e) ∧ SoundLaw (one e)) ∧ (one e).entry? 7 = some e ∧ e.battery.epoch.isDue (one e).now = true ∧
      e.battery.sampled = true ∧ e.battery.cell = some ⟨3551, 3551, 121, 126, 64⟩ ∧ e.battery.stale.isDue (one e).now = true ∧
      ({ e.battery with sampled := false }).sampled = false := ⟨laws _ (by decide), by decide⟩

/-- A rise of C by exactly `swap_rise` and by one less. -/
theorem witness_BatterySamplesAndEpochs :
    Battery.fresh.cell = none ∧ battery305.cell = some ⟨3551, 3551, 121, 126, 64⟩ ∧
    126 + defaultParams.swapRise ≤ 326 ∧ 325 < 126 + defaultParams.swapRise ∧ defaultParams.rateMin ≤ 4000 := by decide

/-- 3299 mV below knot 1, 4170 mV at knot 9, and both ends of a segment. -/
theorem witness_ChargeCurve :
    curveHolds defaultCurve = true ∧ (defaultCurve.head? = some ⟨3300, 0⟩ ∧ 3299 < 3300) ∧
    (defaultCurve.getLast? = some ⟨4170, 1000⟩ ∧ 4170 ≤ 4170) ∧
    (defaultCurve = [⟨3300, 0⟩] ++ ⟨3450, 50⟩ :: ⟨3550, 120⟩ :: defaultCurve.drop 3 ∧ 3450 ≤ 3450 ∧ 3549 < 3550) := by decide

/-- Each clause: the levels by rank, and the exit margins met and missed. -/
theorem witness_BatteryCandidate :
    let c : Cell := ⟨3350, 3350, 180, 180, 40⟩
    let low : Cell := ⟨3350, 3350, 140, 140, 40⟩
    (rawLevel defaultParams c none = .none ∧ rawLevel defaultParams low none = .lower ∧ Level.none.rank ≤ Level.lower.rank) ∧
    (defaultParams.cutoffMV + 50 ≤ c.vf ∧ defaultParams.lowPermille + 30 ≤ c.charge) ∧
    (¬defaultParams.cutoffMV + 50 ≤ 3349 ∧ ¬defaultParams.lowPermille + 30 ≤ 179) ∧
    (Battery.fresh.seed defaultParams 0 3310).cell = some ⟨3310, 3310, 3, 3, 40⟩ := by decide

theorem fresh_lawful : Record.fresh.Lawful := by
  constructor <;> simp [Record.fresh, Timer.isRunning]

theorem waiting_lawful (l : Level) (h : l ≠ .none) : (waiting l).Lawful := by
  constructor <;> simp [waiting, Record.fresh, Timer.isRunning, h]

theorem active_lawful (l : Level) (h : l ≠ .none) : (active l).Lawful := by
  constructor <;> simp [active, Record.fresh, Timer.isRunning, h]

/-- ACTIVE at LOW and moving: SHIFTING toward CRITICAL, and RELEASING. -/
def shifting : Record := { active .lower with state := .shifting, pending := some .higher, persist := .running 100000 }
def releasing : Record := { active .lower with state := .releasing, persist := .running 100000 }

theorem shifting_lawful : shifting.Lawful := by
  constructor <;> simp [shifting, active, Record.fresh, Timer.isRunning]

theorem releasing_lawful : releasing.Lawful := by
  constructor <;> simp [releasing, active, Record.fresh, Timer.isRunning]

/-- A lawful record in each of the five states. -/
theorem witness_PersistenceMachine :
    (Record.fresh.Lawful ∧ Record.fresh.state = .quiet) ∧ ((waiting .lower).Lawful ∧ (waiting .lower).pending = some .lower) ∧
    ((active .lower).Lawful ∧ (active .lower).state = .active ∧ Level.higher ≠ (active .lower).level) ∧
    (shifting.Lawful ∧ shifting.state = .shifting) ∧ (releasing.Lawful ∧ releasing.state = .releasing) :=
  ⟨⟨fresh_lawful, rfl⟩, ⟨waiting_lawful _ (by decide), rfl⟩, ⟨active_lawful _ (by decide), rfl, by decide⟩,
    ⟨shifting_lawful, rfl⟩, ⟨releasing_lawful, rfl⟩⟩

/-- Records of one entry that are lawful make the law of the state. -/
theorem recordLaw_one (e : Entry) (hb : e.recBattery.Lawful) (hm : e.recMute.Lawful) (hs : e.recSignal.Lawful) :
    RecordLaw (one e) := by
  intro x hx k
  simp only [one, List.mem_singleton] at hx
  subst hx
  cases k <;> assumption

/-- The three waiting states, due now, with room in the queue for the announcement and a STATION frame. -/
theorem witness_PersistenceExpires :
    let e := { heard 7 with recBattery := waiting .lower, recMute := shifting, recSignal := releasing }
    (TableLaw (one e) ∧ SoundLaw (one e)) ∧ RecordLaw (one e) ∧ (one e).entry? 7 = some e ∧
      (∀ k, (e.record k).persist.isDue (one e).now = true) ∧
      ((e.record .battery).state = .qualifying ∧ (e.record .battery).pending = some .lower) ∧
      ((e.record .mute).state = .shifting ∧ (e.record .mute).pending = some .higher) ∧
      ((e.record .signal).state = .releasing ∧ (e.record .signal).spellStart = some 90000) ∧
      (one e).station = .running ∧ e.role = .reporter ∧ (one e).tx.length + 2 ≤ 16 ∧ (one e).zone = .notInForce :=
  ⟨laws _ (by decide), recordLaw_one _ (waiting_lawful _ (by decide)) shifting_lawful releasing_lawful, by decide,
    fun k => by cases k <;> decide, by decide⟩

/-- A held SILENT entry whose LOST is acknowledged before its record has it. -/
theorem witness_PersistenceExpires_letGo :
    let r := { shifting with chamber := .told .higher, chamberAcked := true }
    let e := { heard 7 with presence := .silent, lostForget := .expired, recSignal := r }
    (TableLaw (one e) ∧ SoundLaw (one e)) ∧ RecordLaw (one e) ∧ (one e).entry? 7 = some e ∧
      (e.record .signal).persist.isDue (one e).now = true ∧ (e.record .signal).state = .shifting ∧
      (e.record .signal).pending = some .higher ∧ e.presence = .silent ∧ e.lostForget = .expired ∧
      (decide (r.chamber = .told .higher) && r.chamberAcked) = true :=
  ⟨laws _ (by decide), recordLaw_one _ fresh_lawful fresh_lawful (by constructor <;> simp [shifting, active, Record.fresh,
    Timer.isRunning]), by decide⟩

theorem witness_RepeatExpires :
    let e := { heard 7 with recBattery := active .lower }
    (TableLaw (one e) ∧ SoundLaw (one e)) ∧ (one e).entry? 7 = some e ∧ (e.record .battery).repeatTimer.isDue (one e).now = true ∧
      (one e).warnGate e .battery = true ∧ ({ one e with station := .joining }).warnGate e .battery = false ∧
      (one e).tx.length < 16 := ⟨laws _ (by decide), by decide⟩

theorem witness_StationRepeats :
    let s := { running with zoneRepeat := .running 100000, stationRepeat := .running 100000 }
    s.zoneRepeat.isDue s.now = true ∧ s.stationRepeat.isDue s.now = true ∧ s.station = .running ∧
      ¬(StationState.joining = .running ∨ StationState.joining = .feedDown ∨ StationState.joining = .listenOnly) := by decide

/-- Six LOST records with five counted so far, four with none of them gone, and the loss and forget expiries. -/
def losing (n : Nat) : State :=
  { running with table := (List.range n).map fun i => { heard (i + 1) with presence := .silent, recSignal := active .higher } }

theorem losing_laws (n : Nat) (h : n ≤ 96) : TableLaw (losing n) ∧ SoundLaw (losing n) := by
  refine ⟨⟨?_, by simpa [losing, tableMax] using h, fun x hx => ?_, by simp [losing, running, State.reset]⟩, fun x hx => ?_⟩
  · simp only [State.mics, losing, List.map_map, List.pairwise_map, Function.comp_def]
    exact List.Pairwise.imp (by intro a b h; simp only [heard]; omega) List.pairwise_lt_range
  · simp only [losing, List.mem_map, List.mem_range] at hx
    obtain ⟨i, hi, rfl⟩ := hx
    simp only [heard, micMax]
    omega
  · simp only [losing, List.mem_map] at hx
    obtain ⟨i, _, rfl⟩ := hx
    rfl

theorem witness_ZoneComesAndGoes :
    (TableLaw (losing 6) ∧ SoundLaw (losing 6)) ∧ (TableLaw (losing 3) ∧ SoundLaw (losing 3)) ∧
    (let s := { losing 6 with lostCount := 5 }
     s.zone = .notInForce ∧ s.lostCount < s.params.zoneThreshold ∧ s.params.zoneThreshold ≤ lostOf s.table ∧
       s.station = .running) ∧
    (let s := { losing 3 with zone := .inForce .count, lostCount := 4 }
     s.zone = .inForce .count ∧ lostOf s.table < s.lostCount ∧ lostOf s.table ≤ s.params.zoneThreshold - 3 ∧
       s.tx.length + s.table.length + 1 ≤ 16 ∧ ∀ e ∈ s.table, e.role = .reporter ∧ e.recSignal.level = .higher ∧
         e.recSignal.chamber ≠ .told .higher) ∧
    (let e := { heard 7 with presence := .covered, claims := [claimOf 3 150 false] }
     (one (heard 7)).entry? 7 = some (heard 7) ∧ (heard 7).loss.isDue running.now = true ∧ (heard 7).claims = [] ∧
       (one e).entry? 7 = some e ∧ e.forget.isDue running.now = true ∧ e.presence = .covered) :=
  ⟨losing_laws 6 (by omega), losing_laws 3 (by omega), by decide⟩

theorem witness_FloorSweeps :
    let s := { one { heard 7 with mute := .open_ } with
      floor := .fresh, floorTimer := .running 100000, rx := [⟨0, .floor [7]⟩] }
    (TableLaw s ∧ SoundLaw s) ∧ s.floorTimer.isDue s.now = true ∧ s.inDispatch = none ∧ s.rx = ⟨0, .floor [7]⟩ :: [] :=
  ⟨laws _ (by decide), by decide⟩

/-- A HEARD follower that gains REPORTER as the claim leaves, with a record to adopt and room for every request, and a COVERED entry
that becomes SILENT with the zone as it was. -/
theorem witness_ClaimsLeave_tellings :
    let e := { heard 7 with role := .follower, claims := [claimOf 3 240 true], recBattery := active .lower }
    let c := { e with presence := .covered }
    let s := { one e with roster := State.reset.roster.set 3 (.present 100000) }
    (TableLaw s ∧ SoundLaw s) ∧ PresenceLaw s ∧ (∀ x ∈ s.table, x.presence = .heard) ∧
      (left (.absenceTimerExpiry 3) s).map Entry.role = some .reporter ∧
      (left (.claimExpiry 7 3) (one e)).map Entry.role = some .reporter ∧
      (left (.claimExpiry 7 3) (one c)).map Entry.presence = some .silent ∧
      (after (.claimExpiry 7 3) (one c)).zone = (one c).zone ∧
      (s.station = .running ∧ e.recBattery.unadopted = true ∧ s.holdsBack .battery .lower = false ∧
        s.tx.length + 3 * s.table.length ≤ 16) := ⟨laws _ (by decide), ⟨by decide, by decide⟩, by decide⟩

theorem witness_ClaimsLeave :
    let e := { heard 7 with claims := [claimOf 3 150 false] }
    let s := { one e with roster := State.reset.roster.set 3 (.present 100000) }
    (TableLaw s ∧ SoundLaw s) ∧ PresenceLaw s ∧ (s.roster[3]? = some (.present 100000) ∧ 100000 ≤ s.now) ∧ s.entry? 7 = some e ∧
      (e.claims.find? fun x => x.station == 3) = some (claimOf 3 150 false) ∧
      (claimOf 3 150 false).arrival + 2 * s.params.claimInterval ≤ s.now ∧ e.presence ≠ .silent :=
  ⟨laws _ (by decide), ⟨by decide, by decide⟩, by decide⟩

/-- Three listed claims, in order, and the one of 7.7 that is dropped. -/
theorem witness_ClaimListRule :
    let l : List Claim := [⟨4, 140, true, 0⟩, ⟨11, 150, false, 0⟩, ⟨7, 130, false, 0⟩]
    l.length ≤ 3 ∧ l.length = 3 ∧ enterClaim defaultParams ⟨13, 125, false, 0⟩ l = none ∧
      (enterClaim defaultParams ⟨2, 130, false, 0⟩ l).isSome = true ∧ (∃ x ∈ l, x.station = 11) ∧
      l.Pairwise fun x y => (y.score defaultParams < x.score defaultParams ∨
        (x.score defaultParams = y.score defaultParams ∧ x.station < y.station)) ∧ x.station ≠ y.station := by decide

theorem witness_PendingAndTakeover :
    let e := { heard 7 with role := .pending, pendingTimer := .running 100000 }
    let f := { heard 7 with
      presence := .silent, role := .follower, takeover := .running 100000, recSignal := active .higher }
    (TableLaw (one e) ∧ SoundLaw (one e)) ∧ (TableLaw (one f) ∧ SoundLaw (one f)) ∧
      ((one e).entry? 7 = some e ∧ e.pendingTimer.isDue (one e).now = true ∧ e.presence = .heard ∧ (one e).station ≠ .listenOnly) ∧
      ((one f).entry? 7 = some f ∧ f.takeover.isDue (one f).now = true ∧ f.recSignal.chamber ≠ .told .higher ∧
        (one f).station = .running ∧ (one f).zone = .notInForce ∧ (one f).tx.length + 3 ≤ 16 ∧
        (f.record .signal).level ≠ .none ∧ (f.record .signal).chamber ≠ .told .higher) ∧
      (e.role ≠ .reporter ∧ reporterWins (one e).params (one e).number e.q e.claims = true) ∧
      ({ active .higher with chamber := .told .higher }).chamber = .told .higher :=
  ⟨laws _ (by decide), laws _ (by decide), by decide⟩

/-- Room for every frame, and none, where the one frame is counted. -/
theorem witness_ClaimRound :
    let s := { one (heard 7) with tx := List.replicate 11 ⟨.stats Counters.zero, 0⟩ }
    (TableLaw s ∧ SoundLaw s) ∧ s.station = .running ∧ s.claimRound.isDue s.now = true ∧
      (s.tx.filter fun t => !t.frame.olderClaim (s.round + 1)).length + 5 ≤ 16 ∧
      (after .claimRoundTimerExpiry { s with tx := List.replicate 16 ⟨.stats Counters.zero, 0⟩ }).counters.framesDropped = 1 :=
  ⟨laws _ (by decide), by decide⟩

/-- A cue queued for the microphone, and seven and eight cues of others. -/
theorem witness_CueCommands :
    let s := { one { heard 7 with cue := 2, cueRefresh := .running 100000 } with cueQueue := [⟨7, 1⟩] }
    let others := fun n => (List.range n).map fun i => (⟨100 + i, 1⟩ : Cue)
    (TableLaw s ∧ SoundLaw s) ∧ s.entry? 7 = some { heard 7 with cue := 2, cueRefresh := .running 100000 } ∧
      (∃ x ∈ s.cueQueue, x.mic = 7) ∧ (∀ x ∈ others 8, x.mic ≠ 7) ∧ (others 7).length < 8 ∧ 8 ≤ (others 8).length ∧
      s.cueTransfer = none ∧ s.cueQueue = ⟨7, 1⟩ :: [] ∧ s.station ≠ .starting ∧ (511 < 512 ∧ 7 < 8) ∧
      ({ s with cueTransfer := some ⟨7, 1⟩ }).cueTransfer = some ⟨7, 1⟩ := ⟨laws _ (by decide), by decide⟩

theorem witness_LampChanges :
    let s := { running with lampBattery := ⟨1, .on, .running 100000, some 2⟩, lampMute := ⟨1, .off, .running 100000, some 0⟩ }
    (s.gen .battery).timer.isDue s.now = true ∧ (s.gen .mute).timer.isDue s.now = true ∧ (s.gen .battery).phase = .on ∧
      (s.gen .mute).phase = .off ∧ (s.gen .mute).staged = some 0 ∧ (s.gen .signal).phase = .dark ∧
      (s.gen .station).phase = .steady ∧ 2 ≠ (s.gen .battery).pattern ∧
      defaultParams.patterns = [⟨500, 1500⟩, ⟨150, 150⟩, ⟨300, 700⟩, ⟨100, 400⟩, ⟨800, 200⟩, ⟨1000, 1000⟩] := by decide

/-- The waits are met at their own slot and not one before. -/
theorem witness_LineAccess :
    let t : TxFrame := ⟨.warn warn188, 0⟩
    let s := { running with number := 7, access := .idle 31, tx := [t] }
    running.access = .busy ∧ s.access = .idle 31 ∧ s.tx = t :: [] ∧ running.tx = [] ∧
      24 * t.frame.cls + s.number ≤ 31 ∧ 30 < 24 * t.frame.cls + s.number ∧
      ({ running with access := .sending, inFlight := some t }).access = .sending := by decide

/-- A third and a fourth collision, a frame that has become untrue, a newer form, room for one, and a full queue with and without a
less urgent frame. -/
theorem witness_Collision :
    let t : TxFrame := ⟨.station stationReport, 2⟩
    let s := { running with access := .sending, inFlight := some t }
    (s.access = .sending ∧ s.inFlight = some t ∧ t.collisions + 1 < 4 ∧ 4 ≤ 3 + 1) ∧ s.station = .running ∧ t.frame.isStation = true ∧
      s.entry? 188 = none ∧ pressed.length = 16 ∧ (∃ g ∈ pressed, t.frame.cls < g.frame.cls) ∧
      (∃ g ∈ pressed, g.frame.isStation = true) ∧ (List.replicate 15 (⟨.stats Counters.zero, 0⟩ : TxFrame)).length < 16 ∧
      ∀ g ∈ List.replicate 16 (⟨.station stationReport, 0⟩ : TxFrame), g.frame.cls ≤ t.frame.cls := by decide

/-- R74: a WARN dropped at its fourth collision makes its level UNKNOWN, and leaves it while a newer WARN of the pair is queued; and
the WARN that a full queue loses at test 9 makes its level UNKNOWN. -/
theorem witness_Collision_forgets :
    let e := { heard 7 with recBattery := { active .lower with chamber := .told .lower } }
    let s := { one e with access := .sending, inFlight := some ⟨.warn { warn188 with mic := 7 }, 3⟩ }
    let newer : TxFrame := ⟨.warn { warn188 with mic := 7, reason := .repeated }, 0⟩
    let v := { s with
      inFlight := some ⟨.station stationReport, 0⟩
      tx := (List.range 16).map fun i => ⟨.warn { warn188 with mic := 22 - i, reason := .clear }, 0⟩ }
    let level := fun s => (left .collision s).map fun x => x.recBattery.chamber
    level s = some .unknown ∧ level { s with tx := [newer] } = some (.told .lower) ∧ level v = some .unknown ∧
      (after .collision v).tx.length = 16 := by decide +kernel

/-- A bad frame, an own number, a refused FLOOR of station 7, an ACK, and one and two waiting frames. -/
theorem witness_Reception :
    let s := one (heard 7)
    (TableLaw s ∧ SoundLaw s) ∧ s.access ≠ .off ∧ s.assembler.joinedLate = false ∧ s.station ≠ .listenOnly ∧ s.station ≠ .starting ∧
      (2 < 3 ∧ 2 ≤ 2) ∧ readFrame (s.assembler.bytes ++ (lineRead []).1) (s.assembler.framing || (lineRead []).2) = .bad ∧
      readFrame [0x96#8, 0x09#8, 0x03#8, 0x00#8, 0xBC#8, 0x04#8, 0x39#8, 0x48#8] false =
        .good 0 (some (.ack 188 .battery .lower)) ∧
      readFrame [0x96#8, 0x51#8, 0x04#8, 0x01#8, 0x80#8, 0x07#8, 0x96#8, 0x85#8, 0x24#8] false =
        .good s.number (some (.claim [⟨7, 150, true⟩])) ∧
      acceptedFrom 0 (.ack 188 .battery .lower) = true ∧ acceptedFrom 7 (.floor []) = false ∧
      s.rx.length < 2 ∧ 2 ≤ [(⟨3, .restart⟩ : RxFrame), ⟨3, .restart⟩].length := ⟨laws _ (by decide), by decide +kernel⟩

/-- Gaps of 0 and 2 bit times, the longest FLOOR list of a payload, and the last seat field. -/
theorem witness_BadFrames_PayloadRules :
    (∀ p ∈ [((0x96#8 : Byte), 0), (0x09#8, 2)], p.2 ≤ 2) ∧ (List.replicate 59 511).length ≤ 59 ∧
      (∀ m ∈ List.replicate 59 511, m < 512) ∧ 15 < 16 := by decide

theorem witness_FramesReadBack :
    15 < 16 ∧ (warn188.mic < 512 ∧ warn188.q ≤ 240 ∧ warn188.residency < 65536 ∧ warn188.raiseCount < 256) ∧
      (warn188.minutes = some 28 ∧ warn188.kind = .battery ∧ 28 ≤ 999) ∧
      ([(⟨511, 240, true⟩ : Pair)] ≠ [] ∧ (List.replicate 20 (⟨511, 240, true⟩ : Pair)).length ≤ 20) ∧
      ({ stationReport with occupancy := 96, fault := some (.table 480) }).occupancy ≤ 96 := by decide

/-- A frame within its envelope, the last seat field, and a fault that names a seat. -/
theorem witness_FrameContents :
    15 < 16 ∧ (payload (.warn warn188)).length < 256 ∧ (∀ p ∈ [(⟨511, 240, true⟩ : Pair)], p.mic < 512) ∧ warn188.mic < 512 ∧
      511 < 512 ∧ ({ stationReport with fault := some (.table 480) }).fault = some (.table 480) ∧ 480 < 512 := by decide

/-- Section 12.2, laid out by hand: a STATION frame of station 5 in FEED_DOWN, the zone in force under FEED, from FACTORY, with a
partial image and TABLE of seat 300; and an ENTRY payload of an absent seat. -/
theorem test_payloads :
    (payload (.station ⟨.feedDown, .inForce .feed, 96, .factory, true, some (.table 300)⟩)).map BitVec.toNat =
      [0x03, 0x37, 0x60, 0x01, 0x2C] ∧
    (payload (.entry 300 none)).map BitVec.toNat = [0x01, 0x2C] := by decide

/-- A SILENT entry, its forget timer running and expired, a HEARD one, two pairs, a claim with no place, an ABSENT station. -/
theorem witness_ClaimTaken :
    let e := { heard 7 with presence := .silent }
    let pairs : List Pair := [⟨7, 150, true⟩, ⟨8, 10, false⟩]
    let s := withPeers [5] { one e with rx := [⟨5, .claim pairs⟩] }
    (TableLaw s ∧ SoundLaw s) ∧ s.inDispatch = none ∧ s.rx = ⟨5, .claim pairs⟩ :: [] ∧ s.entry? 7 = some e ∧
      s.entry? 8 = none ∧ (5 : Nat) ≠ 0 ∧ s.hasPeer 5 = true ∧ running.hasPeer 5 = false ∧
      enterClaim s.params ⟨5, 150, true, s.now⟩ e.claims = some [⟨5, 150, true, s.now⟩] ∧
      enterClaim s.params ⟨13, 125, false, s.now⟩ [⟨4, 140, true, 0⟩, ⟨11, 150, false, 0⟩, ⟨7, 130, false, 0⟩] = none ∧
      e.presence = .silent ∧ e.forget ≠ .expired ∧ ({ e with forget := .expired }).forget = .expired ∧
      (heard 7).presence ≠ .silent ∧ s.lostCount = lostOf s.table := ⟨laws _ (by decide), by decide⟩

/-- A yield to station 3; a frame that acknowledges and ends a held entry; and a sender that hears, for a COVERED entry and for
SILENT ones with the forget timer running and expired. -/
theorem witness_WarnTaken :
    let e := { heard 7 with presence := .silent, lostForget := .expired, recSignal := active .higher }
    let w : Warn := { warn188 with mic := 7, kind := .signal, level := .higher, acked := true, hears := false, minutes := none }
    let s := withPeers [3] { one e with rx := [⟨3, .warn w⟩] }
    let p : Pair := ⟨7, 150, true⟩
    let covered := { heard 7 with presence := .covered, claims := [claimOf 4 100 false] }
    (TableLaw s ∧ SoundLaw s) ∧ s.inDispatch = none ∧ s.rx = ⟨3, .warn w⟩ :: [] ∧ s.entry? w.mic = some e ∧ s.entry? 8 = none ∧
      (w.acked = true ∧ w.level = (e.record w.kind).level ∧ w.level ≠ .none ∧ e.lostForget = .expired) ∧
      (w.hears = false ∧ e.presence = .silent ∧ e.role = .reporter ∧ w.reporter = true ∧ 3 < s.number) ∧
      ({ w with acked := false }).acked = false ∧ ({ w with hears := true }).hears = true ∧
      ((s.claimedBy 3 covered p).map Entry.presence = some .covered ∧ (s.claimedBy 3 e p).map Entry.presence = some .covered ∧
        s.claimedBy 3 { e with forget := .expired } p = none ∧ (running.claimedBy 3 e p).map Entry.presence = some .silent) :=
  ⟨laws _ (by decide), by decide⟩

/-- R149: an acknowledgement by a sender that does not hear, with the WARN of the pair queued, and the yield after it. -/
theorem witness_WarnTaken_queue :
    let e := { heard 7 with presence := .silent, recSignal := active .higher }
    let w : Warn := { warn188 with mic := 7, kind := .signal, level := .higher, acked := true, hears := false, minutes := none }
    let own : TxFrame := ⟨.warn { w with acked := false }, 0⟩
    let s := withPeers [3, 9] { one e with rx := [⟨9, .warn w⟩], tx := [own] }
    (TableLaw s ∧ SoundLaw s) ∧ (w.acked = true ∧ w.level = e.recSignal.level ∧ w.hears = false ∧ e.lostForget ≠ .expired) ∧
      (after .warnTaken s).tx = [⟨.warn w, 0⟩] ∧ (after .warnTaken { s with rx := [⟨3, .warn w⟩] }).tx = [] :=
  ⟨laws _ (by decide), by decide⟩

/-- A peer that hears a HEARD microphone, in a state that keeps WarnLaw: the role kept, lost and gained. -/
theorem witness_WarnTaken_hears :
    let s := withPeers [3] running
    let p : Pair := ⟨7, 0, false⟩
    let wins := { heard 7 with role := .follower, claims := [claimOf 3 150 true] }
    WarnLaw (one (heard 7)) ∧ (s.claimedBy 3 (heard 7) p).map Entry.role = some .reporter ∧
      (s.claimedBy 3 (heard 7) { p with q := 240, reporter := true }).map Entry.role = some .follower ∧
      (s.claimedBy 3 wins p).map Entry.role = some .reporter := by
  exact ⟨⟨by simp [one, running, State.reset], by simp [one, running, State.reset]⟩, by decide⟩

theorem witness_AckTaken :
    let e := { heard 7 with presence := .silent, lostForget := .expired, recSignal := active .higher }
    let s := { one e with rx := [⟨0, .ack 7 .signal .higher⟩] }
    (TableLaw s ∧ SoundLaw s) ∧ s.inDispatch = none ∧ s.rx = ⟨0, .ack 7 .signal .higher⟩ :: [] ∧ s.entry? 7 = some e ∧
      s.entry? 8 = none ∧ (e.record .signal).level = .higher ∧ (e.record .battery).level ≠ .higher ∧
      (e.presence = .silent ∧ e.lostForget = .expired) ∧ (heard 7).lostForget ≠ .expired := ⟨laws _ (by decide), by decide⟩

theorem witness_QueriesAnswered :
    let s := { one (heard 7) with rx := [⟨0, .query 5 .stats⟩] }
    SoundLaw s ∧ s.inDispatch = none ∧ s.rx = ⟨0, .query 5 .stats⟩ :: [] ∧ 5 = s.number ∧ 6 ≠ s.number ∧ s.station = .running ∧
      ({ s with rx := [⟨0, .query 5 (.entry 7)⟩] }).rx = ⟨0, .query 5 (.entry 7)⟩ :: [] ∧
      ({ s with rx := [⟨3, .report .stats []⟩] }).rx = ⟨3, .report .stats []⟩ :: [] ∧ s.tx.length < 16 ∧
      (∃ g ∈ List.replicate 16 (⟨.claim 1 [], 0⟩ : TxFrame), 3 < g.frame.cls) ∧
      (16 ≤ (List.replicate 16 (⟨.station stationReport, 0⟩ : TxFrame)).length ∧
        ∀ g ∈ List.replicate 16 (⟨.station stationReport, 0⟩ : TxFrame), g.frame.cls ≤ 3) :=
  ⟨(laws _ (by decide)).2, by decide⟩

theorem witness_RestartClears :
    let s := { one (heard 7) with rx := [⟨0, .restart⟩, ⟨3, .report .stats []⟩] }
    s.inDispatch = none ∧ s.rx = ⟨0, .restart⟩ :: [⟨3, .report .stats []⟩] ∧ s.station ≠ .listenOnly ∧
      ({ s with station := .listenOnly }).station = .listenOnly := by decide

/-- An open request with room, one in a full queue with less urgent frames, one in a full queue of class 0, and a closed one. -/
theorem witness_WarnRequest :
    let e := { heard 7 with recBattery := active .lower }
    let s := { one e with tx := pressed }
    (TableLaw s ∧ SoundLaw s) ∧ s.tx.length ≤ 16 ∧ s.entry? 7 = some e ∧ s.station = .running ∧ e.role = .reporter ∧
      s.zone = .notInForce ∧ (s.tx.filter fun t => !t.frame.warnFor 7 .battery).length = 16 ∧ (one e).tx.length < 16 ∧
      (∃ g ∈ s.tx, (Frame.warn (composeWarn s.now e .battery .raise)).cls < g.frame.cls) ∧
      (∀ g ∈ List.replicate 16 (⟨.station stationReport, 0⟩ : TxFrame),
        g.frame.cls ≤ (Frame.warn (composeWarn s.now e .battery .raise)).cls) ∧ (heard 7).role ≠ .follower ∧
      (∃ g ∈ List.replicate 16 (⟨.warn { warn188 with reason := .clear }, 0⟩ : TxFrame),
        (Frame.warn (composeWarn s.now e .battery .raise)).cls < g.frame.cls) :=
  ⟨laws _ (by decide), by decide⟩

/-- Every event that can find a bad entry: its timers and a claim of it due, a frame and a sighting for it, a full table with it
among the candidates, and a floor sweep. -/
theorem witness_IntegrityFaultsAndWindow_found :
    let r := { active .lower with persist := .running 100000 }
    let bad := { heard 7 with
      checkGood := false, claims := [claimOf 3 150 false], lostForget := .running 100000, pendingTimer := .running 100000,
      takeover := .running 100000, cueRefresh := .running 100000, recBattery := r, recMute := r, recSignal := r,
      battery := { Battery.fresh with epoch := .running 100000, stale := .running 100000 } }
    let s := { one bad with intake := queued 1, rx := [⟨5, .claim [⟨7, 150, true⟩]⟩], floorTimer := .running 100000 }
    let table := (List.range 96).map fun i => { heard (i + 1) with checkGood := decide (i ≠ 6) }
    let due := fun x : Timer => x.isDue s.now = true
    TableLaw s ∧ s.entry? 7 = some bad ∧ bad.checkGood = false ∧ (due bad.loss ∧ due bad.forget ∧ due bad.lostForget ∧
        due bad.battery.epoch ∧ due bad.battery.stale ∧ due bad.recMute.persist ∧ due bad.recMute.repeatTimer ∧
        due bad.pendingTimer ∧ due bad.takeover ∧ due bad.cueRefresh) ∧
      ((bad.claims.find? fun x => x.station == 3) = some (claimOf 3 150 false) ∧ due (.running (99000 + 2 * 500))) ∧
      (s.inDispatch = none ∧ s.rx = ⟨5, .claim [⟨7, 150, true⟩]⟩ :: [] ∧ (5 : Nat) ≠ 0) ∧
      (s.underway = none ∧ s.intake = ⟨99000, 7, -50, false, none, none, false⟩ :: [] ∧ running.entry? 7 = none) ∧
      (table.length = 96 ∧ ({ s with table := table }).entry? 480 = none ∧ table = table.take 6 ++ { heard 7 with checkGood := false } ::
        table.drop 7 ∧ ∀ x ∈ table.take 6, x.checkGood = true) ∧
      (due s.floorTimer ∧ s.station = .running ∧ s.window.isRunning = false) := by
  refine ⟨⟨by decide, by decide, by decide, by decide⟩, by decide +kernel⟩

/-- A bad entry beside a good one, with the window closed and open, and in LISTEN_ONLY; a window that ends. -/
theorem witness_IntegrityFaultsAndWindow :
    let bad := { heard 7 with checkGood := false }
    let s := { running with table := [bad, heard 9], window := .running 100000, fault := some (.table 3) }
    TableLaw s ∧ s.entry? 7 = some bad ∧ bad.checkGood = false ∧ (∀ x ∈ s.table, x.mic ≠ 7 → x.checkGood = true) ∧
      bad.loss.isDue s.now = true ∧ s.station ≠ .starting ∧ s.station ≠ .listenOnly ∧ s.window.isRunning = true ∧
      running.window.isRunning = false ∧ s.window.isDue s.now = true ∧ s.fault = some (.table 3) ∧
      ∀ mic, ({ s with fault := some .badId }).fault ≠ some (.table mic) := by
  refine ⟨⟨by decide, by decide, by decide, by decide⟩, by decide, by decide, by decide, by decide, by decide, by decide, by decide,
    by decide, by decide, by decide, fun mic => by simp⟩

/-- R168, R169: a state for each row of the two tables of patterns. -/
theorem witness_StepKeepsTheOutputs_rows :
    let quiet := one { heard 7 with recBattery := { active .higher with acked := true } }
    let lower := one { heard 7 with recBattery := active .lower }
    let higher := one { heard 7 with recBattery := active .higher }
    [(one (heard 7)).lampPattern .battery, lower.lampPattern .battery, higher.lampPattern .battery, quiet.lampPattern .battery] =
      [0, 1, 2, 7] ∧
    [State.reset.lampPattern .station, ({ running with station := .joining }).lampPattern .station, running.lampPattern .station,
      ({ running with source := .defaults }).lampPattern .station, ({ running with zone := .inForce .count }).lampPattern .station,
      ({ running with station := .feedDown, zone := .inForce .feed }).lampPattern .station,
      ({ running with station := .listenOnly }).lampPattern .station] = [0, 5, 7, 6, 1, 1, 2] := by decide

/-- R160: an entry for each row of the cue table. -/
theorem witness_StepKeepsTheCues_rows :
    [heard 7, { heard 7 with recBattery := active .lower }, { heard 7 with recBattery := active .higher },
      { heard 7 with recBattery := active .lower, recMute := active .lower },
      { heard 7 with recBattery := active .lower, recMute := active .higher }].map cuePattern = [0, 1, 2, 3, 4] := by decide

/-! ## A state that keeps every law -/

/-- RUNNING with one reported entry, its BATTERY record ACTIVE at LOW and announced, and a WARN and a STATION frame queued. -/
def reported : Entry :=
  { heard 7 with
    recBattery := active .lower
    cue := 1
    cueRefresh := .running 101000 }

def rich : State :=
  { one reported with
    tx := [⟨.station stationReport, 0⟩, ⟨.warn { warn188 with mic := 7 }, 0⟩]
    lampBattery := ⟨1, .on, .running 100200, none⟩
    pending := [.floorTimerExpiry, .lossTimerExpiry 7] }

theorem rich_step : step rich = .next { rich with pending := [.lossTimerExpiry 7] } := rfl

theorem witness_StepKeepsTheTable : TableLaw rich ∧ SoundLaw rich := laws rich (by decide)

theorem witness_StepKeepsTheBounds : QueueLaw rich := by
  constructor <;> decide

theorem witness_StepKeepsTheQueueOrder : OrderLaw rich := by
  constructor <;> decide

theorem witness_StepKeepsTheQueuedWarns : WarnLaw rich ∧ ZoneQueueLaw rich := by
  refine ⟨⟨?_, ?_⟩, ?_⟩
  · simp [rich, Frame.warnFor]
  · intro t ht w hw
    simp only [rich, List.mem_cons, List.not_mem_nil, or_false] at ht
    rcases ht with rfl | rfl
    · cases hw
    · cases hw; exact ⟨reported, by decide, by decide⟩
  · intro h; exact absurd rfl h

theorem witness_StepKeepsPresence : TableLaw rich ∧ PresenceLaw rich ∧ RosterLaw rich :=
  ⟨(laws rich (by decide)).1, by constructor <;> decide, by unfold RosterLaw; decide⟩

theorem witness_StepKeepsTheRecords : RecordLaw rich :=
  recordLaw_one reported (active_lawful _ (by decide)) fresh_lawful fresh_lawful

theorem witness_StepKeepsTheRepeats : RepeatLaw rich := by
  intro e he k
  simp only [rich, one, List.mem_singleton] at he
  subst he
  cases k <;> decide

theorem witness_StepKeepsTheStationStates : StartingLaw rich ∧ JoiningLaw rich ∧ ListenOnlyLaw rich := by
  refine ⟨⟨by decide, by decide, by decide, by decide, by decide⟩, ⟨by decide, by decide⟩, ⟨?_, ?_, by decide⟩⟩ <;>
    (intro h; exact absurd h (by decide))

theorem witness_StepKeepsTheZone : ZoneLaw rich := by
  constructor <;> decide

theorem witness_StepKeepsTheOutputs : AttnLaw rich ∧ LampLaw rich := by
  refine ⟨by unfold AttnLaw; decide, fun l => ?_⟩
  cases l <;> exact ⟨⟨by decide, by decide, by decide, by decide, by decide⟩, by decide⟩

theorem witness_StepKeepsTheCues : CueLaw rich := by
  intro e he
  simp only [rich, one, List.mem_singleton] at he
  subst he
  exact ⟨fun _ => by decide, by decide⟩

end Sys2Proof.Tests
end

section
/-! Facts about the shared operations that the proofs below use: what a step runs, what hand-offs keep, sweeps that change every
entry alike, and STATION requests. -/

namespace Sys2Proof.Machine

/-! ## Steps -/

/-- What a step can do: the front command with the queue's rest, the rest of a sighting's processing, or one millisecond. -/
theorem step_cases {s t : State} (h : step s = .next t) :
    (∃ c rest, s.pending = c :: rest ∧ exec c { s with pending := rest } = .next t) ∨
    (s.pending = [] ∧ ∃ p, s.underway = some p ∧ exec (.sightingTaken lastStep) s = .next t) ∨
    (s.pending = [] ∧ s.underway = none ∧ t = { s with now := s.now + 1 }) := by
  unfold step at h
  split at h
  · exact .inl ⟨_, _, ‹_›, h⟩
  · split at h
    · exact .inr (.inl ⟨‹_›, _, ‹_›, h⟩)
    · exact .inr (.inr ⟨‹_›, ‹_›, by cases h; rfl⟩)

/-! ## What hand-offs keep -/

/-- Hand-offs keep the number of entries. -/
theorem State.Told.occupancy {s t : State} (h : s.Told t) : t.table.length = s.table.length := by
  simpa [State.mics] using congrArg List.length h.mics

/-- Hand-offs keep the table's laws. -/
theorem State.Told.table {s t : State} (h : s.Told t) (hT : TableLaw s) : TableLaw t := by
  have hm := h.mics
  obtain ⟨-, -, -, -, -, -, -, -, -, -, hi, -⟩ := h.keep
  refine ⟨hm ▸ hT.ascending, h.occupancy ▸ hT.atMost96, fun e he => ?_, hi ▸ hT.queuedSeats⟩
  obtain ⟨x, hx, hxe⟩ := List.mem_map.mp (hm ▸ List.mem_map_of_mem he : e.mic ∈ s.mics)
  exact hxe ▸ hT.seats x hx

/-- Hand-offs leave the feed, the claim-round timer and the partial flag. -/
theorem State.Told.keep_feed {s t : State} (h : s.Told t) :
    t.feed = s.feed ∧ t.feedTimer = s.feedTimer ∧ t.claimRound = s.claimRound ∧ t.partialImage = s.partialImage := by
  have heq := h.only
  unfold State.onlyHandOffs at heq
  rw [heq]
  exact ⟨rfl, rfl, rfl, rfl⟩

/-! ## Entries and sweeps -/

/-- A change of an entry that is not there changes nothing. -/
theorem State.modEntry_absent {s : State} {mic : Nat} (h : s.entry? mic = none) (f : Entry → Entry) : s.modEntry mic f = s := by
  have hmap : (s.table.map fun e => if e.mic = mic then ({ f e with checkGood := true } : Entry) else e) = s.table :=
    (List.map_congr_left fun e he => if_neg (State.entry?_none.mp h e he)).trans (List.map_id _)
  show { s with table := _ } = s
  rw [hmap]

/-- A step on an input neither reads nor changes what the chamber was told and the repeat timer. -/
theorem Record.step_untold (p : Params) (now : Nat) (k : Kind) (i : Input) (r : Record) :
    r.untold.step p now k i = (r.step p now k i).untold := by
  unfold Record.step
  have hst : r.untold.state = r.state := rfl
  rw [hst]
  cases i with
  | unknown => cases r.state <;> rfl
  | level l => cases r.state <;> simp only [apply_ite Record.untold] <;> rfl

/-- An entry that no other shares the mic ID with is the one found. -/
theorem State.entry?_middle {s : State} {pre post : List Entry} {e : Entry} (h : s.table = pre ++ e :: post)
    (hpre : ∀ x ∈ pre, x.mic ≠ e.mic) : s.entry? e.mic = some e := by
  rw [State.entry?, h, List.find?_append, List.find?_eq_none.mpr fun x hx => by simpa using hpre x hx]
  simp

/-- A change of such an entry leaves the table on both sides of it. -/
theorem State.modEntry_middle {s : State} {pre post : List Entry} {e : Entry} (h : s.table = pre ++ e :: post)
    (hpre : ∀ x ∈ pre, x.mic ≠ e.mic) (hpost : ∀ x ∈ post, x.mic ≠ e.mic) (f : Entry → Entry) :
    (s.modEntry e.mic f).table = pre ++ { f e with checkGood := true } :: post := by
  have hsame : ∀ l : List Entry, (∀ x ∈ l, x.mic ≠ e.mic) →
      l.map (fun x => if x.mic = e.mic then ({ f x with checkGood := true } : Entry) else x) = l :=
    fun l hl => (List.map_congr_left fun x hx => if_neg (hl x hx)).trans (List.map_id l)
  simp only [State.modEntry, State.mapEntry, h, List.map_append, List.map_cons, if_true, hsame pre hpre, hsame post hpost]

/-- A sweep over distinct sound entries whose visit to each changes it by `f` changes the whole table by `f`; `P` is whatever
else the visits keep. By induction on the entries still to visit, behind those that have been changed. -/
theorem State.sweep_maps {P : State → Prop} {fx act : Nat → State → State} {f : Entry → Entry} (hf : ∀ e, (f e).mic = e.mic)
    (hact : ∀ mic u, P u → P (act mic u) ∧ (act mic u).table = (u.modEntry mic f).table) {s : State} (hn : s.mics.Nodup)
    (hs : SoundLaw s) (h : P s) :
    P (s.sweep fx act) ∧ (s.sweep fx act).table = s.table.map fun e => { f e with checkGood := true } := by
  suffices ∀ (rest done : List Entry) (u : State), u.table = (done.map fun e => { f e with checkGood := true }) ++ rest →
      ((done ++ rest).map Entry.mic).Nodup → (∀ e ∈ rest, e.checkGood = true) → P u →
      let t := (rest.map Entry.mic).foldl (fun s mic => s.verified fx mic fun _ => act mic) u
      P t ∧ t.table = (done ++ rest).map fun e => { f e with checkGood := true } from this s.table [] s rfl hn hs h
  intro rest
  induction rest with
  | nil => exact fun done u hu _ _ hP => ⟨hP, by simpa using hu⟩
  | cons e rest ih =>
    intro done u hu hnd hgood hP
    have hapart : ∀ x ∈ done ++ rest, x.mic ≠ e.mic := by
      have hp := hnd.perm (List.perm_middle.map Entry.mic)
      rw [List.map_cons, List.nodup_cons] at hp
      exact fun x hx hm => hp.1 (hm ▸ List.mem_map_of_mem hx)
    have hdone : ∀ x ∈ done.map (fun e => ({ f e with checkGood := true } : Entry)), x.mic ≠ e.mic := by
      intro x hx
      obtain ⟨y, hy, rfl⟩ := List.mem_map.mp hx
      simpa [hf] using hapart y (by simp [hy])
    obtain ⟨hP', htable⟩ := hact e.mic u hP
    have hvisit : u.verified fx e.mic (fun _ => act e.mic) = act e.mic u := by
      simp [State.verified, State.entry?_middle hu hdone, hgood e (by simp)]
    rw [List.map_cons, List.foldl_cons, hvisit]
    have hmiddle := State.modEntry_middle hu hdone (fun x hx => hapart x (by simp [hx])) f
    have key := ih (done ++ [e]) (act e.mic u) (by rw [htable, hmiddle]; simp) (by simpa using hnd)
      (fun x hx => hgood x (by simp [hx])) hP'
    simpa using key

/-! ## STATION requests (R143, R146, R147, R151) -/

/-- A frame that takes a place stands among frames that were queued before. -/
theorem State.submit_placed {f : Frame} {s : State} (h : (s.submit f).2 = true) :
    ∃ pre post, (s.submit f).1.tx = pre ++ ⟨f, 0⟩ :: post ∧ ∀ g ∈ pre ++ post, g ∈ s.tx := by
  rcases State.submit_cases f s with ⟨-, hs⟩ | ⟨-, v, rest, hv, hs⟩ | ⟨-, -, hs⟩ <;> rw [hs] at h ⊢
  · obtain ⟨pre, post, hq, hp, -, -⟩ := placeTx_split ⟨f, 0⟩ s.tx
    exact ⟨pre, post, hp, fun g hg => hq ▸ hg⟩
  · obtain ⟨-, -, before, after, hq, rfl, -⟩ := victimFor_some hv
    obtain ⟨pre, post, hr, hp, -, -⟩ := placeTx_split ⟨f, 0⟩ (before ++ after)
    refine ⟨pre, post, by rw [State.discardFrame_eq]; exact hp, fun g hg => ?_⟩
    have hmem : g ∈ before ++ after := hr ▸ hg
    rw [hq]
    simp only [List.mem_append, List.mem_cons] at hmem ⊢
    tauto
  · cases h

/-- A STATION request changes the queue with its timer, the counter of drops and, by a discard, the table. -/
theorem State.requestStation_eq (start : Bool) (s : State) :
    s.requestStation start = { s with
      tx := (s.requestStation start).tx
      table := (s.requestStation start).table
      stationRepeat := (s.requestStation start).stationRepeat
      counters := (s.requestStation start).counters } := by
  unfold State.requestStation
  split
  · dsimp only
    split <;> rw [State.submit_eq] <;> rfl
  · rfl

@[simp] theorem State.requestStation_zone (start : Bool) (s : State) : (s.requestStation start).zone = s.zone := by
  rw [State.requestStation_eq]

@[simp] theorem State.requestStation_zoneRepeat (start : Bool) (s : State) :
    (s.requestStation start).zoneRepeat = s.zoneRepeat := by
  rw [State.requestStation_eq]

/-- A STATION request that is accepted leaves one STATION frame in the queue, the station's report, among frames that were there. -/
theorem State.requestStation_tx {s : State} (h : s.station.sendsStation = true) (start : Bool) :
    ∃ pre post, (s.requestStation start).tx = pre ++ ⟨.station (composeStation s), 0⟩ :: post ∧
      ∀ g ∈ pre ++ post, g ∈ s.tx ∧ g.frame.isStation = false := by
  have hnone : ∀ g ∈ (s.removeWhere Frame.isStation).tx, g ∈ s.tx ∧ g.frame.isStation = false := fun g hg => by
    simpa using hg
  obtain ⟨pre, post, htx, hmem⟩ :=
    State.submit_placed (State.submit_station (r := composeStation s) fun g hg => (hnone g hg).2)
  refine ⟨pre, post, ?_, fun g hg => hnone g (hmem g hg)⟩
  rw [State.requestStation, if_pos h]
  dsimp only
  split <;> exact htx

/-- A STATION request adds no other frame. -/
theorem State.mem_requestStation {s : State} {start : Bool} {g : TxFrame} (h : g ∈ (s.requestStation start).tx) :
    g ∈ s.tx ∨ g.frame.isStation = true := by
  by_cases hs : s.station.sendsStation = true
  · obtain ⟨pre, post, htx, hmem⟩ := State.requestStation_tx hs start
    rw [htx] at h
    rcases List.mem_append.mp h with h | h
    · exact .inl (hmem g (by simp [h])).1
    · rcases List.mem_cons.mp h with rfl | h
      · exact .inr rfl
      · exact .inl (hmem g (by simp [h])).1
  · rw [State.requestStation, if_neg hs] at h
    exact .inl h

theorem Frame.lostWarn_of_isStation {f : Frame} (h : f.isStation = true) : f.lostWarn = false := by
  cases f with
  | station r => rfl
  | _ => cases h

/-- The STATION frames of the queue after an accepted request: the one report. -/
theorem State.requestStation_filter {s : State} (h : s.station.sendsStation = true) (start : Bool) :
    (s.requestStation start).tx.filter (fun f => f.frame.isStation) = [⟨.station (composeStation s), 0⟩] := by
  obtain ⟨pre, post, htx, hmem⟩ := State.requestStation_tx h start
  have hpre : pre.filter (fun f => f.frame.isStation) = [] :=
    List.filter_eq_nil_iff.mpr fun g hg => by simp [(hmem g (by simp [hg])).2]
  have hpost : post.filter (fun f => f.frame.isStation) = [] :=
    List.filter_eq_nil_iff.mpr fun g hg => by simp [(hmem g (by simp [hg])).2]
  rw [htx, List.filter_append, List.filter_cons_of_pos rfl, hpre, hpost]
  rfl

end Sys2Proof.Machine
end

section
/-! The capacities of the queues and lists (R4, R9, R81, R109, R137, R141, R163): each operation of the part keeps them, in the
order of the model's files, and so does every step. -/

namespace Sys2Proof.Machine

/-! ## Lists built by the floor frame and by claims -/

theorem mem_insertAsc {n x : Nat} {l : List Nat} : x ∈ insertAsc n l ↔ x = n ∨ x ∈ l := by
  induction l with
  | nil => simp [insertAsc]
  | cons y rest ih =>
    simp only [insertAsc]
    split
    · simp only [List.mem_cons, ih]; tauto
    · simp

theorem length_insertAsc (n : Nat) (l : List Nat) : (insertAsc n l).length = l.length + 1 := by
  induction l with
  | nil => rfl
  | cons y rest ih =>
    simp only [insertAsc]
    split <;> simp [ih]

theorem insertAsc_ascending {n : Nat} {l : List Nat} (h : l.Pairwise (· < ·)) (hn : n ∉ l) :
    (insertAsc n l).Pairwise (· < ·) := by
  induction l with
  | nil => simp [insertAsc]
  | cons y rest ih =>
    obtain ⟨hy, hrest⟩ := List.pairwise_cons.mp h
    obtain ⟨hne, hnr⟩ : n ≠ y ∧ n ∉ rest := by simpa using hn
    simp only [insertAsc]
    split
    · refine List.pairwise_cons.mpr ⟨fun x hx => ?_, ih hrest hnr⟩
      rcases mem_insertAsc.mp hx with rfl | hx
      · omega
      · exact hy x hx
    · refine List.pairwise_cons.mpr ⟨fun x hx => ?_, h⟩
      rcases List.mem_cons.mp hx with rfl | hx
      · omega
      · have := hy x hx; omega

/-- The fields of a FLOOR frame kept so far: distinct seat numbers, at most 8 (R82). -/
structure KeptFields (kept : List Nat) : Prop where
  nodup : kept.Nodup
  atMost8 : kept.length ≤ floorMax
  seats : ∀ n ∈ kept, 1 ≤ n ∧ n ≤ micMax

theorem KeptFields.keepField {kept : List Nat} (h : KeptFields kept) (mic : Nat) : KeptFields (keepField kept mic) := by
  unfold Machine.keepField
  split
  · exact h
  · split
    · exact h
    · split
      · exact h
      · rename_i hseat hnew hroom
        refine ⟨List.nodup_append.mpr ⟨h.nodup, by simp, ?_⟩, by simp; omega, fun n hn => ?_⟩
        · rintro a ha b hb rfl
          obtain rfl : a = mic := by simpa using hb
          exact hnew ha
        · rcases List.mem_append.mp hn with hn | hn
          · exact h.seats n hn
          · obtain rfl : n = mic := by simpa using hn
            omega

theorem KeptFields.foldl {fields kept : List Nat} (h : KeptFields kept) : KeptFields (fields.foldl Machine.keepField kept) := by
  induction fields generalizing kept with
  | nil => exact h
  | cons mic rest ih => exact ih (h.keepField mic)

/-- Distinct fields sorted by insertion: the same fields, strictly ascending. -/
theorem foldr_insertAsc {l : List Nat} (h : l.Nodup) :
    (l.foldr insertAsc []).length = l.length ∧ (∀ x, x ∈ l.foldr insertAsc [] ↔ x ∈ l) ∧
      (l.foldr insertAsc []).Pairwise (· < ·) := by
  induction l with
  | nil => simp
  | cons n rest ih =>
    obtain ⟨hn, hrest⟩ := List.nodup_cons.mp h
    obtain ⟨hlen, hmem, hasc⟩ := ih hrest
    refine ⟨by simp [length_insertAsc, hlen], fun x => by simp [mem_insertAsc, hmem], ?_⟩
    exact insertAsc_ascending hasc (by rwa [hmem])

/-- The floor set of any list of fields is at most 8 seat numbers, strictly ascending (R81, R82). -/
theorem floorSetOf_form (fields : List Nat) :
    (floorSetOf fields).length ≤ floorMax ∧ (floorSetOf fields).Pairwise (· < ·) ∧
      ∀ n ∈ floorSetOf fields, 1 ≤ n ∧ n ≤ micMax := by
  have hk : KeptFields (fields.foldl keepField []) := KeptFields.foldl ⟨by simp, by simp, by simp⟩
  obtain ⟨hlen, hmem, hasc⟩ := foldr_insertAsc hk.nodup
  exact ⟨by rw [floorSetOf, hlen]; exact hk.atMost8, hasc, fun n hn => hk.seats n ((hmem n).mp hn)⟩

theorem length_insertClaim (p : Params) (c : Claim) (l : List Claim) : (insertClaim p c l).length = l.length + 1 := by
  induction l with
  | nil => rfl
  | cons x rest ih =>
    simp only [insertClaim]
    split <;> simp [ih]

/-- A claim list stays within three claims, whichever case of R110 applies. -/
theorem enterClaim_length {p : Params} {c : Claim} {l l' : List Claim} (hl : l.length ≤ claimMax)
    (h : enterClaim p c l = some l') : l'.length ≤ claimMax := by
  unfold enterClaim at h
  split at h
  · rename_i hany
    obtain ⟨x, hx, hst⟩ := List.any_eq_true.mp hany
    obtain rfl : insertClaim p c (withoutStation c.station l) = l' := by simpa using h
    have hlt : (withoutStation c.station l).length < l.length :=
      List.length_filter_lt_length_iff_exists.mpr ⟨x, hx, by simpa using hst⟩
    rw [length_insertClaim]; omega
  · split at h
    · obtain rfl : insertClaim p c l = l' := by simpa using h
      rw [length_insertClaim]; omega
    · rename_i hfull
      split at h
      · split at h
        · obtain rfl : insertClaim p c l.dropLast = l' := by simpa using h
          have hpos : 0 < claimMax := by decide
          rw [length_insertClaim, List.length_dropLast]; omega
        · cases h
      · cases h

/-- The error history holds at most 16 flags after a newest one, whatever it held (R9). -/
theorem pushFlag_length (history : List Bool) (f : Bool) : (pushFlag history f).length ≤ historyMax := by
  simp [pushFlag]; omega

/-! ## One entry -/

/-- The capacities of an entry's lists (R109, R9). -/
def Entry.Fits (e : Entry) : Prop := e.claims.length ≤ claimMax ∧ e.history.length ≤ historyMax

theorem Entry.Fits.setRecord {e : Entry} (h : e.Fits) (k : Kind) (r : Record) : (e.setRecord k r).Fits := by
  cases k <;> exact h

theorem Entry.Fits.sample {e : Entry} (h : e.Fits) (p : Params) (now : Nat) (g : Sighting) : (e.sample p now g).Fits := by
  unfold Entry.sample
  split <;> exact h

theorem Entry.Fits.muteStep {e : Entry} (h : e.Fits) (floorSet : List Nat) (g : Sighting) : (e.muteStep floorSet g).Fits := by
  unfold Entry.muteStep
  split <;> exact h

/-! ## The state -/

/-- What the capacities speak of. -/
def State.stores (s : State) : List Sighting × List RxFrame × List TxFrame × List Cue × List Entry × List Nat :=
  (s.intake, s.rx, s.tx, s.cueQueue, s.table, s.floorSet)

namespace QueueLaw

variable {s t : State}

theorem fits (h : QueueLaw s) : ∀ e ∈ s.table, e.Fits := fun e he => ⟨h.claims e he, h.history e he⟩

/-- The capacities hold of a state that holds the same in the queues and lists. -/
theorem frame (h : QueueLaw s) (ht : t.stores = s.stores) : QueueLaw t := by
  obtain ⟨hi, hr, hx, hc, hl, hf⟩ : t.intake = s.intake ∧ t.rx = s.rx ∧ t.tx = s.tx ∧ t.cueQueue = s.cueQueue ∧
      t.table = s.table ∧ t.floorSet = s.floorSet := by simpa [State.stores] using ht
  exact ⟨hi ▸ h.intake, hr ▸ h.rx, hx ▸ h.tx, hc ▸ h.cues, hc ▸ h.oneCue, hl ▸ h.claims, hl ▸ h.history, hf ▸ h.floor,
    hf ▸ h.floorAscending, hf ▸ h.floorSeats⟩

theorem withTx (h : QueueLaw s) {q : List TxFrame} (hq : q.length ≤ txMax) : QueueLaw { s with tx := q } :=
  { h with tx := hq }

theorem withTable (h : QueueLaw s) {l : List Entry} (hl : ∀ e ∈ l, e.Fits) : QueueLaw { s with table := l } :=
  { h with claims := fun e he => (hl e he).1, history := fun e he => (hl e he).2 }

theorem withIntake (h : QueueLaw s) {q : List Sighting} (hq : q.length ≤ intakeMax) : QueueLaw { s with intake := q } :=
  { h with intake := hq }

theorem withRx (h : QueueLaw s) {q : List RxFrame} (hq : q.length ≤ rxMax) : QueueLaw { s with rx := q } :=
  { h with rx := hq }

theorem withCues (h : QueueLaw s) {q : List Cue} (hq : q.length ≤ cueMax) (ho : q.Pairwise fun a b => a.mic ≠ b.mic) :
    QueueLaw { s with cueQueue := q } :=
  { h with cues := hq, oneCue := ho }

/-! ## Entries -/

theorem count (h : QueueLaw s) (k : Counter) : QueueLaw (s.count k) := h.frame rfl

theorem mapEntry (h : QueueLaw s) (mic : Nat) {f : Entry → Entry} (hf : ∀ e, e.Fits → (f e).Fits) :
    QueueLaw (s.mapEntry mic f) := by
  refine h.withTable fun e he => ?_
  obtain ⟨x, hx, rfl⟩ := List.mem_map.mp he
  split
  · exact hf x (h.fits x hx)
  · exact h.fits x hx

theorem modEntry (h : QueueLaw s) (mic : Nat) {f : Entry → Entry} (hf : ∀ e, e.Fits → (f e).Fits) :
    QueueLaw (s.modEntry mic f) := h.mapEntry mic hf

theorem modRecord (h : QueueLaw s) (mic : Nat) (k : Kind) (f : Record → Record) : QueueLaw (s.modRecord mic k f) :=
  h.modEntry mic fun _ he => he.setRecord k _

theorem dropEntry (h : QueueLaw s) (mic : Nat) : QueueLaw (s.dropEntry mic) :=
  h.withTable fun e he => h.fits e (List.mem_of_mem_filter he)

theorem verified (h : QueueLaw s) {fx : Nat → State → State} (hfx : ∀ mic s, QueueLaw s → QueueLaw (fx mic s)) (mic : Nat)
    {act : Entry → State → State} (hact : ∀ e, s.entry? mic = some e → QueueLaw (act e s)) : QueueLaw (s.verified fx mic act) := by
  rcases State.verified_cases fx mic act s with hv | ⟨-, -, -, hv⟩ | ⟨e, he, -, hv⟩ <;> rw [hv]
  · exact h
  · exact hfx mic s h
  · exact hact e he

theorem sweep (h : QueueLaw s) {fx act : Nat → State → State} (hfx : ∀ mic s, QueueLaw s → QueueLaw (fx mic s))
    (hact : ∀ mic s, QueueLaw s → QueueLaw (act mic s)) : QueueLaw (s.sweep fx act) :=
  State.sweep_keeps (P := QueueLaw) (fun mic s _ _ _ hs => hfx mic s hs) (fun mic s _ _ _ hs => hact mic s hs) h

/-! ## The transmit queue -/

theorem discardFrame (h : QueueLaw s) (f : Frame) : QueueLaw (s.discardFrame f) := by
  rcases State.discardFrame_cases f s with hd | ⟨w, -, hd⟩ <;> rw [hd]
  · exact h
  · refine h.mapEntry w.mic fun e he => ?_
    dsimp only
    split
    · exact he
    · exact he.setRecord w.kind _

theorem removeWhere (h : QueueLaw s) (drop : Frame → Bool) : QueueLaw (s.removeWhere drop) :=
  h.withTx ((List.length_filter_le _ _).trans h.tx)

theorem discardWhere (h : QueueLaw s) (drop : Frame → Bool) : QueueLaw (s.discardWhere drop) :=
  State.discardWhere_keeps (P := QueueLaw) (fun f _ hs => hs.discardFrame f) drop (h.removeWhere drop)

theorem submit (h : QueueLaw s) (f : Frame) : QueueLaw (s.submit f).1 := by
  have hlen := State.submit_length (f := f) h.tx
  rcases State.submit_cases f s with ⟨-, hs⟩ | ⟨-, v, rest, -, hs⟩ | ⟨-, -, hs⟩ <;> rw [hs] at hlen ⊢
  · exact h.withTx hlen
  · rw [State.discardFrame_eq] at hlen
    exact ((h.withTx (q := placeTx ⟨f, 0⟩ rest) hlen).count .framesDropped).discardFrame v.frame
  · exact h.count .framesDropped

theorem requestWarn (h : QueueLaw s) (mic : Nat) (k : Kind) (reason : Reason) : QueueLaw (s.requestWarn mic k reason) := by
  unfold State.requestWarn
  split
  · exact h
  · split
    · dsimp only
      split
      · exact ((h.removeWhere _).submit _).modRecord ..
      · exact (h.removeWhere _).submit _
    · exact h

theorem announce (h : QueueLaw s) (mic : Nat) (k : Kind) (reason : Reason) : QueueLaw (s.announce mic k reason) :=
  (h.requestWarn mic k reason).modEntry mic fun _ he => he.setRecord k _

theorem requestStation (h : QueueLaw s) (start : Bool) : QueueLaw (s.requestStation start) := by
  unfold State.requestStation
  split
  · dsimp only
    split
    · exact ((h.removeWhere _).submit _).frame rfl
    · exact (h.removeWhere _).submit _
  · exact h

theorem requestFrame (h : QueueLaw s) (f : Frame) : QueueLaw (s.requestFrame f) := by
  unfold State.requestFrame
  split
  · exact h.submit f
  · exact h

theorem ackQueued (h : QueueLaw s) (mic : Nat) (k : Kind) (l : Level) : QueueLaw (s.ackQueued mic k l) :=
  h.withTx (by simpa using h.tx)

theorem dropReturning (h : QueueLaw s) (f : Frame) : QueueLaw (s.dropReturning f) := (h.count _).discardFrame f

theorem recheck (h : QueueLaw s) (t : TxFrame) : QueueLaw (s.recheck t) := by
  rcases State.recheck_cases t s with hr | ⟨-, hr⟩ | ⟨-, -, hroom, hr⟩ | ⟨-, -, v, rest, hv, hr⟩ <;> rw [hr]
  · exact h.dropReturning _
  · exact h
  · exact h.withTx (by simpa using hroom)
  · obtain ⟨-, -, pre, post, hq, rfl, -⟩ := victimFor_some hv
    have hlen : (t :: (pre ++ post)).length ≤ txMax := by
      have := h.tx
      simp [hq] at this ⊢
      omega
    exact ((h.withTx hlen).count .framesDropped).discardFrame v.frame

/-! ## Lamps, cues and inputs -/

theorem selectLamp (h : QueueLaw s) (l : Lamp) : QueueLaw (s.selectLamp l) := by cases l <;> exact h.frame rfl

theorem selectWarningLamps (h : QueueLaw s) : QueueLaw s.selectWarningLamps :=
  ((h.selectLamp _).selectLamp _).selectLamp _

theorem evaluateAttn (h : QueueLaw s) : QueueLaw s.evaluateAttn := h.frame rfl

theorem stationHandOff (h : QueueLaw s) : QueueLaw s.stationHandOff := (h.selectWarningLamps.selectLamp _).evaluateAttn

theorem zoneHandOff (h : QueueLaw s) : QueueLaw s.zoneHandOff := (h.selectLamp _).evaluateAttn

theorem offerCue (h : QueueLaw s) (c : Cue) : QueueLaw (s.offerCue c) := by
  rcases State.offerCue_cases c s with ⟨q, hq, ho⟩ | ⟨-, ho⟩ <;> rw [ho]
  · obtain ⟨hlen, hone⟩ := placeCue_some hq h.cues h.oneCue
    exact h.withCues hlen hone
  · exact h.count _

theorem selectCue (h : QueueLaw s) (mic : Nat) : QueueLaw (s.selectCue mic) := by
  unfold State.selectCue
  split
  · exact h
  · split
    · split
      · exact h
      · exact (h.modEntry mic (by exact fun _ => id)).offerCue _
    · exact h.modEntry mic (by exact fun _ => id)

theorem giveInput (h : QueueLaw s) (mic : Nat) (k : Kind) : QueueLaw (s.giveInput mic k) := by
  unfold State.giveInput
  split
  · exact h
  · exact h.modRecord ..

theorem giveInputs (h : QueueLaw s) (mic : Nat) : QueueLaw (s.giveInputs mic) :=
  ((h.giveInput mic _).giveInput mic _).giveInput mic _

/-! ## The reporter role -/

theorem adopt (h : QueueLaw s) (mic : Nat) (k : Kind) : QueueLaw (s.adopt mic k) := by
  unfold State.adopt
  split
  · exact h
  · split
    · exact h.announce ..
    · exact h

theorem adoptAll (h : QueueLaw s) (mic : Nat) : QueueLaw (s.adoptAll mic) := ((h.adopt mic _).adopt mic _).adopt mic _

theorem gainReporter (h : QueueLaw s) (mic : Nat) : QueueLaw (s.gainReporter mic) :=
  (((h.modEntry mic (by exact fun _ => id)).adoptAll mic).modEntry mic (by exact fun _ => id)).selectCue mic

theorem loseReporter (h : QueueLaw s) (mic : Nat) : QueueLaw (s.loseReporter mic) :=
  (((h.modEntry mic (by exact fun _ => id)).discardWhere _).modEntry mic (by exact fun _ => id)).selectCue mic

theorem makeFollower (h : QueueLaw s) (mic : Nat) : QueueLaw (s.makeFollower mic) := by
  unfold State.makeFollower
  split
  · exact h
  · split
    · exact h.loseReporter mic
    · exact h.modEntry mic (by exact fun _ => id)

theorem decideRole (h : QueueLaw s) (mic own : Nat) : QueueLaw (s.decideRole mic own) := by
  unfold State.decideRole
  split
  · exact h
  · split
    · split
      · exact h
      · exact h.gainReporter mic
    · exact h.makeFollower mic

theorem computeRole (h : QueueLaw s) (mic : Nat) : QueueLaw (s.computeRole mic) := by
  unfold State.computeRole
  split
  · exact h
  · split
    · exact h.decideRole ..
    · exact h

/-! ## The zone, removal and faults

What a failed verification does is first any `fx` that keeps the capacities; `integrityFault` is one, by induction on its fuel. -/

theorem zoneEnter (h : QueueLaw s) (cause : ZoneCause) : QueueLaw (s.zoneEnter cause) := by
  unfold State.zoneEnter
  extract_lets cleared asked
  have hasked : QueueLaw asked := ((h.discardWhere _).frame (t := { cleared with zone := .inForce cause }) rfl).requestStation false
  exact (hasked.frame (t := { asked with zoneRepeat := asked.after asked.params.repeatMs }) rfl).zoneHandOff

theorem zoneCause (h : QueueLaw s) (cause : ZoneCause) : QueueLaw (s.zoneCause cause) := by
  unfold State.zoneCause
  extract_lets asked
  have hasked : QueueLaw asked := (h.frame (t := { s with zone := .inForce cause }) rfl).requestStation false
  exact (hasked.frame (t := { asked with zoneRepeat := asked.after asked.params.repeatMs }) rfl).zoneHandOff

theorem reannounce (h : QueueLaw s) (mic : Nat) : QueueLaw (s.reannounce mic) := by
  unfold State.reannounce
  split
  · exact h
  · split
    · exact h.announce ..
    · exact h

section
variable {fx : Nat → State → State} (hfx : ∀ mic s, QueueLaw s → QueueLaw (fx mic s))
include hfx

theorem zoneEnd (h : QueueLaw s) : QueueLaw (s.zoneEnd fx) := by
  have ended : QueueLaw { s with zone := .notInForce, zoneRepeat := .stopped } := h.frame rfl
  exact ((ended.requestStation false).sweep hfx fun mic _ hs => hs.reannounce mic).zoneHandOff

theorem updateLost (h : QueueLaw s) : QueueLaw (s.updateLost fx) := by
  have counted : QueueLaw { s with lostCount := lostOf s.table } := h.frame rfl
  unfold State.updateLost
  dsimp only
  split
  · exact counted.zoneEnter _
  · split
    · exact counted.zoneEnd hfx
    · exact counted

theorem feedCauseEnds (h : QueueLaw s) : QueueLaw (s.feedCauseEnds fx) := by
  unfold State.feedCauseEnds
  split
  · split
    · exact h.zoneCause _
    · exact h.zoneEnd hfx
  · exact h

theorem pauseEntry (h : QueueLaw s) (fromJoining : Bool) (mic : Nat) : QueueLaw (s.pauseEntry fx fromJoining mic) := by
  have paused : QueueLaw (if s.station = .feedDown then s.modEntry mic (Entry.mapPresence (Timer.pause s.now)) else s) := by
    split
    · exact h.modEntry mic (by exact fun _ => id)
    · exact h
  have given := (paused.giveInputs mic).updateLost hfx
  unfold State.pauseEntry
  dsimp only
  split
  · exact given.selectCue mic
  · exact given

theorem resumeSweep (h : QueueLaw s) : QueueLaw (s.resumeSweep fx) :=
  h.sweep hfx fun mic _ hs => ((hs.modEntry mic (by exact fun _ => id)).giveInputs mic).updateLost hfx

theorem removeEntry (h : QueueLaw s) (mic : Nat) : QueueLaw (s.removeEntry fx mic) :=
  (((h.dropEntry mic).removeWhere _).updateLost hfx).selectWarningLamps

theorem enterListenOnly (h : QueueLaw s) : QueueLaw (s.enterListenOnly fx) := by
  unfold State.enterListenOnly
  extract_lets quiet emptied stopped resumed
  have hquiet : QueueLaw quiet :=
    (h.frame (t := { s with station := .listenOnly, joining := .stopped }) rfl).sweep hfx fun mic _ hs =>
      (hs.makeFollower mic).modEntry mic (by exact fun _ => id)
  have hemptied : QueueLaw emptied := (hquiet.frame (t := { quiet with claimRound := .stopped }) rfl).discardWhere _
  have hstopped : QueueLaw stopped := hemptied.frame rfl
  have hresumed : QueueLaw resumed := by
    unfold resumed
    split
    · exact (hstopped.resumeSweep hfx).feedCauseEnds hfx
    · exact hstopped
  exact (hresumed.requestStation false).stationHandOff

theorem faultReport (h : QueueLaw s) (mic : Nat) : QueueLaw (s.faultReport fx mic) := by
  have reported : QueueLaw (if s.window.isRunning then
      ({ s with fault := some .doubleFault, window := .stopped }).enterListenOnly fx
    else ({ s with fault := some (.table mic), window := s.after windowMs }).requestStation false) := by
    split
    · exact (h.frame (t := { s with fault := some .doubleFault, window := .stopped }) rfl).enterListenOnly hfx
    · exact (h.frame (t := { s with fault := some (.table mic), window := s.after windowMs }) rfl).requestStation false
  unfold State.faultReport
  split
  · exact h
  · exact h.requestStation false
  · exact reported
  · exact reported
  · exact reported

end

theorem integrityFault (fuel mic : Nat) (s : State) (h : QueueLaw s) : QueueLaw (integrityFault fuel mic s) := by
  induction fuel generalizing mic s with
  | zero => exact h
  | succ fuel ih => exact ((h.removeEntry ih mic).count .integrityFaults).faultReport ih mic

theorem entryFault (mic : Nat) (s : State) (h : QueueLaw s) : QueueLaw (s.entryFault mic) := integrityFault _ mic s h

/-! ## Presence and claims -/

theorem presenceRole (h : QueueLaw s) (mic : Nat) : QueueLaw (s.presenceRole mic) := by
  unfold State.presenceRole
  split
  · exact h
  · split
    · exact h
    · exact (h.makeFollower mic).modEntry mic (by exact fun _ => id)
    · split
      · exact h
      · exact h.modEntry mic (by exact fun _ => id)

theorem presenceHandOff (h : QueueLaw s) (mic : Nat) : QueueLaw (s.presenceHandOff mic) :=
  ((((h.presenceRole mic).giveInputs mic).updateLost entryFault).selectCue mic).selectWarningLamps

theorem becomeCovered (h : QueueLaw s) (mic : Nat) : QueueLaw (s.becomeCovered mic) := by
  have moved := h.modEntry mic (f := fun e => { e with presence := .covered, loss := .stopped, lostForget := .stopped }) fun _ => id
  unfold State.becomeCovered
  dsimp only
  split
  · exact h
  · split
    · exact moved.removeEntry entryFault mic
    · exact moved.presenceHandOff mic

theorem becomeSilent (h : QueueLaw s) (mic : Nat) : QueueLaw (s.becomeSilent mic) :=
  (h.modEntry mic (by exact fun _ => id)).presenceHandOff mic

theorem claimsChanged (h : QueueLaw s) (mic : Nat) : QueueLaw (s.claimsChanged mic) := by
  unfold State.claimsChanged
  split
  · exact h
  · dsimp only
    split
    · exact (h.becomeCovered mic).computeRole mic
    · split
      · exact (h.becomeSilent mic).computeRole mic
      · exact h.computeRole mic

theorem enterClaimFor (h : QueueLaw s) (mic : Nat) (c : Claim) : QueueLaw (s.enterClaimFor mic c) := by
  rcases State.enterClaimFor_cases mic c s with hc | ⟨e, l, he, -, hl, hc⟩ <;> rw [hc]
  · exact h
  · have hlen := enterClaim_length (h.claims e (State.entry?_some he).1) hl
    exact (h.modEntry mic (f := fun e => { e with claims := l }) fun _ hx => ⟨hlen, hx.2⟩).claimsChanged mic

theorem removeClaim (h : QueueLaw s) (mic station : Nat) : QueueLaw (s.removeClaim mic station) := by
  unfold State.removeClaim
  split
  · exact h
  · split
    · exact (h.modEntry mic (f := fun e => { e with claims := withoutStation station e.claims })
        fun _ hx => ⟨(List.length_filter_le _ _).trans hx.1, hx.2⟩).claimsChanged mic
    · exact h

/-! ## Station states -/

theorem adoptionEntry (h : QueueLaw s) (mic : Nat) : QueueLaw (s.adoptionEntry mic) := by
  unfold State.adoptionEntry
  split
  · exact h
  · split
    · exact (h.adoptAll mic).selectCue mic
    · exact h

theorem runningWork (h : QueueLaw s) : QueueLaw s.runningWork := by
  unfold State.runningWork
  extract_lets asked timed
  have hasked : QueueLaw asked := h.requestStation true
  have htimed : QueueLaw timed := by
    unfold timed
    split
    · exact hasked.frame rfl
    · exact hasked
  exact htimed.sweep entryFault fun mic _ hs => hs.adoptionEntry mic

theorem enterRunning (h : QueueLaw s) : QueueLaw s.enterRunning :=
  (h.frame (t := { s with station := .running }) rfl).runningWork.stationHandOff

theorem enterFeedDown (h : QueueLaw s) (fromJoining : Bool) : QueueLaw (s.enterFeedDown fromJoining) := by
  have entered : QueueLaw { s with station := .feedDown, claimRound := .stopped } := h.frame rfl
  have zoned : QueueLaw ({ s with station := .feedDown, claimRound := .stopped } : State).zoneFeed := by
    unfold State.zoneFeed
    split
    · exact entered.zoneEnter _
    · exact entered.zoneCause _
  have paused := zoned.sweep entryFault fun mic _ hs => hs.pauseEntry entryFault fromJoining mic
  exact (paused.requestStation fromJoining).stationHandOff

theorem leaveFeedDown (h : QueueLaw s) : QueueLaw s.leaveFeedDown :=
  (((h.frame (t := { s with station := .running }) rfl).resumeSweep entryFault).feedCauseEnds entryFault).runningWork.stationHandOff

/-! ## The expiries of an entry's timers -/

theorem expiry (h : QueueLaw s) (mic : Nat) (timer : Entry → Timer) {act : Entry → State → State}
    (hact : ∀ e, QueueLaw (act e s)) : QueueLaw (s.expiry mic timer act) := by
  rcases State.expiry_cases mic timer act s with hx | ⟨-, -, -, -, hx⟩ | ⟨e, -, -, -, hx⟩ <;> rw [hx]
  · exact h
  · exact entryFault mic s h
  · exact hact e

theorem lossExpiry (h : QueueLaw s) (mic : Nat) : QueueLaw (s.lossExpiry mic) :=
  h.expiry mic _ fun e => by
    split
    · exact h.becomeSilent mic
    · exact h.becomeCovered mic

theorem forgetExpiry (h : QueueLaw s) (mic : Nat) : QueueLaw (s.forgetExpiry mic) :=
  h.expiry mic _ fun e => by
    split
    · exact h.removeEntry entryFault mic
    · exact h.modEntry mic (by exact fun _ => id)

theorem lostForgetExpiry (h : QueueLaw s) (mic : Nat) : QueueLaw (s.lostForgetExpiry mic) :=
  h.expiry mic _ fun e => by
    split
    · exact h.removeEntry entryFault mic
    · exact h.modEntry mic (by exact fun _ => id)

theorem epochExpiry (h : QueueLaw s) (mic : Nat) : QueueLaw (s.epochExpiry mic) :=
  h.expiry mic _ fun e => by
    split
    · exact h.modEntry mic (by exact fun _ => id)
    · exact (h.modEntry mic (by exact fun _ => id)).giveInput mic _

theorem staleExpiry (h : QueueLaw s) (mic : Nat) : QueueLaw (s.staleExpiry mic) :=
  h.expiry mic _ fun _ => (h.modEntry mic (by exact fun _ => id)).giveInput mic _

theorem levelHandOff (h : QueueLaw s) (mic : Nat) (k : Kind) : QueueLaw (s.levelHandOff mic k) := by
  rcases State.levelHandOff_cases mic k s with ⟨-, hl⟩ | ⟨e, -, ⟨-, -, hl⟩ | ⟨-, hl⟩⟩ <;> rw [hl]
  · exact h
  · exact h.removeEntry entryFault mic
  · split
    · exact ((h.updateLost entryFault).selectCue mic).selectLamp _
    · exact (h.selectCue mic).selectLamp _

theorem persistenceExpiry (h : QueueLaw s) (mic : Nat) (k : Kind) : QueueLaw (s.persistenceExpiry mic k) :=
  h.expiry mic _ fun e => by
    have moved := fun f reason => ((h.modRecord mic k f).announce mic k reason).levelHandOff mic k
    unfold State.persistenceEnds
    cases (e.record k).state with
    | quiet => exact h
    | qualifying => exact moved _ _
    | active => exact h
    | shifting => exact moved _ _
    | releasing => exact moved _ _

theorem repeatExpiry (h : QueueLaw s) (mic : Nat) (k : Kind) : QueueLaw (s.repeatExpiry mic k) :=
  h.expiry mic _ fun _ => (h.requestWarn mic k _).modRecord mic k _

theorem claimExpires (h : QueueLaw s) (mic station : Nat) : QueueLaw (s.claimExpires mic station) :=
  h.expiry mic _ fun _ => h.removeClaim mic station

theorem pendingExpiry (h : QueueLaw s) (mic : Nat) : QueueLaw (s.pendingExpiry mic) :=
  h.expiry mic _ fun e => by
    have stopped := h.modEntry mic (f := fun e => { e with pendingTimer := .stopped }) fun _ => id
    dsimp only
    split
    · exact stopped.decideRole mic _
    · exact stopped

theorem takeoverExpiry (h : QueueLaw s) (mic : Nat) : QueueLaw (s.takeoverExpiry mic) :=
  h.expiry mic _ fun e => by
    have stopped := h.modEntry mic (f := fun e => { e with takeover := .stopped }) fun _ => id
    dsimp only
    split
    · exact stopped
    · exact stopped.gainReporter mic

/-! ## Cues -/

theorem refreshExpiry (h : QueueLaw s) (mic : Nat) : QueueLaw (s.refreshExpiry mic) :=
  h.expiry mic _ fun _ => (h.offerCue _).modEntry mic (by exact fun _ => id)

theorem startTransfer (h : QueueLaw s) (crdy : Bool) : QueueLaw (s.startTransfer crdy) := by
  unfold State.startTransfer
  split
  · rename_i c rest _ hq
    split
    · have hlen : (c :: rest).length ≤ cueMax := hq ▸ h.cues
      have hone : (c :: rest).Pairwise fun a b => a.mic ≠ b.mic := hq ▸ h.oneCue
      exact (h.withCues (q := rest) (by simp at hlen; omega) (List.pairwise_cons.mp hone).2).frame rfl
    · exact h
  · exact h

theorem endTransfer (h : QueueLaw s) : QueueLaw s.endTransfer := by
  unfold State.endTransfer
  split
  · exact h.frame rfl
  · exact h

theorem phaseExpiry (h : QueueLaw s) (l : Lamp) : QueueLaw (s.phaseExpiry l) := by
  unfold State.phaseExpiry
  split
  · cases l <;> exact h.frame rfl
  · exact h

/-! ## The feed and sightings -/

theorem offerSighting (h : QueueLaw s) (g : Sighting) : QueueLaw (s.offerSighting g) := by
  unfold State.offerSighting
  split
  · rename_i hroom
    exact h.withIntake (by simpa using hroom)
  · exact h.count _

theorem feedReturn (h : QueueLaw s) : QueueLaw s.feedReturn := by
  have live : QueueLaw { s with feed := .live, feedTimer := s.after s.params.feedTimeout } := h.frame rfl
  have marked := live.sweep entryFault (act := State.voidGap) fun mic _ hs => hs.modEntry mic (by exact fun _ => id)
  have queued := marked.withIntake (q := List.map Sighting.carry _) (by rw [List.length_map]; exact marked.intake)
  unfold State.feedReturn
  dsimp only
  split
  · exact queued.leaveFeedDown
  · exact queued

theorem acceptRecord (h : QueueLaw s) (bits : List Bool) : QueueLaw (s.acceptRecord bits) := by
  unfold State.acceptRecord
  dsimp only
  split
  · exact (h.count _).feedReturn.offerSighting _
  · exact (h.frame (t := { s.count .feedAccepted with feedTimer := _ }) rfl).offerSighting _

theorem validateRecord (h : QueueLaw s) (bits : List Bool) : QueueLaw (s.validateRecord bits) := by
  unfold State.validateRecord
  cases validate bits with
  | badLength => exact h.count _
  | badCheck => exact h.count _
  | badRange => exact h.count _
  | accepted => exact h.acceptRecord bits

theorem recordDone (h : QueueLaw s) (bits : List Bool) : QueueLaw (s.recordDone bits) := by
  have idle : QueueLaw { s with strobe := .low } := h.frame rfl
  unfold State.recordDone
  dsimp only
  split
  · exact idle
  · split
    · exact idle.validateRecord _
    · exact h
    · exact idle

theorem feedSilence (h : QueueLaw s) : QueueLaw s.feedSilence := by
  have silent : QueueLaw { s with feed := .silent, feedTimer := .stopped } := h.frame rfl
  unfold State.feedSilence
  dsimp only
  split
  · split
    · exact silent.enterFeedDown false
    · exact silent
  · exact h

theorem processStep (h : QueueLaw s) (creating : Bool) (g : Sighting) (n : Nat) : QueueLaw (s.processStep creating g n) := by
  unfold State.processStep
  split
  · exact h.modEntry g.mic fun e he => ⟨he.1, pushFlag_length e.history g.errored⟩
  · exact h.modEntry g.mic fun _ he => he.sample ..
  · exact h.modEntry g.mic fun _ he => he.muteStep ..
  · exact ((h.modEntry g.mic (by exact fun _ => id)).giveInputs g.mic).updateLost entryFault
  · exact h.computeRole g.mic
  · exact h.selectCue g.mic
  · exact h.selectWarningLamps
  · exact h

theorem workThrough (p : Processing) (first count : Nat) (h : QueueLaw s) : QueueLaw (s.workThrough p first count) := by
  induction count generalizing first s with
  | zero => exact h
  | succ n ih =>
    refine ih (first + 1) ?_
    unfold State.workOn
    split
    · exact h
    · exact h.processStep ..

theorem proceed (h : QueueLaw s) (through : Nat) (p : Processing) : QueueLaw (s.proceed through p) :=
  (h.workThrough p (p.done + 1) (max p.done (min through lastStep) - p.done)).frame rfl

theorem addEntry (h : QueueLaw s) (through : Nat) (g : Sighting) : QueueLaw (s.addEntry through g) := by
  refine (h.withTable fun e he => ?_).proceed through _
  rcases mem_insertEntry.mp he with rfl | he
  · exact ⟨Nat.zero_le _, Nat.zero_le _⟩
  · exact h.fits e he

theorem admitOrEvict (h : QueueLaw s) (through : Nat) (g : Sighting) : QueueLaw (s.admitOrEvict through g) := by
  unfold State.admitOrEvict
  split
  · exact h.addEntry through g
  · unfold State.evictFor
    split
    · exact (entryFault _ s h).addEntry through g
    · split
      · exact (h.removeEntry entryFault _).addEntry through g
      · exact h.count _

theorem takeSighting (h : QueueLaw s) (through : Nat) : QueueLaw (s.takeSighting through) := by
  unfold State.takeSighting
  split
  · exact h.proceed through _
  · split
    · rename_i g rest hq
      have hlen : (g :: rest).length ≤ intakeMax := hq ▸ h.intake
      have taken : QueueLaw { s with intake := rest, inProcessing := none } :=
        (h.withIntake (q := rest) (by simp at hlen; omega)).frame rfl
      unfold State.sight
      split
      · split
        · exact (taken.modEntry g.mic (by exact fun _ => id)).proceed through _
        · exact (entryFault g.mic _ taken).admitOrEvict through g
      · exact taken.admitOrEvict through g
    · exact h

/-! ## Start, load, JOINING and RESTART -/

theorem reset : QueueLaw State.reset := by
  constructor <;> decide

theorem started (s : State) (cause : StartCause) : QueueLaw (s.started cause) := reset.frame rfl

theorem beginLoad (h : QueueLaw s) (straps : BitVec 4) : QueueLaw (s.beginLoad straps) := by
  unfold State.beginLoad
  split
  · exact h.frame rfl
  · exact h

theorem completeLoad (h : QueueLaw s) (src : Source) (im : Image) : QueueLaw (s.completeLoad src im) := by
  unfold State.completeLoad
  dsimp only
  split
  · exact (h.frame (t := { s.withImage src im with fault := _ }) rfl).enterListenOnly entryFault
  · exact (h.frame (t := { s.withImage src im with station := _, joining := _ }) rfl).stationHandOff

theorem badArea (h : QueueLaw s) (area : Area) : QueueLaw (s.badArea area) := by
  cases area with
  | site => exact h.frame rfl
  | factory => exact h.completeLoad _ _

theorem areaRead (h : QueueLaw s) (answer : Option (List Byte)) : QueueLaw (s.areaRead answer) := by
  unfold State.areaRead
  split
  · split
    · exact h.completeLoad _ _
    · exact h.badArea _
  · exact h
  · exact h

theorem areaTimeout (h : QueueLaw s) : QueueLaw s.areaTimeout := by
  unfold State.areaTimeout
  split
  · split
    · exact h.badArea _
    · exact h
  · exact h
  · exact h

theorem joiningEnds (h : QueueLaw s) : QueueLaw s.joiningEnds := by
  have stopped : QueueLaw { s with joining := .stopped } := h.frame rfl
  unfold State.joiningEnds
  split
  · split
    · exact stopped.enterRunning
    · exact stopped.enterFeedDown true
  · exact h

theorem windowEnds (h : QueueLaw s) : QueueLaw s.windowEnds := by
  unfold State.windowEnds
  split
  · exact h.frame rfl
  · exact h

theorem restarted (h : QueueLaw s) : QueueLaw s.restarted := by
  have cleared : QueueLaw s.cleared :=
    { intake := h.intake, rx := Nat.zero_le _, tx := Nat.zero_le _, cues := Nat.zero_le _, oneCue := .nil,
      claims := by simp [State.cleared], history := by simp [State.cleared], floor := Nat.zero_le _, floorAscending := .nil,
      floorSeats := by simp [State.cleared] }
  have rejoined : QueueLaw s.cleared.rejoin := by
    unfold State.rejoin
    split
    · exact cleared.requestStation false
    · exact cleared.frame rfl
  unfold State.restarted
  exact (rejoined.selectLamp _).evaluateAttn

/-! ## The station's timers -/

theorem zoneRepeatExpiry (h : QueueLaw s) : QueueLaw s.zoneRepeatExpiry := by
  unfold State.zoneRepeatExpiry
  split
  · exact (h.requestStation false).frame rfl
  · exact h

theorem stationRepeatExpiry (h : QueueLaw s) : QueueLaw s.stationRepeatExpiry := by
  unfold State.stationRepeatExpiry
  split
  · exact (h.requestStation false).frame rfl
  · exact h

theorem floorSweep (h : QueueLaw s) : QueueLaw s.floorSweep :=
  h.sweep entryFault fun mic _ hs => (hs.modEntry mic (by exact fun _ => id)).giveInput mic _

theorem floorExpiry (h : QueueLaw s) : QueueLaw s.floorExpiry := by
  unfold State.floorExpiry
  split
  · exact (h.frame (t := { s with floor := .stale, floorTimer := .stopped }) rfl).floorSweep
  · exact h

theorem absenceExpiry (h : QueueLaw s) (n : Nat) : QueueLaw (s.absenceExpiry n) := by
  unfold State.absenceExpiry
  split
  · exact (h.frame (t := { s with roster := s.roster.set n .absent }) rfl).sweep entryFault fun mic _ hs => hs.removeClaim mic n
  · exact h

theorem visit {r : Round} (h : QueueLaw r.state) (mic : Nat) : QueueLaw (r.visit mic).state := by
  unfold Round.visit
  split
  · exact h
  · split
    · exact entryFault mic _ h
    · split
      · exact h
      · split
        · exact h
        · exact h.requestFrame _

theorem makeRound (h : QueueLaw s) : QueueLaw s.makeRound := by
  have visits : ∀ (mics : List Nat) (r : Round), QueueLaw r.state → QueueLaw (mics.foldl Round.visit r).state := by
    intro mics
    induction mics with
    | nil => exact fun _ hr => hr
    | cons mic rest ih => exact fun r hr => ih _ (hr.visit mic)
  have fresh := (h.frame (t := { s with round := s.round + 1 }) rfl).removeWhere (Frame.olderClaim (s.round + 1))
  unfold State.makeRound
  dsimp only
  split
  · exact visits _ _ fresh
  · exact (visits _ _ fresh).requestFrame _

theorem claimRoundExpiry (h : QueueLaw s) : QueueLaw s.claimRoundExpiry := by
  unfold State.claimRoundExpiry
  dsimp only
  split
  · split
    · exact h.makeRound.frame rfl
    · exact h.makeRound
  · exact h

/-! ## The frames taken -/

/-- A dispatch keeps the capacities when the work of every frame does. -/
theorem dispatch (h : QueueLaw s) {act : Nat → RxBody → Option (State → State)}
    (hact : ∀ source body work, act source body = some work → ∀ u, QueueLaw u → QueueLaw (work u)) :
    QueueLaw (s.dispatch act) := by
  unfold State.dispatch
  split
  · rename_i f rest _ hq
    split
    · rename_i work hw
      have hlen : (f :: rest).length ≤ rxMax := hq ▸ h.rx
      have taken : QueueLaw { s with rx := rest, inDispatch := some f } :=
        (h.withRx (q := rest) (by simp at hlen; omega)).frame rfl
      exact (hact _ _ work hw _ taken).frame rfl
    · exact h
  · exact h

theorem takeClaim (h : QueueLaw s) (c : Claim) (mic : Nat) : QueueLaw (s.takeClaim c mic) := by
  unfold State.takeClaim
  split
  · exact h
  · exact h.verified entryFault mic fun _ _ => h.enterClaimFor mic c

theorem takeClaims (h : QueueLaw s) (source : Nat) (pairs : List Pair) : QueueLaw (s.takeClaims source pairs) := by
  unfold State.takeClaims
  induction pairs generalizing s with
  | nil => exact h
  | cons p rest ih => exact ih (h.takeClaim _ p.mic)

theorem ackHandOff (h : QueueLaw s) (mic : Nat) (k : Kind) : QueueLaw (s.ackHandOff mic k) := by
  unfold State.ackHandOff
  split
  · exact h
  · split
    · exact h.removeEntry entryFault mic
    · exact h.selectLamp _

theorem acknowledge (h : QueueLaw s) (mic : Nat) (k : Kind) (l : Level) (e : Entry) : QueueLaw (s.acknowledge mic k l e) := by
  unfold State.acknowledge
  split
  · exact ((h.modRecord mic k _).ackQueued mic k l).ackHandOff mic k
  · exact h.count _

theorem absorbWarn (h : QueueLaw s) (w : Warn) (e : Entry) : QueueLaw (s.absorbWarn w e) := by
  have told := h.modRecord w.mic w.kind (Record.absorb w)
  unfold State.absorbWarn
  dsimp only
  split
  · exact (told.ackQueued ..).ackHandOff ..
  · exact told

theorem warnClaim (h : QueueLaw s) (source : Nat) (w : Warn) : QueueLaw (s.warnClaim source w) := by
  unfold State.warnClaim
  split
  · exact h.enterClaimFor ..
  · exact h

theorem yieldTo (h : QueueLaw s) (source : Nat) (w : Warn) : QueueLaw (s.yieldTo source w) := by
  unfold State.yieldTo
  split
  · exact h
  · split
    · exact (h.loseReporter w.mic).modEntry w.mic (by exact fun _ => id)
    · exact h

theorem cancelTakeover (h : QueueLaw s) (w : Warn) : QueueLaw (s.cancelTakeover w) := by
  unfold State.cancelTakeover
  split
  · exact h
  · split
    · exact h.modEntry w.mic (by exact fun _ => id)
    · exact h

theorem applyWarn (h : QueueLaw s) (source : Nat) (w : Warn) (e : Entry) : QueueLaw (s.applyWarn source w e) :=
  (((h.absorbWarn w e).warnClaim source w).yieldTo source w).cancelTakeover w

theorem takeFloor (h : QueueLaw s) (mics : List Nat) : QueueLaw (s.takeFloor mics) := by
  obtain ⟨hlen, hasc, hseats⟩ := floorSetOf_form mics
  have set : QueueLaw { s with floorSet := floorSetOf mics, floor := .fresh, floorTimer := s.after s.params.floorMs } :=
    ⟨h.intake, h.rx, h.tx, h.cues, h.oneCue, h.claims, h.history, hlen, hasc, hseats⟩
  exact set.floorSweep

theorem answerEntry (h : QueueLaw s) (mic : Nat) : QueueLaw (s.answerEntry mic) := by
  unfold State.answerEntry
  split
  · exact h.requestFrame _
  · split
    · exact h.requestFrame _
    · exact (entryFault mic s h).requestFrame _

theorem claimTaken (h : QueueLaw s) : QueueLaw (s.dispatch claimWork) :=
  h.dispatch fun source body work hw u hu => by
    cases body <;> cases hw
    exact hu.takeClaims source _

theorem ackTaken (h : QueueLaw s) : QueueLaw (s.dispatch ackWork) :=
  h.dispatch fun _ body work hw u hu => by
    cases body <;> cases hw
    exact hu.verified entryFault _ fun e _ => hu.acknowledge _ _ _ e

theorem warnTaken (h : QueueLaw s) : QueueLaw (s.dispatch warnWork) :=
  h.dispatch fun source body work hw u hu => by
    cases body <;> cases hw
    exact hu.verified entryFault _ fun e _ => hu.applyWarn source _ e

theorem floorTaken (h : QueueLaw s) : QueueLaw (s.dispatch floorWork) :=
  h.dispatch fun _ body work hw u hu => by
    cases body <;> cases hw
    exact hu.takeFloor _

theorem entryQuery (h : QueueLaw s) : QueueLaw (s.dispatch entryQueryWork) :=
  h.dispatch fun _ body work hw u hu => by
    unfold entryQueryWork at hw
    split at hw
    · cases hw
      beta_reduce
      split
      · exact hu.answerEntry _
      · exact hu
    · cases hw

theorem statsQuery (h : QueueLaw s) : QueueLaw (s.dispatch statsQueryWork) :=
  h.dispatch fun _ body work hw u hu => by
    unfold statsQueryWork at hw
    split at hw
    · cases hw
      beta_reduce
      split
      · exact hu.requestFrame _
      · exact hu
    · cases hw

theorem restart (h : QueueLaw s) : QueueLaw (s.dispatch restartWork) :=
  h.dispatch fun _ body work hw u hu => by
    cases body <;> cases hw
    exact hu.restarted

theorem peerReportTaken (h : QueueLaw s) : QueueLaw (s.dispatch reportWork) :=
  h.dispatch fun _ body work hw u hu => by
    cases body <;> cases hw
    exact hu

/-! ## The line -/

theorem lineQuiet (h : QueueLaw s) : QueueLaw s.lineQuiet := by
  unfold State.lineQuiet
  split
  · exact h.frame rfl
  · exact h
  · exact h
  · exact h

theorem lineStart (h : QueueLaw s) : QueueLaw s.lineStart := by
  unfold State.lineStart
  split
  · dsimp only
    split <;> exact h.frame rfl
  · exact h
  · exact h
  · exact h

theorem slotEnds (h : QueueLaw s) : QueueLaw s.slotEnds := by
  unfold State.slotEnds
  split
  · split
    · rename_i t rest hq
      split
      · have hlen : (t :: rest).length ≤ txMax := hq ▸ h.tx
        exact (h.withTx (q := rest) (by simp at hlen; omega)).frame rfl
      · exact h.frame rfl
    · exact h.frame rfl
  · exact h
  · exact h
  · exact h

theorem sendDone (h : QueueLaw s) : QueueLaw s.sendDone := by
  unfold State.sendDone
  split
  · exact h.frame rfl
  · exact h

theorem collide (h : QueueLaw s) : QueueLaw s.collide := by
  unfold State.collide
  split
  · have freed := (h.frame (t := { s with access := .busy, inFlight := none }) rfl).count .collisions
    unfold State.handBack
    split
    · exact freed.dropReturning _
    · exact freed.recheck _
  · exact h

theorem duplicateNumber (h : QueueLaw s) : QueueLaw s.duplicateNumber := by
  have entered := (h.frame (t := { s with fault := some .duplicateId }) rfl).enterListenOnly entryFault
  unfold State.duplicateNumber
  split
  · exact h
  · exact h
  · exact entered
  · exact entered
  · exact entered

theorem refreshRoster (h : QueueLaw s) (source : Nat) : QueueLaw (s.refreshRoster source) := h.frame rfl

theorem acceptFrame (h : QueueLaw s) (source : Nat) (body : Option RxBody) : QueueLaw (s.acceptFrame source body) := by
  unfold State.acceptFrame
  split
  · split
    · unfold State.offerRx
      split
      · rename_i hroom
        exact (h.count .rxGood).withRx (by simpa using hroom)
      · exact (h.count _).count _
    · exact h.count _
  · exact h.count _

theorem receive (h : QueueLaw s) (bytes : List Byte) (framing : Bool) : QueueLaw (s.receive bytes framing) := by
  have cleared : QueueLaw { s with lastSender := false, assembler := Assembler.empty } := h.frame rfl
  unfold State.receive
  dsimp only
  split
  · exact cleared.count _
  · split
    · exact cleared.duplicateNumber
    · exact (cleared.refreshRoster _).acceptFrame _ _

theorem frameDone (h : QueueLaw s) (bits : List Bool) (gap : Nat) (headMissed : Bool) :
    QueueLaw (s.frameDone bits gap headMissed) := by
  unfold State.frameDone
  split
  · exact h
  · split
    · exact h.frame rfl
    · exact h.receive _ _

/-! ## Commands and steps -/

/-- Every command keeps the capacities. -/
theorem exec (h : QueueLaw s) {i : Instr} (hx : exec i s = .next t) : QueueLaw t := by
  cases i with
  | start cause => cases hx; exact started s cause
  | loadBegin straps => cases hx; exact h.beginLoad straps
  | areaReadComplete answer => cases hx; exact h.areaRead answer
  | areaReadTimeout => cases hx; exact h.areaTimeout
  | strobeAsserted => cases hx; exact h.frame rfl
  | recordCompletion bits => cases hx; exact h.recordDone bits
  | feedSilenceExpiry => cases hx; exact h.feedSilence
  | sightingTaken through => cases hx; exact h.takeSighting through
  | lossTimerExpiry mic => cases hx; exact h.lossExpiry mic
  | forgetTimerExpiry mic => cases hx; exact h.forgetExpiry mic
  | lostForgetExpiry mic => cases hx; exact h.lostForgetExpiry mic
  | epochTimerExpiry mic => cases hx; exact h.epochExpiry mic
  | staleTimerExpiry mic => cases hx; exact h.staleExpiry mic
  | persistenceTimerExpiry mic kind => cases hx; exact h.persistenceExpiry mic kind
  | repeatTimerExpiry mic kind => cases hx; exact h.repeatExpiry mic kind
  | zoneRepeatTimerExpiry => cases hx; exact h.zoneRepeatExpiry
  | stationRepeatTimerExpiry => cases hx; exact h.stationRepeatExpiry
  | floorTimerExpiry => cases hx; exact h.floorExpiry
  | absenceTimerExpiry station => cases hx; exact h.absenceExpiry station
  | claimExpiry mic station => cases hx; exact h.claimExpires mic station
  | pendingTimerExpiry mic => cases hx; exact h.pendingExpiry mic
  | takeoverTimerExpiry mic => cases hx; exact h.takeoverExpiry mic
  | claimRoundTimerExpiry => cases hx; exact h.claimRoundExpiry
  | cueRefreshExpiry mic => cases hx; exact h.refreshExpiry mic
  | cueTransferStart crdy => cases hx; exact h.startTransfer crdy
  | cueTransferComplete => cases hx; exact h.endTransfer
  | phaseTimerExpiry lamp => cases hx; exact h.phaseExpiry lamp
  | joiningTimerExpiry => cases hx; exact h.joiningEnds
  | integrityWindowExpiry => cases hx; exact h.windowEnds
  | lineIdle => cases hx; exact h.lineQuiet
  | lineActivity => cases hx; exact h.lineStart
  | slotBoundary => cases hx; exact h.slotEnds
  | frameSent => cases hx; exact h.sendDone
  | collision => cases hx; exact h.collide
  | frameCompletion bits gap headMissed => cases hx; exact h.frameDone bits gap headMissed
  | claimTaken => cases hx; exact h.claimTaken
  | warnTaken => cases hx; exact h.warnTaken
  | floorTaken => cases hx; exact h.floorTaken
  | ackTaken => cases hx; exact h.ackTaken
  | entryQuery => cases hx; exact h.entryQuery
  | statsQuery => cases hx; exact h.statsQuery
  | restart => cases hx; exact h.restart
  | peerReportTaken => cases hx; exact h.peerReportTaken

end QueueLaw

/-- Settles O51: by cases on what the step runs, each command keeping the capacities. -/
theorem stepKeepsTheBounds : Obligations.StepKeepsTheBounds := by
  unfold Obligations.StepKeepsTheBounds
  intro s t h hstep
  rcases step_cases hstep with ⟨c, rest, -, hx⟩ | ⟨-, p, -, hx⟩ | ⟨-, -, rfl⟩
  · exact (h.frame (t := { s with pending := rest }) rfl).exec hx
  · exact h.exec hx
  · exact h.frame rfl

end Sys2Proof.Machine
end

section
/-! The feed port (sections 1.1 to 1.6): a record's bits and fields, its validation, the offer of its sighting, the quality and gap
arithmetic, and the feed return. -/

namespace Sys2Proof.Machine

/-! ## Bits and fields of a record (R1, R3, section 12.1) -/

theorem byte_msbFirst : ∀ b : Byte, byte (128 * flag (b.getLsbD 7) + 64 * flag (b.getLsbD 6) + 32 * flag (b.getLsbD 5) +
    16 * flag (b.getLsbD 4) + 8 * flag (b.getLsbD 3) + 4 * flag (b.getLsbD 2) + 2 * flag (b.getLsbD 1) + flag (b.getLsbD 0)) = b := by
  decide

/-- Bytes sent most significant bit first are collected as they were. -/
theorem bytesOfBits_flatMap (l : List Byte) : bytesOfBits (l.flatMap msbFirst) = l := by
  induction l with
  | nil => rfl
  | cons b rest ih =>
    show byte _ :: bytesOfBits (rest.flatMap msbFirst) = b :: rest
    rw [ih, byte_msbFirst]

theorem flag_le_one (b : Bool) : flag b ≤ 1 := by cases b <;> decide

theorem decide_flag (b : Bool) : decide (flag b = 1) = b := by cases b <;> rfl

theorem byte_toNat (n : Nat) : (byte n).toNat = n % 256 := by simp [byte]

theorem byte_getLsbD (n : Nat) {i : Nat} (hi : i < 8) : (byte n).getLsbD i = decide (n / 2 ^ i % 2 = 1) := by
  simp only [byte, BitVec.getLsbD_ofNat, hi, decide_true, Bool.true_and, Nat.testBit_eq_decide_div_mod_eq]

theorem clampRssi_eq (x : Int) : clampRssi x = max (-110) (min (-20) x) := by
  unfold clampRssi
  split
  · omega
  · split <;> omega

/-- Settles O9: the bytes are read back from their bits, and each field from its bytes. -/
theorem sightingFields : Obligations.SightingFields := by
  unfold Obligations.SightingFields
  intro now mic code junk rssi b4 b5 b6 b7 err status valid mute high hmic hcode hjunk
  have he := flag_le_one err
  have hs := flag_le_one status
  have hv := flag_le_one valid
  have hm := flag_le_one mute
  have hh := flag_le_one high
  generalize hn : 128 * (mic % 2) + 64 * flag err + 32 * flag status + 16 * flag valid + 8 * flag mute + junk = n
  have hseat : 2 * (mic / 2 % 256) + n % 256 / 128 = mic := by omega
  have hbat : (128 * flag high + code) % 256 % 128 = code := by omega
  have herr : (byte n).getLsbD 6 = err := by
    rw [byte_getLsbD n (by decide), show n / 2 ^ 6 % 2 = flag err by omega, decide_flag]
  have hstatus : (byte n).getLsbD 5 = status := by
    rw [byte_getLsbD n (by decide), show n / 2 ^ 5 % 2 = flag status by omega, decide_flag]
  have hvalid : (byte n).getLsbD 4 = valid := by
    rw [byte_getLsbD n (by decide), show n / 2 ^ 4 % 2 = flag valid by omega, decide_flag]
  have hmute : (byte n).getLsbD 3 = mute := by
    rw [byte_getLsbD n (by decide), show n / 2 ^ 3 % 2 = flag mute by omega, decide_flag]
  simp only [formSighting, bytesOfBits_flatMap, recordMic, List.getD_cons_zero, List.getD_cons_succ, byte_toNat, hseat, hbat, herr,
    hstatus, hvalid, hmute, clampRssi_eq]

/-! ## Quality and gap (R7 to R14) -/

/-- A step of the filter lands between the old value and the new one, since its division truncates toward zero (R8). -/
theorem truncStep_between (a b : Nat) : (min a b : Int) ≤ truncStep a b 4 ∧ truncStep a b 4 ≤ max a b := by
  unfold truncStep
  rcases le_total a b with h | h
  · rw [Int.tdiv_eq_ediv_of_nonneg (by omega)]
    omega
  · have hneg : ((b : Int) - a).tdiv 4 = -(((a : Int) - b).tdiv 4) := by rw [← Int.neg_tdiv, neg_sub]
    rw [hneg, Int.tdiv_eq_ediv_of_nonneg (by omega)]
    omega

/-- The history keeps the newest 16 flags (R9). -/
theorem pushFlag_eq (history : List Bool) (f : Bool) :
    pushFlag history f = ((history ++ [f]).reverse.take 16).reverse := by
  rw [List.take_reverse, List.reverse_reverse, List.length_append]
  rfl

theorem qsOf_eq (rssi : Int) : (qsOf rssi : Int) = 3 * max 0 (min 80 (rssi + 100)) := by
  unfold qsOf
  dsimp only
  split
  · omega
  · split <;> omega

/-- Settles O13: field by field from the two updates. -/
theorem qualityAndGap : Obligations.QualityAndGap := by
  unfold Obligations.QualityAndGap
  intro e g creating f
  have hqs : (f.qs : Int) = 3 * max 0 (min 80 (g.rssi + 100)) := qsOf_eq g.rssi
  refine ⟨fun _ _ => ⟨hqs, by omega⟩, ?_, ?_, fun _ => pushFlag_eq e.history g.errored, ?_, rfl, rfl, ?_, ?_⟩
  · rintro rfl
    exact ⟨rfl, rfl⟩
  · rintro rfl
    obtain ⟨hlo, hhi⟩ := truncStep_between e.qf f.qs
    have hpos : 0 ≤ truncStep e.qf f.qs 4 := by omega
    have hqf : (f.qf : Int) = truncStep e.qf f.qs 4 := Int.toNat_of_nonneg hpos
    exact ⟨hqf, by omega, by omega⟩
  · have hq : f.q = f.qf - 10 * f.history.countP (· == true) := rfl
    omega
  · rintro rfl hvoid
    have hor : (g.carried || e.gapVoid) = true := by simpa using hvoid
    show (if g.carried || e.gapVoid then e.longestGap else _) = _
    rw [hor]; rfl
  · rintro rfl hcarried hvoid
    show (if g.carried || e.gapVoid then e.longestGap else _) = _
    rw [hcarried, hvoid]; rfl

/-! ## The record's three tests (R2) -/

theorem validate_badLength {r : List Bool} (h : r.length ≠ 64) : validate r = .badLength := by simp [validate, h]

theorem validate_badCheck {r : List Bool} (h : r.length = 64) (hc : ((bytesOfBits r).map BitVec.toNat).sum % 256 ≠ 0) :
    validate r = .badCheck := by simp [validate, h, hc]

theorem validate_badRange {r : List Bool} (h : r.length = 64) (hc : ((bytesOfBits r).map BitVec.toNat).sum % 256 = 0)
    (hm : recordMic (bytesOfBits r) = 0 ∨ 480 < recordMic (bytesOfBits r)) : validate r = .badRange := by
  simp [validate, h, hc, micMax, hm]

theorem validate_accepted {r : List Bool} (h : r.length = 64) (hc : ((bytesOfBits r).map BitVec.toNat).sum % 256 = 0)
    (hlo : 1 ≤ recordMic (bytesOfBits r)) (hhi : recordMic (bytesOfBits r) ≤ 480) : validate r = .accepted := by
  simp [validate, h, hc, micMax, show ¬(recordMic (bytesOfBits r) = 0 ∨ 480 < recordMic (bytesOfBits r)) by omega]

section
variable {s : State} {c bits : List Bool}

/-- A collected record that completes outside STARTING is validated, with FSTB low (R1). -/
theorem State.recordDone_collected (hst : s.station ≠ .starting) (hc : s.strobe = .collecting c) :
    s.recordDone bits = ({ s with strobe := .low } : State).validateRecord (c ++ bits) := by
  simp only [State.recordDone, if_neg hst, hc]

/-- A record that completes in STARTING, or in a strobe period that was not collected, is discarded (R1). -/
theorem State.recordDone_discarded (h : s.station = .starting ∨ s.strobe = .unheard) :
    s.recordDone bits = { s with strobe := .low } := by
  unfold State.recordDone
  dsimp only
  split
  · rfl
  · rename_i hst
    rw [h.resolve_left hst]

/-- An offer that finds room joins the tail (R4). -/
theorem State.offerSighting_room {g : Sighting} (h : s.intake.length < intakeMax) :
    s.offerSighting g = { s with intake := s.intake ++ [g] } := if_pos h

/-- An offer to a full queue is dropped and counted (R4). -/
theorem State.offerSighting_full {g : Sighting} (h : intakeMax ≤ s.intake.length) :
    s.offerSighting g = s.count .intakeOverrun := if_neg (by omega)

/-- An accepted record with the feed LIVE is counted, restarts the feed-silence timer and is offered (R3, R15). -/
theorem State.acceptRecord_live (h : s.feed = .live) :
    s.acceptRecord bits = ({ s.count .feedAccepted with feedTimer := .running (s.now + s.params.feedTimeout) } : State).offerSighting
      (formSighting s.now bits) := by
  simp only [State.acceptRecord, h]
  rfl

/-- An accepted record with the feed SILENT is counted, and the feed return comes before its offer (R16). -/
theorem State.acceptRecord_silent (h : s.feed = .silent) :
    s.acceptRecord bits = (s.count .feedAccepted).feedReturn.offerSighting (formSighting s.now bits) := by
  simp only [State.acceptRecord, h]

end

/-- Settles O8: by the strobe, the outcome of the validation, and the room in the intake queue. -/
theorem recordCompletes : Obligations.RecordCompletes := by
  unfold Obligations.RecordCompletes
  intro s c bits r bytes idle fed accepted
  have hexec : exec (.recordCompletion bits) s = .next (s.recordDone bits) := rfl
  have hstrobe : exec .strobeAsserted s = .next s.strobeOn := rfl
  rw [hexec, hstrobe]
  refine ⟨fun hst => ?_, fun hst => ?_, fun h => ?_, fun hst hc => ?_⟩
  · rw [State.strobeOn, if_neg hst]
  · rw [State.strobeOn, if_pos hst]
  · rw [State.recordDone_discarded h]
  · rw [State.recordDone_collected hst hc, State.validateRecord]
    refine ⟨fun hl => ?_, fun hl hk => ?_, fun hl hk hm => ?_, fun hl hk hlo hhi hlive => ?_⟩
    · rw [validate_badLength hl]; rfl
    · rw [validate_badCheck hl hk]; rfl
    · rw [validate_badRange hl hk hm]; rfl
    · rw [validate_accepted hl hk hlo hhi]
      dsimp only
      rw [State.acceptRecord_live (s := idle) hlive]
      exact ⟨fun hroom => congrArg Host.Outcome.next (State.offerSighting_room hroom),
        fun hfull => congrArg Host.Outcome.next (State.offerSighting_full hfull)⟩

/-! ## The feed return (R16) -/

/-- The gap-void marking of a lawful table marks every entry and changes nothing else (R13). -/
theorem State.sweep_voidGap {s : State} (hT : TableLaw s) (hs : SoundLaw s) (fx : Nat → State → State) :
    s.sweep fx State.voidGap = { s with table := s.table.map fun (e : Entry) => { e with gapVoid := true } } := by
  obtain ⟨hframe, htable⟩ := State.sweep_maps (P := fun u => u = { s with table := u.table }) (fx := fx) (act := State.voidGap)
    (f := fun e => { e with gapVoid := true }) (fun _ => rfl)
    (fun mic u hu => ⟨by rw [hu]; rfl, rfl⟩) hT.nodup hs rfl
  rw [hframe, htable]
  congr 1
  refine List.map_congr_left fun e he => ?_
  rw [← hs e he]

/-- The feed return outside FEED_DOWN (R16 steps 1 to 4). -/
theorem State.feedReturn_eq {s : State} (hT : TableLaw s) (hs : SoundLaw s) (hst : s.station ≠ .feedDown) :
    s.feedReturn = { s with
      feed := .live
      feedTimer := .running (s.now + s.params.feedTimeout)
      table := s.table.map fun (e : Entry) => { e with gapVoid := true }
      intake := s.intake.map Sighting.carry } := by
  have hT' : TableLaw { s with feed := .live, feedTimer := s.after s.params.feedTimeout } :=
    ⟨hT.ascending, hT.atMost96, hT.seats, hT.queuedSeats⟩
  unfold State.feedReturn
  dsimp only
  rw [State.sweep_voidGap hT' hs, if_neg hst]
  rfl

/-- Settles O10: the record is accepted, the feed return marks and carries, and the offer finds room or not. -/
theorem feedReturns : Obligations.FeedReturns := by
  unfold Obligations.FeedReturns
  intro s c bits r live accepted queued hT hs hst hdown hc hsilent hvalid
  have hexec : exec (.recordCompletion bits) s = .next (s.recordDone bits) := rfl
  have hcounted : TableLaw (({ s with strobe := .low } : State).count .feedAccepted) :=
    ⟨hT.ascending, hT.atMost96, hT.seats, hT.queuedSeats⟩
  rw [hexec, State.recordDone_collected hst hc, State.validateRecord, hvalid]
  dsimp only
  rw [State.acceptRecord_silent (s := { s with strobe := .low }) hsilent, State.feedReturn_eq hcounted hs hdown]
  refine ⟨fun hroom => ?_, fun hfull => ?_⟩
  · rw [State.offerSighting_room (by simpa [intakeMax] using hroom)]; rfl
  · rw [State.offerSighting_full (by simpa [intakeMax] using hfull)]; rfl

end Sys2Proof.Machine
end

section
/-! Feed silence (section 1.6, R15): the zone's entry into force at the entry into FEED_DOWN (R102), the pause sweep (R30, R178), and
what the whole entry leaves. -/

namespace Sys2Proof.Machine

/-! ## The zone at the entry into FEED_DOWN (R98, R102) -/

/-- A zone that has come into force has its cause, its repeat timer loaded, and no WARN of LOST queued (R98, R100). -/
theorem State.zoneEnter_spec (cause : ZoneCause) (s : State) : (s.zoneEnter cause).zone = .inForce cause ∧
    (s.zoneEnter cause).zoneRepeat = .running (s.now + s.params.repeatMs) ∧
    ∀ g ∈ (s.zoneEnter cause).tx, g.frame.lostWarn = false := by
  unfold State.zoneEnter
  extract_lets cleared asked
  have told : s.Told asked :=
    ((State.discardWhere_told Frame.lostWarn s).trans (State.zone_told _ _)).trans (State.requestStation_told false _)
  have hcleared : ∀ g ∈ cleared.tx, g.frame.lostWarn = false := fun g hg => by simp_all [cleared]
  refine ⟨by simp [State.zoneHandOff, asked], ?_, fun g hg => ?_⟩
  · obtain ⟨hnow, -, hparams, -⟩ := told.keep
    simp [State.zoneHandOff, State.after, hnow, hparams]
  · rcases State.mem_requestStation (show g ∈ asked.tx by simpa [State.zoneHandOff] using hg) with hg | hg
    · exact hcleared g hg
    · exact Frame.lostWarn_of_isStation hg

/-- A zone whose cause has changed has that cause and its repeat timer loaded (R100, R102). -/
theorem State.zoneCause_spec (cause : ZoneCause) (s : State) : (s.zoneCause cause).zone = .inForce cause ∧
    (s.zoneCause cause).zoneRepeat = .running (s.now + s.params.repeatMs) := by
  unfold State.zoneCause
  extract_lets asked
  have told : s.Told asked := (State.zone_told s _).trans (State.requestStation_told false _)
  refine ⟨by simp [State.zoneHandOff, asked], ?_⟩
  obtain ⟨hnow, -, hparams, -⟩ := told.keep
  simp [State.zoneHandOff, State.after, hnow, hparams]

theorem State.zoneFeed_told (s : State) : s.Told s.zoneFeed := by
  unfold State.zoneFeed
  split
  · exact State.zoneEnter_told ..
  · exact State.zoneCause_told ..

/-- The zone follows the entry into FEED_DOWN: cause FEED, its repeat timer loaded, and the WARN frames of LOST gone where the zone
was not in force (R102). -/
theorem State.zoneFeed_spec (s : State) : s.zoneFeed.zone = .inForce .feed ∧
    s.zoneFeed.zoneRepeat = .running (s.now + s.params.repeatMs) ∧
    (s.zone = .notInForce → ∀ g ∈ s.zoneFeed.tx, g.frame.lostWarn = false) := by
  unfold State.zoneFeed
  split
  · obtain ⟨hz, hr, hq⟩ := State.zoneEnter_spec .feed s
    exact ⟨hz, hr, fun _ => hq⟩
  · obtain ⟨hz, hr⟩ := State.zoneCause_spec .feed s
    exact ⟨hz, hr, fun h => absurd h ‹_›⟩

/-! ## The pause sweep (R30, R178) -/

/-- An entry as the pause sweep leaves it: its presence timers paused, and UNKNOWN given to its records. -/
def Entry.paused (p : Params) (now : Nat) (e : Entry) : Entry :=
  { e with
    loss := e.loss.pause now
    forget := e.forget.pause now
    lostForget := e.lostForget.pause now
    recBattery := e.recBattery.step p now .battery .unknown
    recMute := e.recMute.step p now .mute .unknown
    recSignal := e.recSignal.step p now .signal .unknown }

/-- What the view shows of a paused entry is what it shows of the entry, paused. -/
theorem Entry.paused_untold (p : Params) (now : Nat) (e : Entry) : (e.untold.paused p now).untold = (e.paused p now).untold := by
  simp only [Entry.paused, Entry.untold, Record.step_untold]
  rfl

/-- In FEED_DOWN every owner gives UNKNOWN (R52, R88, R95). -/
theorem State.input_feedDown {s : State} (h : s.station = .feedDown) (k : Kind) (e : Entry) : s.input k e = .unknown := by
  cases k <;> simp [State.input, batteryInput, muteInput, signalInput, h]

theorem State.giveInput_feedDown {s : State} (h : s.station = .feedDown) (mic : Nat) (k : Kind) :
    s.giveInput mic k = s.modRecord mic k (Record.step s.params s.now k .unknown) := by
  unfold State.giveInput
  split
  · exact (State.modEntry_absent ‹_› _).symm
  · rw [State.input_feedDown h]

theorem State.giveInputs_feedDown {s : State} (h : s.station = .feedDown) (mic : Nat) :
    s.giveInputs mic = ((s.modRecord mic .battery (Record.step s.params s.now .battery .unknown)).modRecord mic .mute
      (Record.step s.params s.now .mute .unknown)).modRecord mic .signal (Record.step s.params s.now .signal .unknown) := by
  simp [State.giveInputs, State.giveInput_feedDown, h]

/-- Under cause FEED the lost count is updated and the zone stays (R103). -/
theorem State.updateLost_feed {s : State} (h : s.zone = .inForce .feed) (fx : Nat → State → State) :
    s.updateLost fx = { s with lostCount := lostOf s.table } := by
  simp [State.updateLost, h]

/-- The visit of the pause sweep in FEED_DOWN pauses one entry and updates the lost count. -/
theorem State.pauseEntry_feedDown {s : State} (hst : s.station = .feedDown) (hz : s.zone = .inForce .feed)
    (fx : Nat → State → State) (mic : Nat) :
    s.pauseEntry fx false mic = { s with
      table := (s.modEntry mic (Entry.paused s.params s.now)).table
      lostCount := (s.pauseEntry fx false mic).lostCount } := by
  have hinputs : (s.modEntry mic (Entry.mapPresence (Timer.pause s.now))).giveInputs mic =
      s.modEntry mic (Entry.paused s.params s.now) := by
    rw [State.giveInputs_feedDown (s := s.modEntry mic _) hst]
    simp only [State.modRecord, State.modEntry, State.mapEntry, List.map_map]
    congr 1
    refine List.map_congr_left fun e _ => ?_
    by_cases hm : e.mic = mic
    · simp [hm, Entry.mapPresence, Entry.setRecord, Entry.record, Entry.paused]
    · simp [hm]
  have hvisit : s.pauseEntry fx false mic = (s.modEntry mic (Entry.paused s.params s.now)).updateLost fx := by
    rw [← hinputs, State.pauseEntry, if_pos hst]
    rfl
  rw [hvisit, State.updateLost_feed (s := s.modEntry mic _) hz]
  rfl

/-- The pause sweep of a lawful table in FEED_DOWN pauses every entry, updates the lost count and changes nothing else. -/
theorem State.pauseSweep_feedDown {s : State} (hT : TableLaw s) (hs : SoundLaw s) (hst : s.station = .feedDown)
    (hz : s.zone = .inForce .feed) (fx : Nat → State → State) :
    s.pauseSweep fx false = { s with
      table := s.table.map fun e => { e.paused s.params s.now with checkGood := true }
      lostCount := (s.pauseSweep fx false).lostCount } := by
  obtain ⟨hframe, htable⟩ := State.sweep_maps (P := fun u => u = { s with table := u.table, lostCount := u.lostCount })
    (fx := fx) (act := State.pauseEntry fx false) (f := Entry.paused s.params s.now) (fun _ => rfl)
    (fun mic u hu => by
      have hvisit := State.pauseEntry_feedDown (s := u) (by rw [hu]; exact hst) (by rw [hu]; exact hz) fx mic
      have hparams : u.params = s.params := by rw [hu]
      have hnow : u.now = s.now := by rw [hu]
      rw [hparams, hnow] at hvisit
      exact ⟨by rw [hvisit, hu], by rw [hvisit]⟩) hT.nodup hs rfl
  rw [State.pauseSweep, hframe, htable]

/-! ## The entry into FEED_DOWN (R178) -/

@[simp] theorem State.stationHandOff_tx (s : State) : s.stationHandOff.tx = s.tx := by
  simp [State.stationHandOff, State.selectAllLamps, State.selectWarningLamps]

@[simp] theorem State.stationHandOff_zone (s : State) : s.stationHandOff.zone = s.zone := by
  simp [State.stationHandOff, State.selectAllLamps, State.selectWarningLamps]

@[simp] theorem State.stationHandOff_zoneRepeat (s : State) : s.stationHandOff.zoneRepeat = s.zoneRepeat := by
  simp [State.stationHandOff, State.selectAllLamps, State.selectWarningLamps]

/-- A change of state into FEED_DOWN asserts ATTN (R182). -/
theorem State.stationHandOff_attn {s : State} (h : s.station = .feedDown) : s.stationHandOff.attn = true := by
  simp [State.stationHandOff, State.selectAllLamps, State.selectWarningLamps, State.attnValue, h]

/-- The view of a table whose entries are all paused, from the view before. -/
theorem view_paused {l m : List Entry} (h : l.map Entry.untold = m.map Entry.untold) (p : Params) (now : Nat) :
    l.map (fun e => (e.paused p now).untold) = m.map fun e => (e.paused p now).untold := by
  have hmap : ∀ x : List Entry, (x.map fun e => (e.paused p now).untold) =
      (x.map Entry.untold).map fun e => (e.paused p now).untold := fun x => by
    simp only [List.map_map]
    exact List.map_congr_left fun e _ => (Entry.paused_untold p now e).symm
  rw [hmap l, hmap m, h]

/-- What the entry into FEED_DOWN from RUNNING leaves of a lawful state (R178): the zone's entry under cause FEED is hand-offs
alone, the pause sweep changes the table, and the STATION request and the hand-offs that end the change of state close it. -/
theorem State.enterFeedDown_parts {s : State} (hT : TableLaw s) (hs : SoundLaw s) :
    ∃ zoned paused t : State, s.enterFeedDown false = t ∧
      State.Told { s with station := .feedDown, claimRound := .stopped } zoned ∧ zoned.zone = .inForce .feed ∧
      zoned.zoneRepeat = .running (s.now + s.params.repeatMs) ∧
      (s.zone = .notInForce → ∀ g ∈ zoned.tx, g.frame.lostWarn = false) ∧
      paused = { zoned with
        table := zoned.table.map fun e => { e.paused zoned.params zoned.now with checkGood := true }
        lostCount := paused.lostCount } ∧
      paused.Told t ∧ t = (paused.requestStation false).stationHandOff := by
  let entered : State := { s with station := .feedDown, claimRound := .stopped }
  have hentered : TableLaw entered := ⟨hT.ascending, hT.atMost96, hT.seats, hT.queuedSeats⟩
  have htold : entered.Told entered.zoneFeed := State.zoneFeed_told _
  obtain ⟨hzone, hrepeat, hlost⟩ := State.zoneFeed_spec entered
  obtain ⟨-, hstation, -⟩ := htold.keep
  have hpaused := State.pauseSweep_feedDown (htold.table hentered) (htold.sound hs) hstation hzone State.entryFault
  exact ⟨entered.zoneFeed, _, _, rfl, htold, hzone, hrepeat, hlost, hpaused,
    (State.requestStation_told false _).trans (State.stationHandOff_told _), rfl⟩

/-- Settles O12: field by field from the parts of the entry into FEED_DOWN. -/
theorem feedFallsSilent : Obligations.FeedFallsSilent := by
  unfold Obligations.FeedFallsSilent
  intro s hlive hdue
  have hexec : exec .feedSilenceExpiry s = .next s.feedSilence := rfl
  rw [hexec, State.feedSilence, if_pos ⟨hlive, hdue⟩]
  refine ⟨fun hst => by rw [if_neg hst], fun hst hT hs => ?_⟩
  rw [if_pos hst]
  obtain ⟨zoned, paused, t, ht, hzoned, hzone, hrepeat, hlost, hpaused, hkept, hend⟩ :=
    State.enterFeedDown_parts (s := { s with feed := .silent, feedTimer := .stopped })
      ⟨hT.ascending, hT.atMost96, hT.seats, hT.queuedSeats⟩ hs
  obtain ⟨hnow₁, hst₁, hparams₁, -, hsrc₁, -, -, -, -, -, -, hfault₁, -⟩ := hzoned.keep
  obtain ⟨hfeed₁, hfeedTimer₁, hround₁, himage₁⟩ := hzoned.keep_feed
  obtain ⟨-, hst₂, -⟩ := hkept.keep
  obtain ⟨hfeed₂, hfeedTimer₂, hround₂, -⟩ := hkept.keep_feed
  have hdown : paused.station = .feedDown := by rw [hpaused]; exact hst₁
  have hcause : paused.zone = .inForce .feed := by rw [hpaused]; exact hzone
  have hreport : composeStation paused =
      ⟨.feedDown, .inForce .feed, s.table.length, s.source, s.partialImage, s.fault⟩ := by
    rw [composeStation, hdown, hcause, hpaused, List.length_map, hzoned.occupancy, hsrc₁, himage₁, hfault₁]
  have htx : t.tx = (paused.requestStation false).tx := by rw [hend, State.stationHandOff_tx]
  refine ⟨t, congrArg _ ht, hst₂.trans hdown, hfeed₂.trans (by rw [hpaused]; exact hfeed₁),
    hfeedTimer₂.trans (by rw [hpaused]; exact hfeedTimer₁), by rw [hend]; simpa using hcause,
    hround₂.trans (by rw [hpaused]; exact hround₁), ?_, ?_, ?_, fun hz g hg => ?_, ?_⟩
  · rw [hend]
    exact State.stationHandOff_attn ((State.requestStation_told false paused).keep.2.1.trans hdown)
  · rw [hend, State.stationHandOff_zoneRepeat, State.requestStation_zoneRepeat, hpaused]
    exact hrepeat
  · rw [htx, State.requestStation_filter (by rw [hdown]; rfl), hreport]
  · rcases State.mem_requestStation (htx ▸ hg) with hg | hg
    · exact hlost hz g (by rwa [hpaused] at hg)
    · exact Frame.lostWarn_of_isStation hg
  · rw [hkept.view, State.view, hpaused, hnow₁, hparams₁, List.map_map]
    exact view_paused hzoned.view s.params s.now

end Sys2Proof.Machine
end

section
/-! Commands that keep the table (R17, R23 to R26, R35, R109). Most operations take entries out of it at most, and leave the claims
and the presence of the others: `State.Follows` says that of two states, each operation is shown to do no more in the order of the
model's files, and the laws of the table follow from it. The operations that change presence or claims come after. -/

namespace Sys2Proof.Machine

/-! ## Following -/

/-- Where an entry stands: what the laws of presence and of the claim lists speak of. -/
def Entry.place (e : Entry) : Presence × List Claim := (e.presence, e.claims)

/-- `t` follows `s`: entries may have gone, `key` of each that is left is as it was, no check word has become bad, no station has
become ABSENT, and the queued sightings are of microphones that had one queued. -/
structure State.Follows {α : Type} (key : Entry → α) (s t : State) : Prop where
  mics : t.mics.Sublist s.mics
  entries : ∀ e ∈ t.table, ∃ x ∈ s.table, e.mic = x.mic ∧ key e = key x
  sound : SoundLaw s → SoundLaw t
  queued : ∀ g ∈ t.intake, ∃ h ∈ s.intake, g.mic = h.mic
  roster : ∀ n, s.hasPeer n = true → t.hasPeer n = true

theorem State.hasPeer_of_roster {s t : State} (h : t.roster = s.roster) (n : Nat) : t.hasPeer n = s.hasPeer n := by
  rw [State.hasPeer, State.hasPeer, State.slot, State.slot, h]

namespace State.Follows

variable {α : Type} {key : Entry → α} {s t u : State}

theorem refl (key : Entry → α) (s : State) : s.Follows key s :=
  ⟨.refl _, fun e he => ⟨e, he, rfl, rfl⟩, id, fun g hg => ⟨g, hg, rfl⟩, fun _ => id⟩

theorem trans (h : s.Follows key t) (k : t.Follows key u) : s.Follows key u where
  mics := k.mics.trans h.mics
  entries := fun e he => by
    obtain ⟨x, hx, hm, hk⟩ := k.entries e he
    obtain ⟨y, hy, hm', hk'⟩ := h.entries x hx
    exact ⟨y, hy, hm.trans hm', hk.trans hk'⟩
  sound := k.sound ∘ h.sound
  queued := fun g hg => by
    obtain ⟨x, hx, hm⟩ := k.queued g hg
    obtain ⟨y, hy, hm'⟩ := h.queued x hx
    exact ⟨y, hy, hm.trans hm'⟩
  roster := fun n => k.roster n ∘ h.roster n

theorem claims (h : s.Follows Entry.place t) : s.Follows Entry.claims t :=
  ⟨h.mics, fun e he => by
    obtain ⟨x, hx, hm, hk⟩ := h.entries e he
    exact ⟨x, hx, hm, congrArg Prod.snd hk⟩, h.sound, h.queued, h.roster⟩

theorem tableLaw (h : s.Follows key t) (hT : TableLaw s) : TableLaw t where
  ascending := hT.ascending.sublist h.mics
  atMost96 := by simpa [State.mics] using h.mics.length_le.trans (by simpa [State.mics] using hT.atMost96)
  seats := fun e he => by
    obtain ⟨x, hx, hm, -⟩ := h.entries e he
    exact hm ▸ hT.seats x hx
  queuedSeats := fun g hg => by
    obtain ⟨x, hx, hm⟩ := h.queued g hg
    exact hm ▸ hT.queuedSeats x hx

/-- A state with the same table, sightings and roster. -/
theorem frame (h : s.Follows key t) (hu : (u.table, u.intake, u.roster) = (t.table, t.intake, t.roster)) : s.Follows key u := by
  obtain ⟨ht, hi, hr⟩ : u.table = t.table ∧ u.intake = t.intake ∧ u.roster = t.roster := by simpa using hu
  refine h.trans ⟨by rw [State.mics, ht]; exact .refl _, fun e he => ⟨e, ht ▸ he, rfl, rfl⟩, fun hs e he => hs e (ht ▸ he),
    fun g hg => ⟨g, hi ▸ hg, rfl⟩, fun n hn => (State.hasPeer_of_roster hr n).trans hn⟩

theorem modEntry (h : s.Follows key t) (mic : Nat) {f : Entry → Entry}
    (hf : ∀ e, (f e).mic = e.mic ∧ key { f e with checkGood := true } = key e) : s.Follows key (t.modEntry mic f) := by
  refine h.trans ⟨by rw [State.modEntry_mics _ _ _ fun e => (hf e).1], fun e he => ?_, fun hs => hs.modEntry mic f,
    fun g hg => ⟨g, hg, rfl⟩, fun _ => id⟩
  obtain ⟨x, hx, rfl⟩ := State.mem_modEntry he
  refine ⟨x, hx, ?_⟩
  split
  · exact hf x
  · exact ⟨rfl, rfl⟩

theorem dropEntry (h : s.Follows key t) (mic : Nat) : s.Follows key (t.dropEntry mic) :=
  h.trans ⟨List.filter_sublist.map _, fun e he => ⟨e, List.mem_of_mem_filter he, rfl, rfl⟩, fun hs => hs.dropEntry mic,
    fun g hg => ⟨g, hg, rfl⟩, fun _ => id⟩

theorem sweep (h : s.Follows key t) {fx act : Nat → State → State} (hfx : ∀ mic u, s.Follows key u → s.Follows key (fx mic u))
    (hact : ∀ mic u, s.Follows key u → s.Follows key (act mic u)) : s.Follows key (t.sweep fx act) :=
  State.sweep_keeps (P := s.Follows key) (fun mic u _ _ _ hu => hfx mic u hu) (fun mic u _ _ _ hu => hact mic u hu) h

/-! ## Inputs, roles and cues

From here on the presence and the claims of each entry stay. -/

theorem told (h : s.Follows Entry.place t) (k : t.Told u) : s.Follows Entry.place u := by
  obtain ⟨-, -, -, -, -, -, -, -, hroster, -, hintake, -⟩ := k.keep
  refine h.trans ⟨by rw [k.mics], fun e he => ?_, k.sound, fun g hg => ⟨g, hintake ▸ hg, rfl⟩,
    fun n hn => (State.hasPeer_of_roster hroster n).trans hn⟩
  obtain ⟨x, hx, hxe⟩ := List.mem_map.mp (k.view ▸ List.mem_map_of_mem he : e.untold ∈ t.view)
  have hm : e.untold.mic = x.untold.mic := by rw [hxe]
  have hp : e.untold.place = x.untold.place := by rw [hxe]
  exact ⟨x, hx, hm, hp⟩

theorem modRecord (h : s.Follows Entry.place t) (mic : Nat) (k : Kind) (f : Record → Record) :
    s.Follows Entry.place (t.modRecord mic k f) :=
  h.modEntry mic fun e => by cases k <;> exact ⟨rfl, rfl⟩

theorem giveInput (h : s.Follows Entry.place t) (mic : Nat) (k : Kind) : s.Follows Entry.place (t.giveInput mic k) := by
  unfold State.giveInput
  split
  · exact h
  · exact h.modRecord ..

theorem giveInputs (h : s.Follows Entry.place t) (mic : Nat) : s.Follows Entry.place (t.giveInputs mic) :=
  ((h.giveInput mic _).giveInput mic _).giveInput mic _

theorem selectCue (h : s.Follows Entry.place t) (mic : Nat) : s.Follows Entry.place (t.selectCue mic) := by
  unfold State.selectCue
  split
  · exact h
  · split
    · split
      · exact h
      · exact (h.modEntry mic (by exact fun _ => ⟨rfl, rfl⟩)).told (State.offerCue_told _ _)
    · exact h.modEntry mic (by exact fun _ => ⟨rfl, rfl⟩)

theorem gainReporter (h : s.Follows Entry.place t) (mic : Nat) : s.Follows Entry.place (t.gainReporter mic) :=
  (((h.modEntry mic (by exact fun _ => ⟨rfl, rfl⟩)).told (State.adoptAll_told mic _)).modEntry mic
    (by exact fun _ => ⟨rfl, rfl⟩)).selectCue mic

theorem loseReporter (h : s.Follows Entry.place t) (mic : Nat) : s.Follows Entry.place (t.loseReporter mic) :=
  (((h.modEntry mic (by exact fun _ => ⟨rfl, rfl⟩)).told (State.discardWhere_told _ _)).modEntry mic
    (by exact fun _ => ⟨rfl, rfl⟩)).selectCue mic

theorem makeFollower (h : s.Follows Entry.place t) (mic : Nat) : s.Follows Entry.place (t.makeFollower mic) := by
  unfold State.makeFollower
  split
  · exact h
  · split
    · exact h.loseReporter mic
    · exact h.modEntry mic (by exact fun _ => ⟨rfl, rfl⟩)

theorem decideRole (h : s.Follows Entry.place t) (mic own : Nat) : s.Follows Entry.place (t.decideRole mic own) := by
  unfold State.decideRole
  split
  · exact h
  · split
    · split
      · exact h
      · exact h.gainReporter mic
    · exact h.makeFollower mic

theorem computeRole (h : s.Follows Entry.place t) (mic : Nat) : s.Follows Entry.place (t.computeRole mic) := by
  unfold State.computeRole
  split
  · exact h
  · split
    · exact h.decideRole ..
    · exact h

/-! ## The zone, removal and faults

What a failed verification does is first any `fx` that follows; `integrityFault` is one, by induction on its fuel. -/

section
variable {fx : Nat → State → State} (hfx : ∀ mic u, s.Follows Entry.place u → s.Follows Entry.place (fx mic u))
include hfx

theorem zoneEnd (h : s.Follows Entry.place t) : s.Follows Entry.place (t.zoneEnd fx) := by
  have ended : s.Follows Entry.place { t with zone := .notInForce, zoneRepeat := .stopped } := h.frame rfl
  exact ((ended.told (State.requestStation_told false _)).sweep hfx fun mic u hu => hu.told (State.reannounce_told mic u)).told
    (State.zoneHandOff_told _)

theorem updateLost (h : s.Follows Entry.place t) : s.Follows Entry.place (t.updateLost fx) := by
  have counted : s.Follows Entry.place { t with lostCount := lostOf t.table } := h.frame rfl
  unfold State.updateLost
  dsimp only
  split
  · exact counted.told (State.zoneEnter_told _ _)
  · split
    · exact counted.zoneEnd hfx
    · exact counted

theorem feedCauseEnds (h : s.Follows Entry.place t) : s.Follows Entry.place (t.feedCauseEnds fx) := by
  unfold State.feedCauseEnds
  split
  · split
    · exact h.told (State.zoneCause_told _ t)
    · exact h.zoneEnd hfx
  · exact h

theorem pauseEntry (h : s.Follows Entry.place t) (fromJoining : Bool) (mic : Nat) :
    s.Follows Entry.place (t.pauseEntry fx fromJoining mic) := by
  have paused : s.Follows Entry.place
      (if t.station = .feedDown then t.modEntry mic (Entry.mapPresence (Timer.pause t.now)) else t) := by
    split
    · exact h.modEntry mic fun _ => ⟨rfl, rfl⟩
    · exact h
  have given := (paused.giveInputs mic).updateLost hfx
  unfold State.pauseEntry
  dsimp only
  split
  · exact given.selectCue mic
  · exact given

theorem resumeSweep (h : s.Follows Entry.place t) : s.Follows Entry.place (t.resumeSweep fx) :=
  h.sweep hfx fun mic _ hu => ((hu.modEntry mic (by exact fun _ => ⟨rfl, rfl⟩)).giveInputs mic).updateLost hfx

theorem removeEntry (h : s.Follows Entry.place t) (mic : Nat) : s.Follows Entry.place (t.removeEntry fx mic) :=
  (((h.dropEntry mic).told (State.removeWhere_told _ _)).updateLost hfx).told (State.selectWarningLamps_told _)

theorem enterListenOnly (h : s.Follows Entry.place t) : s.Follows Entry.place (t.enterListenOnly fx) := by
  unfold State.enterListenOnly
  extract_lets quiet emptied stopped resumed
  have hquiet : s.Follows Entry.place quiet :=
    (h.frame (u := { t with station := .listenOnly, joining := .stopped }) rfl).sweep hfx fun mic _ hu =>
      (hu.makeFollower mic).modEntry mic (by exact fun _ => ⟨rfl, rfl⟩)
  have hemptied : s.Follows Entry.place emptied :=
    (hquiet.frame (u := { quiet with claimRound := .stopped }) rfl).told (State.discardWhere_told _ _)
  have hstopped : s.Follows Entry.place stopped := hemptied.frame rfl
  have hresumed : s.Follows Entry.place resumed := by
    unfold resumed
    split
    · exact (hstopped.resumeSweep hfx).feedCauseEnds hfx
    · exact hstopped
  exact (hresumed.told (State.requestStation_told false _)).told (State.stationHandOff_told _)

theorem faultReport (h : s.Follows Entry.place t) (mic : Nat) : s.Follows Entry.place (t.faultReport fx mic) := by
  have reported : s.Follows Entry.place (if t.window.isRunning then
      ({ t with fault := some .doubleFault, window := .stopped }).enterListenOnly fx
    else ({ t with fault := some (.table mic), window := t.after windowMs }).requestStation false) := by
    split
    · exact (h.frame (u := { t with fault := some .doubleFault, window := .stopped }) rfl).enterListenOnly hfx
    · exact (h.frame (u := { t with fault := some (.table mic), window := t.after windowMs }) rfl).told
        (State.requestStation_told false _)
  unfold State.faultReport
  split
  · exact h
  · exact h.told (State.requestStation_told false t)
  · exact reported
  · exact reported
  · exact reported

end

theorem integrityFault (h : s.Follows Entry.place t) (fuel mic : Nat) : s.Follows Entry.place (integrityFault fuel mic t) := by
  induction fuel generalizing mic t with
  | zero => exact h
  | succ fuel ih =>
    have hfx : ∀ mic u, s.Follows Entry.place u → s.Follows Entry.place (Machine.integrityFault fuel mic u) :=
      fun mic u hu => ih hu mic
    exact ((h.removeEntry hfx mic).frame (u := (t.removeEntry (Machine.integrityFault fuel) mic).count .integrityFaults)
      rfl).faultReport hfx mic

theorem entryFault (h : s.Follows Entry.place t) (mic : Nat) : s.Follows Entry.place (t.entryFault mic) := h.integrityFault _ mic

theorem entryFaults (mic : Nat) (u : State) (h : s.Follows Entry.place u) : s.Follows Entry.place (u.entryFault mic) :=
  h.entryFault mic

/-! ## Hand-offs of presence, and the station's states -/

theorem presenceRole (h : s.Follows Entry.place t) (mic : Nat) : s.Follows Entry.place (t.presenceRole mic) := by
  unfold State.presenceRole
  split
  · exact h
  · split
    · exact h
    · exact (h.makeFollower mic).modEntry mic (by exact fun _ => ⟨rfl, rfl⟩)
    · split
      · exact h
      · exact h.modEntry mic (by exact fun _ => ⟨rfl, rfl⟩)

theorem presenceHandOff (h : s.Follows Entry.place t) (mic : Nat) : s.Follows Entry.place (t.presenceHandOff mic) :=
  ((((h.presenceRole mic).giveInputs mic).updateLost entryFaults).selectCue mic).told (State.selectWarningLamps_told _)

theorem runningWork (h : s.Follows Entry.place t) : s.Follows Entry.place t.runningWork := by
  unfold State.runningWork
  extract_lets asked timed
  have hasked : s.Follows Entry.place asked := h.told (State.requestStation_told true t)
  have htimed : s.Follows Entry.place timed := by
    unfold timed
    split
    · exact hasked.frame rfl
    · exact hasked
  refine htimed.sweep entryFaults fun mic u hu => ?_
  unfold State.adoptionEntry
  split
  · exact hu
  · split
    · exact (hu.told (State.adoptAll_told mic u)).selectCue mic
    · exact hu

theorem enterRunning (h : s.Follows Entry.place t) : s.Follows Entry.place t.enterRunning :=
  ((h.frame (u := { t with station := .running }) rfl).runningWork).told (State.stationHandOff_told _)

theorem enterFeedDown (h : s.Follows Entry.place t) (fromJoining : Bool) : s.Follows Entry.place (t.enterFeedDown fromJoining) := by
  have entered : s.Follows Entry.place { t with station := .feedDown, claimRound := .stopped } := h.frame rfl
  exact (((entered.told (State.zoneFeed_told _)).sweep entryFaults fun mic _ hu =>
    hu.pauseEntry entryFaults fromJoining mic).told (State.requestStation_told fromJoining _)).told (State.stationHandOff_told _)

theorem leaveFeedDown (h : s.Follows Entry.place t) : s.Follows Entry.place t.leaveFeedDown :=
  ((((h.frame (u := { t with station := .running }) rfl).resumeSweep entryFaults).feedCauseEnds
    entryFaults).runningWork).told (State.stationHandOff_told _)

/-! ## Expiries of an entry's timers -/

theorem expiry (h : s.Follows Entry.place t) (mic : Nat) (timer : Entry → Timer) {act : Entry → State → State}
    (hact : ∀ e, s.Follows Entry.place (act e t)) : s.Follows Entry.place (t.expiry mic timer act) := by
  rcases State.expiry_cases mic timer act t with hx | ⟨-, -, -, -, hx⟩ | ⟨e, -, -, -, hx⟩ <;> rw [hx]
  · exact h
  · exact h.entryFault mic
  · exact hact e

theorem forgetExpiry (h : s.Follows Entry.place t) (mic : Nat) : s.Follows Entry.place (t.forgetExpiry mic) :=
  h.expiry mic _ fun e => by
    split
    · exact h.removeEntry entryFaults mic
    · exact h.modEntry mic (by exact fun _ => ⟨rfl, rfl⟩)

theorem lostForgetExpiry (h : s.Follows Entry.place t) (mic : Nat) : s.Follows Entry.place (t.lostForgetExpiry mic) :=
  h.expiry mic _ fun e => by
    split
    · exact h.removeEntry entryFaults mic
    · exact h.modEntry mic (by exact fun _ => ⟨rfl, rfl⟩)

theorem epochExpiry (h : s.Follows Entry.place t) (mic : Nat) : s.Follows Entry.place (t.epochExpiry mic) :=
  h.expiry mic _ fun e => by
    split
    · exact h.modEntry mic (by exact fun _ => ⟨rfl, rfl⟩)
    · exact (h.modEntry mic (by exact fun _ => ⟨rfl, rfl⟩)).giveInput mic _

theorem staleExpiry (h : s.Follows Entry.place t) (mic : Nat) : s.Follows Entry.place (t.staleExpiry mic) :=
  h.expiry mic _ fun e => (h.modEntry mic (by exact fun _ => ⟨rfl, rfl⟩)).giveInput mic _

theorem levelHandOff (h : s.Follows Entry.place t) (mic : Nat) (k : Kind) : s.Follows Entry.place (t.levelHandOff mic k) := by
  rcases State.levelHandOff_cases mic k t with ⟨-, hx⟩ | ⟨e, -, ⟨-, -, hx⟩ | ⟨-, hx⟩⟩ <;> rw [hx]
  · exact h
  · exact h.removeEntry entryFaults mic
  · refine State.Follows.told (State.Follows.selectCue ?_ mic) (State.selectLamp_told _ _)
    split
    · exact h.updateLost entryFaults
    · exact h

theorem persistenceExpiry (h : s.Follows Entry.place t) (mic : Nat) (k : Kind) : s.Follows Entry.place (t.persistenceExpiry mic k) :=
  h.expiry mic _ fun e => by
    have announced : ∀ f reason, s.Follows Entry.place (((t.modRecord mic k f).announce mic k reason).levelHandOff mic k) :=
      fun f reason => ((h.modRecord mic k f).told (State.announce_told mic k reason _)).levelHandOff mic k
    unfold State.persistenceEnds
    split
    · exact announced ..
    · exact announced ..
    · exact announced ..
    · exact h
    · exact h

theorem repeatExpiry (h : s.Follows Entry.place t) (mic : Nat) (k : Kind) : s.Follows Entry.place (t.repeatExpiry mic k) :=
  h.expiry mic _ fun _ => (h.told (State.requestWarn_told mic k _ t)).modRecord ..

theorem pendingExpiry (h : s.Follows Entry.place t) (mic : Nat) : s.Follows Entry.place (t.pendingExpiry mic) :=
  h.expiry mic _ fun e => by
    have stopped : s.Follows Entry.place (t.modEntry mic fun e => { e with pendingTimer := .stopped }) :=
      h.modEntry mic fun _ => ⟨rfl, rfl⟩
    dsimp only
    split
    · exact stopped.decideRole ..
    · exact stopped

theorem takeoverExpiry (h : s.Follows Entry.place t) (mic : Nat) : s.Follows Entry.place (t.takeoverExpiry mic) :=
  h.expiry mic _ fun e => by
    have stopped : s.Follows Entry.place (t.modEntry mic fun e => { e with takeover := .stopped }) :=
      h.modEntry mic fun _ => ⟨rfl, rfl⟩
    dsimp only
    split
    · exact stopped
    · exact stopped.gainReporter mic

theorem refreshExpiry (h : s.Follows Entry.place t) (mic : Nat) : s.Follows Entry.place (t.refreshExpiry mic) :=
  h.expiry mic _ fun e => (h.told (State.offerCue_told _ t)).modEntry mic (by exact fun _ => ⟨rfl, rfl⟩)

/-! ## The feed -/

theorem feedReturn (h : s.Follows Entry.place t) : s.Follows Entry.place t.feedReturn := by
  unfold State.feedReturn
  extract_lets live marked queued
  have hmarked : s.Follows Entry.place marked :=
    (h.frame (u := live) rfl).sweep entryFaults fun mic _ hu => hu.modEntry mic (by exact fun _ => ⟨rfl, rfl⟩)
  have hqueued : s.Follows Entry.place queued := { hmarked with
    queued := fun g hg => by
      obtain ⟨x, hx, rfl⟩ := List.mem_map.mp hg
      exact hmarked.queued x hx }
  split
  · exact hqueued.leaveFeedDown
  · exact hqueued

theorem feedSilence (h : s.Follows Entry.place t) : s.Follows Entry.place t.feedSilence := by
  unfold State.feedSilence
  split
  · dsimp only
    split
    · exact (h.frame (u := { t with feed := .silent, feedTimer := .stopped }) rfl).enterFeedDown false
    · exact h.frame rfl
  · exact h

theorem processStep (h : s.Follows Entry.place t) (creating : Bool) (g : Sighting) (n : Nat) :
    s.Follows Entry.place (t.processStep creating g n) := by
  have keep : ∀ {f : Entry → Entry}, (∀ e, (f e).mic = e.mic ∧ (f e).place = e.place) →
      s.Follows Entry.place (t.modEntry g.mic f) := fun hf => h.modEntry g.mic hf
  unfold State.processStep
  split
  · exact keep fun _ => ⟨rfl, rfl⟩
  · exact keep fun e => by unfold Entry.sample; split <;> exact ⟨rfl, rfl⟩
  · exact keep fun e => by unfold Entry.muteStep; split <;> exact ⟨rfl, rfl⟩
  · exact ((keep (f := Entry.bandStep t.params) fun _ => ⟨rfl, rfl⟩).giveInputs g.mic).updateLost entryFaults
  · exact h.computeRole g.mic
  · exact h.selectCue g.mic
  · exact h.told (State.selectWarningLamps_told t)
  · exact h

theorem workThrough (h : s.Follows Entry.place t) (p : Processing) (first count : Nat) :
    s.Follows Entry.place (t.workThrough p first count) := by
  induction count generalizing first t with
  | zero => exact h
  | succ n ih =>
    refine ih ?_ _
    unfold State.workOn
    split
    · exact h
    · exact h.processStep ..

theorem proceed (h : s.Follows Entry.place t) (through : Nat) (p : Processing) : s.Follows Entry.place (t.proceed through p) :=
  (h.workThrough p _ _).frame rfl

/-! ## The station -/

theorem completeLoad (h : s.Follows Entry.place t) (src : Source) (im : Image) : s.Follows Entry.place (t.completeLoad src im) := by
  have loaded : s.Follows Entry.place (t.withImage src im) := h.frame rfl
  unfold State.completeLoad
  extract_lets fixed
  split
  · exact (loaded.frame (u := { fixed with fault := some .badId }) rfl).enterListenOnly entryFaults
  · exact (loaded.frame (u := { fixed with station := .joining, joining := fixed.after im.params.joiningMs }) rfl).told
      (State.stationHandOff_told _)

theorem badArea (h : s.Follows Entry.place t) (area : Area) : s.Follows Entry.place (t.badArea area) := by
  cases area with
  | site => exact h.frame rfl
  | factory => exact h.completeLoad ..

theorem areaRead (h : s.Follows Entry.place t) (answer : Option (List Byte)) : s.Follows Entry.place (t.areaRead answer) := by
  unfold State.areaRead
  split
  · split
    · exact h.completeLoad ..
    · exact h.badArea _
  · exact h
  · exact h

theorem areaTimeout (h : s.Follows Entry.place t) : s.Follows Entry.place t.areaTimeout := by
  unfold State.areaTimeout
  split
  · split
    · exact h.badArea _
    · exact h
  · exact h
  · exact h

theorem beginLoad (h : s.Follows Entry.place t) (straps : BitVec 4) : s.Follows Entry.place (t.beginLoad straps) := by
  unfold State.beginLoad
  split
  · exact h.frame rfl
  · exact h

theorem joiningEnds (h : s.Follows Entry.place t) : s.Follows Entry.place t.joiningEnds := by
  unfold State.joiningEnds
  split
  · split
    · exact (h.frame (u := { t with joining := .stopped }) rfl).enterRunning
    · exact (h.frame (u := { t with joining := .stopped }) rfl).enterFeedDown true
  · exact h

theorem windowEnds (h : s.Follows Entry.place t) : s.Follows Entry.place t.windowEnds := by
  unfold State.windowEnds
  split
  · exact h.frame rfl
  · exact h

/-- A sitting restart empties the table (R187). -/
theorem restarted (h : s.Follows Entry.place t) : s.Follows Entry.place t.restarted := by
  have cleared : s.Follows Entry.place t.cleared := { h with
    mics := List.nil_sublist _
    entries := by simp [State.cleared]
    sound := fun _ => by simp [State.cleared, SoundLaw] }
  have rejoined : s.Follows Entry.place t.cleared.rejoin := by
    unfold State.rejoin
    split
    · exact cleared.told (State.requestStation_told false _)
    · exact cleared.frame rfl
  exact (rejoined.told (State.selectLamp_told _ _)).told (State.evaluateAttn_told _)

theorem zoneRepeatExpiry (h : s.Follows Entry.place t) : s.Follows Entry.place t.zoneRepeatExpiry := by
  unfold State.zoneRepeatExpiry
  split
  · exact (h.told (State.requestStation_told false t)).frame rfl
  · exact h

theorem stationRepeatExpiry (h : s.Follows Entry.place t) : s.Follows Entry.place t.stationRepeatExpiry := by
  unfold State.stationRepeatExpiry
  split
  · exact (h.told (State.requestStation_told false t)).frame rfl
  · exact h

theorem floorSweep (h : s.Follows Entry.place t) : s.Follows Entry.place t.floorSweep :=
  h.sweep entryFaults fun mic _ hu => (hu.modEntry mic (by exact fun _ => ⟨rfl, rfl⟩)).giveInput mic _

theorem floorExpiry (h : s.Follows Entry.place t) : s.Follows Entry.place t.floorExpiry := by
  unfold State.floorExpiry
  split
  · exact (h.frame (u := { t with floor := .stale, floorTimer := .stopped }) rfl).floorSweep
  · exact h

theorem visit {r : Round} (h : s.Follows Entry.place r.state) (mic : Nat) : s.Follows Entry.place (r.visit mic).state := by
  unfold Round.visit
  split
  · exact h
  · split
    · exact h.entryFault mic
    · split
      · exact h
      · split
        · exact h
        · exact h.told (State.requestFrame_told _ _)

theorem makeRound (h : s.Follows Entry.place t) : s.Follows Entry.place t.makeRound := by
  have visits : ∀ (mics : List Nat) (r : Round), s.Follows Entry.place r.state →
      s.Follows Entry.place (mics.foldl Round.visit r).state := by
    intro mics
    induction mics with
    | nil => exact fun _ hr => hr
    | cons mic rest ih => exact fun r hr => ih _ (hr.visit mic)
  unfold State.makeRound
  extract_lets fresh visited
  have hvisited : s.Follows Entry.place visited.state := visits _ ⟨fresh, []⟩ (h.frame rfl)
  split
  · exact hvisited
  · exact hvisited.told (State.requestFrame_told _ _)

theorem claimRoundExpiry (h : s.Follows Entry.place t) : s.Follows Entry.place t.claimRoundExpiry := by
  unfold State.claimRoundExpiry
  split
  · dsimp only
    split
    · exact h.makeRound.frame rfl
    · exact h.makeRound
  · exact h

/-! ## Frames -/

theorem ackHandOff (h : s.Follows Entry.place t) (mic : Nat) (k : Kind) : s.Follows Entry.place (t.ackHandOff mic k) := by
  unfold State.ackHandOff
  split
  · exact h
  · split
    · exact h.removeEntry entryFaults mic
    · exact h.told (State.selectLamp_told _ t)

theorem acknowledge (h : s.Follows Entry.place t) (mic : Nat) (k : Kind) (l : Level) (e : Entry) :
    s.Follows Entry.place (t.acknowledge mic k l e) := by
  unfold State.acknowledge
  split
  · exact ((h.modRecord mic k _).told (State.ackQueued_told mic k l _)).ackHandOff mic k
  · exact h.frame rfl

theorem absorbWarn (h : s.Follows Entry.place t) (w : Warn) (e : Entry) : s.Follows Entry.place (t.absorbWarn w e) := by
  have told := h.modRecord w.mic w.kind (Record.absorb w)
  unfold State.absorbWarn
  dsimp only
  split
  · exact (told.told (State.ackQueued_told _ _ w.level _)).ackHandOff ..
  · exact told

theorem yieldTo (h : s.Follows Entry.place t) (source : Nat) (w : Warn) : s.Follows Entry.place (t.yieldTo source w) := by
  unfold State.yieldTo
  split
  · exact h
  · split
    · exact (h.loseReporter w.mic).modEntry w.mic (by exact fun _ => ⟨rfl, rfl⟩)
    · exact h

theorem cancelTakeover (h : s.Follows Entry.place t) (w : Warn) : s.Follows Entry.place (t.cancelTakeover w) := by
  unfold State.cancelTakeover
  split
  · exact h
  · split
    · exact h.modEntry w.mic (by exact fun _ => ⟨rfl, rfl⟩)
    · exact h

theorem answerEntry (h : s.Follows Entry.place t) (mic : Nat) : s.Follows Entry.place (t.answerEntry mic) := by
  unfold State.answerEntry
  split
  · exact h.told (State.requestFrame_told _ t)
  · split
    · exact h.told (State.requestFrame_told _ t)
    · exact (h.entryFault mic).told (State.requestFrame_told _ _)

theorem lineQuiet (h : s.Follows Entry.place t) : s.Follows Entry.place t.lineQuiet := by
  unfold State.lineQuiet
  split
  · exact h.frame rfl
  all_goals exact h

theorem lineStart (h : s.Follows Entry.place t) : s.Follows Entry.place t.lineStart := by
  unfold State.lineStart
  split
  · dsimp only
    split <;> exact h.frame rfl
  all_goals exact h

theorem slotEnds (h : s.Follows Entry.place t) : s.Follows Entry.place t.slotEnds := by
  unfold State.slotEnds
  split
  · split
    · split <;> exact h.frame rfl
    · exact h.frame rfl
  all_goals exact h

theorem sendDone (h : s.Follows Entry.place t) : s.Follows Entry.place t.sendDone := by
  unfold State.sendDone
  split
  · exact h.frame rfl
  · exact h

theorem dropReturning (h : s.Follows Entry.place t) (f : Frame) : s.Follows Entry.place (t.dropReturning f) :=
  (h.told (State.count_framesDropped_told t)).told (State.discardFrame_told f _)

theorem recheck (h : s.Follows Entry.place t) (f : TxFrame) : s.Follows Entry.place (t.recheck f) := by
  rcases State.recheck_cases f t with hx | ⟨-, hx⟩ | ⟨-, -, -, hx⟩ | ⟨-, -, v, rest, -, hx⟩ <;> rw [hx]
  · exact h.dropReturning _
  · exact h
  · exact h.frame rfl
  · exact (h.frame (u := State.count .framesDropped (State.placeHead f { t with tx := rest })) rfl).told
      (State.discardFrame_told _ _)

theorem collide (h : s.Follows Entry.place t) : s.Follows Entry.place t.collide := by
  unfold State.collide
  split
  · have collided : s.Follows Entry.place (({ t with access := .busy, inFlight := none }).count .collisions) := h.frame rfl
    unfold State.handBack
    split
    · exact collided.dropReturning _
    · exact collided.recheck _
  · exact h

theorem duplicateNumber (h : s.Follows Entry.place t) : s.Follows Entry.place t.duplicateNumber := by
  have entered : s.Follows Entry.place (({ t with fault := some .duplicateId }).enterListenOnly State.entryFault) :=
    (h.frame (u := { t with fault := some .duplicateId }) rfl).enterListenOnly entryFaults
  unfold State.duplicateNumber
  split
  · exact h
  · exact h
  · exact entered
  · exact entered
  · exact entered

/-- A frame makes its source PRESENT and no station ABSENT (R106). -/
theorem refreshRoster (h : s.Follows Entry.place t) (source : Nat) : s.Follows Entry.place (t.refreshRoster source) := by
  refine { h with roster := fun n hn => ?_ }
  have hp := h.roster n hn
  simp only [State.hasPeer, State.slot, State.refreshRoster, List.getD_eq_getElem?_getD, List.getElem?_set, decide_eq_true_eq]
    at hp ⊢
  split
  · split
    · simp
    · rename_i heq hlen
      subst heq
      simp [List.getElem?_eq_none (Nat.not_lt.mp hlen)] at hp
  · exact hp

theorem acceptFrame (h : s.Follows Entry.place t) (source : Nat) (body : Option RxBody) :
    s.Follows Entry.place (t.acceptFrame source body) := by
  unfold State.acceptFrame
  split
  · split
    · unfold State.offerRx
      split <;> exact h.frame rfl
    · exact h.frame rfl
  · exact h.frame rfl

theorem frameDone (h : s.Follows Entry.place t) (bits : List Bool) (gap : Nat) (headMissed : Bool) :
    s.Follows Entry.place (t.frameDone bits gap headMissed) := by
  unfold State.frameDone
  split
  · exact h
  · split
    · exact h.frame rfl
    · dsimp only
      unfold State.receive
      extract_lets cleared
      have hcleared : s.Follows Entry.place cleared := h.frame rfl
      split
      · exact hcleared.frame rfl
      · split
        · exact hcleared.duplicateNumber
        · exact (hcleared.refreshRoster _).acceptFrame ..

end State.Follows

end Sys2Proof.Machine
end

section
/-! The commands that change presence and claims, take entries in or make stations ABSENT, and what every step keeps of the table (R17,
R23 to R26, R35, R109). -/

namespace Sys2Proof.Machine

/-! ## The laws through a state that follows -/

/-- The presence of an entry agrees with its claim list (R23 to R26). -/
def Entry.Placed (e : Entry) : Prop := (e.presence = .covered → e.claims ≠ []) ∧ (e.presence = .silent → e.claims = [])

theorem presenceLaw_iff {s : State} : PresenceLaw s ↔ ∀ e ∈ s.table, e.Placed :=
  ⟨fun h e he => ⟨h.covered e he, h.silent e he⟩, fun h => ⟨fun e he => (h e he).1, fun e he => (h e he).2⟩⟩

namespace State.Follows

variable {α : Type} {key : Entry → α} {s t : State}

/-- Whatever else is kept of each entry, its mic ID is. -/
theorem mic (h : s.Follows key t) : s.Follows Entry.mic t :=
  ⟨h.mics, fun e he => by
    obtain ⟨x, hx, hm, -⟩ := h.entries e he
    exact ⟨x, hx, hm, hm⟩, h.sound, h.queued, h.roster⟩

theorem presenceLaw (h : s.Follows Entry.place t) (hp : PresenceLaw s) : PresenceLaw t := by
  refine presenceLaw_iff.mpr fun e he => ?_
  obtain ⟨x, hx, -, hk⟩ := h.entries e he
  obtain ⟨hpresence, hclaims⟩ : e.presence = x.presence ∧ e.claims = x.claims := by simpa [Entry.place] using hk
  have := presenceLaw_iff.mp hp x hx
  rwa [Entry.Placed, ← hpresence, ← hclaims] at this

theorem rosterLaw (h : s.Follows Entry.claims t) (hr : RosterLaw s) : RosterLaw t := fun e he c hc => by
  obtain ⟨x, hx, -, hk⟩ := h.entries e he
  exact h.roster _ (hr x hx c (hk ▸ hc))

/-- An entry that is not there does not come back. -/
theorem gone (h : s.Follows key t) {mic : Nat} (hn : s.entry? mic = none) : t.entry? mic = none :=
  State.entry?_none.mpr fun e he hm => by
    obtain ⟨x, hx, hxm, -⟩ := h.entries e he
    exact State.entry?_none.mp hn x hx (hxm.symm.trans hm)

end State.Follows

/-- An integrity fault takes its entry out (R36). -/
theorem State.entryFault_gone {s : State} {mic : Nat} {e : Entry} (he : s.entry? mic = some e) :
    (s.entryFault mic).entry? mic = none := by
  obtain ⟨n, hn⟩ : ∃ n, s.table.length = n + 1 :=
    Nat.exists_eq_succ_of_ne_zero (List.length_pos_of_mem (State.entry?_some he).1).ne'
  have hfx : ∀ m u, (s.dropEntry mic).Follows Entry.place u → (s.dropEntry mic).Follows Entry.place (integrityFault n m u) :=
    fun m u hu => hu.integrityFault n m
  have removed : (s.dropEntry mic).Follows Entry.place (s.removeEntry (integrityFault n) mic) :=
    (((State.Follows.refl _ _).told (State.removeWhere_told _ _)).updateLost hfx).told (State.selectWarningLamps_told _)
  have faulted := (removed.frame (u := (s.removeEntry (integrityFault n) mic).count .integrityFaults) rfl).faultReport hfx mic
  unfold State.entryFault
  rw [hn]
  exact faulted.gone (by simp)

/-- The laws of the table kept from `s` to `t`. -/
structure State.Keeps (s t : State) : Prop where
  table : TableLaw s → TableLaw t
  sound : SoundLaw s → SoundLaw t
  presence : TableLaw s → PresenceLaw s → PresenceLaw t
  roster : TableLaw s → RosterLaw s → RosterLaw t

theorem State.Follows.keeps {s t : State} (h : s.Follows Entry.place t) : s.Keeps t :=
  ⟨h.tableLaw, h.sound, fun _ => h.presenceLaw, fun _ => h.claims.rosterLaw⟩

namespace State.Keeps

variable {s t u : State}

theorem refl (s : State) : s.Keeps s := ⟨id, id, fun _ => id, fun _ => id⟩

theorem trans (h : s.Keeps t) (k : t.Keeps u) : s.Keeps u :=
  ⟨k.table ∘ h.table, k.sound ∘ h.sound, fun hT hp => k.presence (h.table hT) (h.presence hT hp),
    fun hT hr => k.roster (h.table hT) (h.roster hT hr)⟩

/-- A state with the same table, sightings and roster. -/
theorem frame (h : s.Keeps t) (hu : (u.table, u.intake, u.roster) = (t.table, t.intake, t.roster)) : s.Keeps u :=
  h.trans ((State.Follows.refl _ t).frame hu).keeps

theorem verified (h : s.Keeps t) (mic : Nat) {act : Entry → State → State}
    (hact : ∀ e, t.entry? mic = some e → s.Keeps (act e t)) : s.Keeps (t.verified State.entryFault mic act) := by
  rcases State.verified_cases State.entryFault mic act t with hv | ⟨-, -, -, hv⟩ | ⟨e, he, -, hv⟩ <;> rw [hv]
  · exact h
  · exact h.trans ((State.Follows.refl _ t).entryFault mic).keeps
  · exact hact e he

theorem expiry (h : s.Keeps t) (mic : Nat) (timer : Entry → Timer) {act : Entry → State → State}
    (hact : ∀ e, t.entry? mic = some e → s.Keeps (act e t)) : s.Keeps (t.expiry mic timer act) := by
  rcases State.expiry_cases mic timer act t with hx | ⟨-, -, -, -, hx⟩ | ⟨e, he, -, -, hx⟩ <;> rw [hx]
  · exact h
  · exact h.trans ((State.Follows.refl _ t).entryFault mic).keeps
  · exact hact e he

end State.Keeps

/-! ## Presence changes (R24 to R26) -/

section
variable {s : State} {mic : Nat}

/-- An entry that becomes COVERED is moved, and then handed on or removed. -/
theorem State.becomeCovered_follows (mic : Nat) (s : State) : (s.modEntry mic fun e => { e with
    presence := .covered, loss := .stopped, lostForget := .stopped }).Follows Entry.place (s.becomeCovered mic) := by
  unfold State.becomeCovered
  dsimp only
  split
  · rw [State.modEntry_absent ‹_›]
    exact .refl _ s
  · split
    · exact (State.Follows.refl _ _).removeEntry State.Follows.entryFaults mic
    · exact (State.Follows.refl _ _).presenceHandOff mic

/-- An entry that becomes SILENT is moved and handed on. -/
theorem State.becomeSilent_follows (mic : Nat) (s : State) : (s.modEntry mic fun e => { e with
    presence := .silent, loss := .stopped, lostForget := s.presenceTimer s.params.lostForgetMs }).Follows Entry.place
      (s.becomeSilent mic) :=
  (State.Follows.refl _ _).presenceHandOff mic

theorem State.becomeCovered_claims (mic : Nat) (s : State) : s.Follows Entry.claims (s.becomeCovered mic) :=
  ((State.Follows.refl _ s).modEntry mic (by exact fun _ => ⟨rfl, rfl⟩)).trans (State.becomeCovered_follows mic s).claims

theorem State.becomeSilent_claims (mic : Nat) (s : State) : s.Follows Entry.claims (s.becomeSilent mic) :=
  ((State.Follows.refl _ s).modEntry mic (by exact fun _ => ⟨rfl, rfl⟩)).trans (State.becomeSilent_follows mic s).claims

/-- Every entry is placed after a change of one that places it. -/
theorem presenceLaw_modEntry (hT : TableLaw s) {f : Entry → Entry} (hother : ∀ e ∈ s.table, e.mic ≠ mic → e.Placed)
    (hf : ∀ e, s.entry? mic = some e → (f e).Placed) : PresenceLaw (s.modEntry mic f) := by
  refine presenceLaw_iff.mpr fun e he => ?_
  obtain ⟨x, hx, rfl⟩ := State.mem_modEntry he
  split
  · exact hf x (‹x.mic = mic› ▸ hT.entry? hx)
  · exact hother x hx ‹_›

theorem State.becomeCovered_presence (hT : TableLaw s) (hother : ∀ e ∈ s.table, e.mic ≠ mic → e.Placed) {e : Entry}
    (he : s.entry? mic = some e) (hc : e.claims ≠ []) : PresenceLaw (s.becomeCovered mic) := by
  refine (State.becomeCovered_follows mic s).presenceLaw (presenceLaw_modEntry hT hother fun x hx => ?_)
  obtain rfl : e = x := by simpa [he] using hx
  exact ⟨fun _ => hc, by simp⟩

theorem State.becomeSilent_presence (hT : TableLaw s) (hother : ∀ e ∈ s.table, e.mic ≠ mic → e.Placed) {e : Entry}
    (he : s.entry? mic = some e) (hc : e.claims = []) : PresenceLaw (s.becomeSilent mic) := by
  refine (State.becomeSilent_follows mic s).presenceLaw (presenceLaw_modEntry hT hother fun x hx => ?_)
  obtain rfl : e = x := by simpa [he] using hx
  exact ⟨by simp, fun _ => hc⟩

theorem State.lossExpiry_keeps (mic : Nat) (s : State) : s.Keeps (s.lossExpiry mic) := by
  refine (State.Keeps.refl s).expiry mic _ fun e he => ?_
  have other : PresenceLaw s → ∀ x ∈ s.table, x.mic ≠ mic → x.Placed := fun hp x hx _ => presenceLaw_iff.mp hp x hx
  split
  · have h := State.becomeSilent_claims mic s
    exact ⟨h.tableLaw, h.sound, fun hT hp => State.becomeSilent_presence hT (other hp) he ‹_›, fun _ => h.rosterLaw⟩
  · have h := State.becomeCovered_claims mic s
    exact ⟨h.tableLaw, h.sound, fun hT hp => State.becomeCovered_presence hT (other hp) he ‹_›, fun _ => h.rosterLaw⟩

/-! ## Claims (R107 to R111) -/

theorem State.claimsChanged_claims (mic : Nat) (s : State) : s.Follows Entry.claims (s.claimsChanged mic) := by
  have role : ∀ t : State, t.Follows Entry.claims (t.computeRole mic) := fun t => ((State.Follows.refl _ t).computeRole mic).claims
  unfold State.claimsChanged
  split
  · exact .refl _ s
  · dsimp only
    split
    · exact (State.becomeCovered_claims mic s).trans (role _)
    · split
      · exact (State.becomeSilent_claims mic s).trans (role _)
      · exact role s

/-- A changed claim list moves its entry where its claims place it. -/
theorem State.claimsChanged_presence (hT : TableLaw s) (hother : ∀ e ∈ s.table, e.mic ≠ mic → e.Placed) :
    PresenceLaw (s.claimsChanged mic) := by
  have role : ∀ t : State, PresenceLaw t → PresenceLaw (t.computeRole mic) :=
    fun t => ((State.Follows.refl _ t).computeRole mic).presenceLaw
  unfold State.claimsChanged
  split
  · exact presenceLaw_iff.mpr fun e he => hother e he (State.entry?_none.mp ‹_› e he)
  · rename_i e he
    dsimp only
    split
    · exact role _ (State.becomeCovered_presence hT hother he (And.right ‹_›))
    · split
      · exact role _ (State.becomeSilent_presence hT hother he (And.right ‹_›))
      · rename_i hsilent hcovered
        refine role s (presenceLaw_iff.mpr fun x hx => ?_)
        by_cases hm : x.mic = mic
        · obtain rfl : e = x := Option.some.inj (he.symm.trans (hm ▸ hT.entry? hx))
          exact ⟨fun hp hc => hcovered ⟨hp, hc⟩, fun hp => Classical.byContradiction fun hc => hsilent ⟨hp, hc⟩⟩
        · exact hother x hx hm

/-- A claim list changed to claims of PRESENT stations, and the change handed on. -/
theorem State.changeClaims_keeps (f : List Claim → List Claim)
    (hf : RosterLaw s → ∀ e ∈ s.table, e.mic = mic → ∀ c ∈ f e.claims, s.hasPeer c.station = true) :
    s.Keeps ((s.modEntry mic fun e => { e with claims := f e.claims }).claimsChanged mic) := by
  have changed : s.Follows Entry.mic (s.modEntry mic fun e => { e with claims := f e.claims }) :=
    (State.Follows.refl _ s).modEntry mic fun _ => ⟨rfl, rfl⟩
  have handed := State.claimsChanged_claims mic (s.modEntry mic fun e => { e with claims := f e.claims })
  have all := changed.trans handed.mic
  refine ⟨all.tableLaw, all.sound, fun hT hp => State.claimsChanged_presence (changed.tableLaw hT) fun e he hm => ?_,
    fun _ hr => handed.rosterLaw fun e he c hc => ?_⟩
  · obtain ⟨x, hx, rfl⟩ := State.mem_modEntry he
    split at hm
    · exact absurd ‹x.mic = mic› hm
    · rw [if_neg ‹_›]
      exact presenceLaw_iff.mp hp x hx
  · obtain ⟨x, hx, rfl⟩ := State.mem_modEntry he
    split at hc
    · exact hf hr x hx ‹_› c hc
    · exact hr x hx c hc

theorem mem_insertClaim {p : Params} {c x : Claim} {l : List Claim} : x ∈ insertClaim p c l ↔ x = c ∨ x ∈ l := by
  induction l with
  | nil => simp [insertClaim]
  | cons y rest ih =>
    simp only [insertClaim]
    split
    · simp
    · simp only [List.mem_cons, ih]; tauto

/-- A list that a claim was entered in holds that claim and claims it held. -/
theorem mem_of_enterClaim {p : Params} {c x : Claim} {l l' : List Claim} (h : enterClaim p c l = some l') (hx : x ∈ l') :
    x = c ∨ x ∈ l := by
  have insert : ∀ m : List Claim, m ⊆ l → insertClaim p c m = l' → x = c ∨ x ∈ l := fun m hm hl =>
    (mem_insertClaim.mp (hl ▸ hx)).imp_right fun h => hm h
  unfold enterClaim at h
  split at h
  · exact insert _ (List.filter_subset_self _) (Option.some.inj h)
  · split at h
    · exact insert _ (List.Subset.refl _) (by simpa using h)
    · split at h
      · split at h
        · exact insert _ (List.dropLast_subset _) (by simpa using h)
        · cases h
      · cases h

theorem State.enterClaimFor_keeps (mic : Nat) (c : Claim) (s : State) : s.Keeps (s.enterClaimFor mic c) := by
  rcases State.enterClaimFor_cases mic c s with h | ⟨e, l, he, hpeer, hl, h⟩ <;> rw [h]
  · exact .refl s
  · refine State.changeClaims_keeps (fun _ => l) fun hr _ _ _ x hx => ?_
    rcases mem_of_enterClaim hl hx with rfl | hx
    · exact hpeer
    · exact hr e (State.entry?_some he).1 x hx

theorem State.removeClaim_keeps (mic station : Nat) (s : State) : s.Keeps (s.removeClaim mic station) := by
  unfold State.removeClaim
  split
  · exact .refl s
  · split
    · exact State.changeClaims_keeps (withoutStation station) fun hr e he _ c hc => hr e he c (List.mem_of_mem_filter hc)
    · exact .refl s

theorem State.claimExpires_keeps (mic station : Nat) (s : State) : s.Keeps (s.claimExpires mic station) :=
  (State.Keeps.refl s).expiry mic _ fun _ _ => State.removeClaim_keeps mic station s

/-! ## An absence (R107) -/

/-- An induction over a sweep that knows which entries are still to be visited. -/
theorem State.sweep_remaining {I : List Nat → State → Prop} {fx act : Nat → State → State}
    (absent : ∀ mic rest u, u.entry? mic = none → I (mic :: rest) u → I rest u)
    (faulty : ∀ mic rest u e, u.entry? mic = some e → e.checkGood = false → I (mic :: rest) u → I rest (fx mic u))
    (good : ∀ mic rest u e, u.entry? mic = some e → e.checkGood = true → I (mic :: rest) u → I rest (act mic u))
    (h : I s.mics s) : I [] (s.sweep fx act) := by
  suffices ∀ (mics : List Nat) (u : State), I mics u →
      I [] (mics.foldl (fun u mic => u.verified fx mic fun _ => act mic) u) from this s.mics s h
  intro mics
  induction mics with
  | nil => exact fun _ hu => hu
  | cons mic rest ih =>
    intro u hu
    refine ih _ ?_
    beta_reduce
    unfold State.verified
    split
    · exact absent mic rest u ‹_› hu
    · split
      · exact good mic rest u _ ‹_› ‹_› hu
      · exact faulty mic rest u _ ‹_› (Bool.eq_false_of_not_eq_true ‹_›) hu

/-- Every listed claim is of a PRESENT station, or of station `n` in an entry still to be visited. -/
def OwedClaims (n : Nat) (mics : List Nat) (s : State) : Prop :=
  ∀ e ∈ s.table, ∀ c ∈ e.claims, s.hasPeer c.station = true ∨ c.station = n ∧ e.mic ∈ mics

/-- A visit that follows, and leaves no claim of `n` in the entry of `mic`, is one entry less to visit. -/
theorem OwedClaims.visited {n : Nat} {rest : List Nat} {t u : State} (h : OwedClaims n (mic :: rest) s)
    (hst : ∀ e ∈ t.table, ∃ x ∈ s.table, e.mic = x.mic ∧ e.claims ⊆ x.claims ∧ (e.mic = mic → ∀ c ∈ e.claims, c.station ≠ n))
    (hpeer : ∀ m, s.hasPeer m = true → t.hasPeer m = true) (htu : t.Follows Entry.claims u) : OwedClaims n rest u := by
  intro e he c hc
  obtain ⟨x, hx, hxm, hxc⟩ := htu.entries e he
  obtain ⟨y, hy, hym, hsub, hgone⟩ := hst x hx
  rcases h y hy c (hsub (hxc ▸ hc)) with hp | ⟨hcn, hmem⟩
  · exact .inl (htu.roster _ (hpeer _ hp))
  · have hne : x.mic ≠ mic := fun hm => hgone hm c (hxc ▸ hc) hcn
    refine .inr ⟨hcn, ?_⟩
    rcases List.mem_cons.mp hmem with hm | hm
    · exact absurd (hym.trans hm) hne
    · rwa [hxm, hym]

theorem OwedClaims.removeClaim {n : Nat} {rest : List Nat} (h : OwedClaims n (mic :: rest) s) (hT : TableLaw s) {e : Entry}
    (he : s.entry? mic = some e) : OwedClaims n rest (s.removeClaim mic n) := by
  simp only [State.removeClaim, he]
  split
  · refine h.visited (t := s.modEntry mic fun e => { e with claims := withoutStation n e.claims }) (fun x hx => ?_) (fun _ => id)
      (State.claimsChanged_claims mic _)
    obtain ⟨y, hy, rfl⟩ := State.mem_modEntry hx
    refine ⟨y, hy, ?_⟩
    split
    · exact ⟨rfl, List.filter_subset_self _, fun _ c hc => by simpa using List.of_mem_filter hc⟩
    · exact ⟨rfl, List.Subset.refl _, fun hm => absurd hm ‹_›⟩
  · rename_i hnone
    refine h.visited (fun x hx => ⟨x, hx, rfl, List.Subset.refl _, fun hm c hc hcn => ?_⟩) (fun _ => id) (.refl _ s)
    obtain rfl : e = x := Option.some.inj (he.symm.trans (hm ▸ hT.entry? hx))
    exact hnone (List.any_eq_true.mpr ⟨c, hc, by simpa using hcn⟩)

/-- The absence sweep takes every claim of the station out (R107, R109). -/
theorem State.absenceExpiry_keeps (n : Nat) (s : State) : s.Keeps (s.absenceExpiry n) := by
  unfold State.absenceExpiry
  split
  · let left : State := { s with roster := s.roster.set n .absent }
    have swept : left.Keeps (left.sweep State.entryFault fun mic u => u.removeClaim mic n) :=
      State.sweep_keeps (P := left.Keeps)
        (fun mic u _ _ _ hu => hu.trans ((State.Follows.refl _ u).entryFault mic).keeps)
        (fun mic u _ _ _ hu => hu.trans (State.removeClaim_keeps mic n u)) (.refl left)
    have leftTable : TableLaw s → TableLaw left := fun hT => ⟨hT.ascending, hT.atMost96, hT.seats, hT.queuedSeats⟩
    have owed : RosterLaw s → OwedClaims n left.mics left := fun hr e he c hc => by
      by_cases hcn : c.station = n
      · exact .inr ⟨hcn, List.mem_map_of_mem he⟩
      · have hp := hr e he c hc
        refine .inl ?_
        simpa [left, State.hasPeer, State.slot, List.getD_eq_getElem?_getD, List.getElem?_set_ne (Ne.symm hcn)] using hp
    refine ⟨fun hT => swept.table (leftTable hT), swept.sound, fun hT hp => swept.presence (leftTable hT) ⟨hp.covered, hp.silent⟩,
      fun hT hr => ?_⟩
    obtain ⟨-, hnone⟩ := State.sweep_remaining (s := left) (I := fun rest u => TableLaw u ∧ OwedClaims n rest u)
      (fx := State.entryFault) (act := fun mic u => u.removeClaim mic n)
      (fun mic rest u hgone ⟨hu, ho⟩ => ⟨hu, ho.visited (mic := mic) (fun x hx => ⟨x, hx, rfl, List.Subset.refl _,
        fun hm => absurd hm (State.entry?_none.mp hgone x hx)⟩) (fun _ => id) (.refl _ u)⟩)
      (fun mic rest u e he _ ⟨hu, ho⟩ => by
        have hf := (State.Follows.refl Entry.place u).entryFault mic
        refine ⟨hf.tableLaw hu, ho.visited (mic := mic) (fun x hx => ?_) hf.roster (.refl _ _)⟩
        obtain ⟨y, hy, hm, hc⟩ := hf.claims.entries x hx
        exact ⟨y, hy, hm, by rw [hc]; exact List.Subset.refl _,
          fun h => absurd h (State.entry?_none.mp (State.entryFault_gone he) x hx)⟩)
      (fun mic rest u e he _ ⟨hu, ho⟩ => ⟨(State.removeClaim_keeps mic n u).table hu, ho.removeClaim hu he⟩)
      ⟨leftTable hT, owed hr⟩
    intro e he c hc
    simpa using hnone e he c hc
  · exact .refl s

end

/-! ## Sightings (R4, R19 to R21) -/

section
variable {s : State} {through : Nat} {g : Sighting}

theorem State.offerSighting_keeps (hg : 1 ≤ g.mic ∧ g.mic ≤ micMax) (s : State) : s.Keeps (s.offerSighting g) := by
  unfold State.offerSighting
  split
  · refine ⟨fun hT => ⟨hT.ascending, hT.atMost96, hT.seats, fun x hx => ?_⟩, id, fun _ hp => ⟨hp.covered, hp.silent⟩, fun _ hr => hr⟩
    rcases List.mem_append.mp hx with hx | hx
    · exact hT.queuedSeats x hx
    · rwa [List.mem_singleton.mp hx]
  · exact (State.Keeps.refl s).frame rfl

/-- An accepted record names a seat (R2). -/
theorem formSighting_seat {now : Nat} {bits : List Bool} (h : validate bits = .accepted) :
    1 ≤ (formSighting now bits).mic ∧ (formSighting now bits).mic ≤ micMax := by
  have hmic : (formSighting now bits).mic = recordMic (bytesOfBits bits) := rfl
  rw [hmic]
  unfold validate at h
  dsimp only at h
  split at h
  · cases h
  · split at h
    · cases h
    · split at h
      · cases h
      · omega

theorem State.recordDone_keeps (bits : List Bool) (s : State) : s.Keeps (s.recordDone bits) := by
  have idle : s.Keeps { s with strobe := .low } := (State.Keeps.refl s).frame rfl
  unfold State.recordDone
  dsimp only
  split
  · exact idle
  · split
    · refine idle.trans ?_
      unfold State.validateRecord
      split
      · exact (State.Keeps.refl _).frame rfl
      · exact (State.Keeps.refl _).frame rfl
      · exact (State.Keeps.refl _).frame rfl
      · unfold State.acceptRecord
        extract_lets counted fed
        have hcounted : State.Follows Entry.place { s with strobe := .low } counted := (State.Follows.refl _ _).frame rfl
        have hfed : State.Follows Entry.place { s with strobe := .low } fed := by
          unfold fed
          split
          · exact hcounted.feedReturn
          · exact hcounted.frame rfl
        exact hfed.keeps.trans (State.offerSighting_keeps (formSighting_seat ‹_›) fed)
    · exact .refl s
    · exact idle

theorem State.hear_keeps (mic : Nat) (s : State) : s.Keeps (s.hear mic) := by
  have h : s.Follows Entry.claims (s.hear mic) := (State.Follows.refl _ s).modEntry mic (by exact fun _ => ⟨rfl, rfl⟩)
  exact ⟨h.tableLaw, h.sound, fun hT hp => presenceLaw_modEntry hT (fun e he _ => presenceLaw_iff.mp hp e he)
    (by exact fun _ _ => ⟨by simp, by simp⟩), fun _ => h.rosterLaw⟩

/-- A new entry joins at its place, HEARD and with no claim (R20). -/
theorem State.addEntry_keeps (hg : 1 ≤ g.mic ∧ g.mic ≤ micMax) (hn : s.entry? g.mic = none) (hl : s.table.length < tableMax) :
    s.Keeps (s.addEntry through g) := by
  refine State.Keeps.trans (t := { s with table := insertEntry (s.newEntry g) s.table }) ?_
    ((State.Follows.refl _ _).proceed through _).keeps
  refine ⟨fun hT => ⟨insertEntry_ascending hT.ascending (State.entry?_none.mp hn), ?_, fun e he => ?_, hT.queuedSeats⟩,
    fun hs e he => ?_, fun _ hp => presenceLaw_iff.mpr fun e he => ?_, fun _ hr e he => ?_⟩
  · simp only [length_insertEntry]
    exact hl
  all_goals rcases mem_insertEntry.mp he with rfl | he
  · exact hg
  · exact hT.seats e he
  · rfl
  · exact hs e he
  · exact ⟨by simp [State.newEntry], by simp [State.newEntry]⟩
  · exact presenceLaw_iff.mp hp e he
  · simp [State.newEntry]
  · exact hr e he

theorem State.addEntry_sound (hs : SoundLaw s) : SoundLaw (s.addEntry through g) := by
  refine ((State.Follows.refl Entry.place _).proceed through _).sound fun e he => ?_
  rcases mem_insertEntry.mp he with rfl | he
  · rfl
  · exact hs e he

theorem State.removeEntry_follows (mic : Nat) (s : State) : s.Follows Entry.place (s.removeEntry State.entryFault mic) :=
  (State.Follows.refl _ s).removeEntry State.Follows.entryFaults mic

/-- An entry that has gone leaves room. -/
theorem State.Follows.length_lt {α : Type} {key : Entry → α} {t : State} (h : s.Follows key t) {e : Entry} (he : e ∈ s.table)
    (hgone : t.entry? e.mic = none) : t.table.length < s.table.length := by
  have hlen := h.mics.length_le
  have hne : t.mics.length ≠ s.mics.length := fun heq => by
    have hmem : e.mic ∈ t.mics := h.mics.eq_of_length heq ▸ List.mem_map_of_mem he
    obtain ⟨x, hx, hxm⟩ := List.mem_map.mp hmem
    exact State.entry?_none.mp hgone x hx hxm
  simp only [State.mics, List.length_map] at hlen hne
  omega

theorem State.removeEntry_gone (mic : Nat) (s : State) : (s.removeEntry State.entryFault mic).entry? mic = none :=
  ((((State.Follows.refl _ _).told (State.removeWhere_told _ _)).updateLost State.Follows.entryFaults).told
    (State.selectWarningLamps_told _)).gone (by simp)

theorem oldest_mem {ok : Entry → Bool} {l : List Entry} {e : Entry} (h : oldest ok l = some e) : e ∈ l := by
  induction l generalizing e with
  | nil => cases h
  | cons x rest ih =>
    unfold oldest at h
    split at h
    · split at h
      · cases h; simp
      · cases h
    · rename_i f hf
      split at h <;> cases h
      · simp
      · simp [ih hf]

theorem victim_mem {l : List Entry} {e : Entry} (h : victim l = some e) : e ∈ l := by
  unfold victim at h
  split at h
  · cases h
    exact oldest_mem ‹_›
  · exact oldest_mem h

/-- What becomes of a sighting of a microphone with no entry: admission with room or in the place of an entry that goes, or a
refusal (R20, R21). -/
theorem State.admitOrEvict_cases (through : Nat) (g : Sighting) (s : State) :
    (s.table.length < tableMax ∧ s.admitOrEvict through g = s.addEntry through g) ∨
    (tableMax ≤ s.table.length ∧ ∃ (t : State) (e : Entry), s.Follows Entry.place t ∧ e ∈ s.table ∧ t.entry? e.mic = none ∧
      s.admitOrEvict through g = t.addEntry through g) ∨
    (tableMax ≤ s.table.length ∧ s.admitOrEvict through g = s.count .tableFull) := by
  unfold State.admitOrEvict
  split
  · exact .inl ⟨‹_›, rfl⟩
  · have hfull : tableMax ≤ s.table.length := Nat.not_lt.mp ‹_›
    refine .inr ?_
    unfold State.evictFor
    split
    · rename_i bad hbad
      obtain ⟨x, hx⟩ : ∃ x, s.entry? bad.mic = some x := Option.ne_none_iff_exists'.mp fun hnone =>
        State.entry?_none.mp hnone bad (List.mem_of_find?_eq_some hbad) rfl
      exact .inl ⟨hfull, _, bad, (State.Follows.refl _ s).entryFault bad.mic, List.mem_of_find?_eq_some hbad,
        State.entryFault_gone hx, rfl⟩
    · split
      · rename_i e he
        exact .inl ⟨hfull, _, e, State.removeEntry_follows e.mic s, victim_mem he, State.removeEntry_gone e.mic s, rfl⟩
      · exact .inr ⟨hfull, rfl⟩

theorem State.admitOrEvict_keeps (hg : 1 ≤ g.mic ∧ g.mic ≤ micMax) (hn : s.entry? g.mic = none) :
    s.Keeps (s.admitOrEvict through g) := by
  rcases State.admitOrEvict_cases through g s with ⟨hl, h⟩ | ⟨-, t, e, hst, he, hgone, h⟩ | ⟨-, h⟩ <;> rw [h]
  · exact State.addEntry_keeps hg hn hl
  · have room : TableLaw s → t.table.length < tableMax := fun hT => Nat.lt_of_lt_of_le (hst.length_lt he hgone) hT.atMost96
    have added : TableLaw s → t.Keeps (t.addEntry through g) := fun hT => State.addEntry_keeps hg (hst.gone hn) (room hT)
    exact ⟨fun hT => (added hT).table (hst.tableLaw hT), fun hs => State.addEntry_sound (hst.sound hs),
      fun hT hp => (added hT).presence (hst.tableLaw hT) (hst.presenceLaw hp),
      fun hT hr => (added hT).roster (hst.tableLaw hT) (hst.claims.rosterLaw hr)⟩
  · exact (State.Keeps.refl s).frame rfl

theorem State.admitOrEvict_sound (hs : SoundLaw s) : SoundLaw (s.admitOrEvict through g) := by
  rcases State.admitOrEvict_cases through g s with ⟨-, h⟩ | ⟨-, t, e, hst, -, -, h⟩ | ⟨-, h⟩ <;> rw [h]
  · exact State.addEntry_sound hs
  · exact State.addEntry_sound (hst.sound hs)
  · exact hs

theorem State.sight_keeps (hg : 1 ≤ g.mic ∧ g.mic ≤ micMax) (s : State) : s.Keeps (s.sight through g) := by
  unfold State.sight
  split
  · rename_i e he
    split
    · exact (State.hear_keeps g.mic s).trans ((State.Follows.refl _ _).proceed through _).keeps
    · exact ((State.Follows.refl _ s).entryFault g.mic).keeps.trans (State.admitOrEvict_keeps hg (State.entryFault_gone he))
  · exact State.admitOrEvict_keeps hg ‹_›

theorem State.sight_sound (hs : SoundLaw s) : SoundLaw (s.sight through g) := by
  unfold State.sight
  split
  · split
    · exact ((State.Follows.refl Entry.place _).proceed through _).sound ((State.hear_keeps g.mic s).sound hs)
    · exact State.admitOrEvict_sound (((State.Follows.refl Entry.place s).entryFault g.mic).sound hs)
  · exact State.admitOrEvict_sound hs

theorem State.takeSighting_keeps (through : Nat) (s : State) : s.Keeps (s.takeSighting through) := by
  unfold State.takeSighting
  split
  · exact ((State.Follows.refl _ s).proceed through _).keeps
  · split
    · rename_i g rest hi
      have seat : TableLaw s → 1 ≤ g.mic ∧ g.mic ≤ micMax := fun hT => hT.queuedSeats g (by simp [hi])
      have taken : s.Keeps { s with intake := rest, inProcessing := none } :=
        ⟨fun hT => ⟨hT.ascending, hT.atMost96, hT.seats, fun x hx => hT.queuedSeats x (by simp [hi, hx])⟩, id,
          fun _ hp => ⟨hp.covered, hp.silent⟩, fun _ hr => hr⟩
      have sighted : TableLaw s → s.Keeps (({ s with intake := rest, inProcessing := none }).sight through g) :=
        fun hT => taken.trans (State.sight_keeps (seat hT) _)
      exact ⟨fun hT => (sighted hT).table hT, fun hs => State.sight_sound hs, fun hT => (sighted hT).presence hT,
        fun hT => (sighted hT).roster hT⟩
    · exact .refl s

end

/-! ## Frames taken (R138) -/

theorem State.dispatch_keeps {s : State} {act : Nat → RxBody → Option (State → State)}
    (hact : ∀ source body work, act source body = some work → ∀ u : State, u.Keeps (work u)) : s.Keeps (s.dispatch act) := by
  unfold State.dispatch
  split
  · rename_i f rest _ _
    split
    · rename_i work hwork
      exact (((State.Keeps.refl s).frame (u := { s with rx := rest, inDispatch := some f }) rfl).trans
        (hact _ _ work hwork _)).frame rfl
    · exact .refl s
  · exact .refl s

theorem State.takeClaims_keeps (source : Nat) (pairs : List Pair) (s : State) : s.Keeps (s.takeClaims source pairs) := by
  unfold State.takeClaims
  induction pairs generalizing s with
  | nil => exact .refl s
  | cons p rest ih =>
    rw [List.foldl_cons]
    refine State.Keeps.trans ?_ (ih _)
    unfold State.takeClaim
    split
    · exact .refl s
    · exact (State.Keeps.refl s).verified p.mic fun e _ => State.enterClaimFor_keeps ..

theorem State.claimTaken_keeps (s : State) : s.Keeps (s.dispatch claimWork) :=
  State.dispatch_keeps fun source body work h u => by
    cases body <;> cases h
    exact State.takeClaims_keeps ..

theorem State.warnTaken_keeps (s : State) : s.Keeps (s.dispatch warnWork) :=
  State.dispatch_keeps fun source body work h u => by
    cases body <;> cases h
    rename_i w
    refine (State.Keeps.refl u).verified w.mic fun e _ => ?_
    have claimed : u.Keeps ((u.absorbWarn w e).warnClaim source w) := by
      refine ((State.Follows.refl _ u).absorbWarn w e).keeps.trans ?_
      unfold State.warnClaim
      split
      · exact State.enterClaimFor_keeps ..
      · exact .refl _
    exact claimed.trans (((State.Follows.refl _ _).yieldTo source w).cancelTakeover w).keeps

theorem State.ackTaken_keeps (s : State) : s.Keeps (s.dispatch ackWork) :=
  State.dispatch_keeps fun source body work h u => by
    cases body <;> cases h
    exact (State.Keeps.refl u).verified _ fun e _ => ((State.Follows.refl _ u).acknowledge ..).keeps

theorem State.floorTaken_keeps (s : State) : s.Keeps (s.dispatch floorWork) :=
  State.dispatch_keeps fun source body work h u => by
    cases body <;> cases h
    rename_i mics
    exact ((State.Follows.refl _ u).frame (u := { u with
      floorSet := floorSetOf mics, floor := .fresh, floorTimer := u.after u.params.floorMs }) rfl).floorSweep.keeps

theorem State.entryQuery_keeps (s : State) : s.Keeps (s.dispatch entryQueryWork) :=
  State.dispatch_keeps fun source body work h u => by
    unfold entryQueryWork at h
    split at h <;> cases h
    dsimp only
    split
    · exact ((State.Follows.refl _ u).answerEntry _).keeps
    · exact .refl u

theorem State.statsQuery_keeps (s : State) : s.Keeps (s.dispatch statsQueryWork) :=
  State.dispatch_keeps fun source body work h u => by
    unfold statsQueryWork at h
    split at h <;> cases h
    dsimp only
    split
    · exact ((State.Follows.refl _ u).told (State.requestFrame_told _ u)).keeps
    · exact .refl u

theorem State.restart_keeps (s : State) : s.Keeps (s.dispatch restartWork) :=
  State.dispatch_keeps fun source body work h u => by
    cases body <;> cases h
    exact (State.Follows.refl _ u).restarted.keeps

theorem State.peerReportTaken_keeps (s : State) : s.Keeps (s.dispatch reportWork) :=
  State.dispatch_keeps fun source body work h u => by
    cases body <;> cases h
    exact .refl u

/-! ## Every command and every step -/

/-- A start empties the table (R183). -/
theorem State.started_keeps (cause : StartCause) (s : State) : s.Keeps (s.started cause) := by
  have htable : (s.started cause).table = [] := rfl
  have hintake : (s.started cause).intake = [] := rfl
  have hmics : (s.started cause).mics = [] := rfl
  exact ⟨fun _ => ⟨by simp [hmics], by simp [htable], by simp [htable], by simp [hintake]⟩, fun _ => by simp [SoundLaw, htable],
    fun _ _ => ⟨by simp [htable], by simp [htable]⟩, fun _ _ => by simp [RosterLaw, htable]⟩

/-- Every command keeps the laws of the table. -/
theorem exec_keeps {s t : State} {i : Instr} (hx : exec i s = .next t) : s.Keeps t := by
  have follow := State.Follows.refl Entry.place s
  have same := State.Keeps.refl s
  cases i with
  | start cause => cases hx; exact State.started_keeps cause s
  | loadBegin straps => cases hx; exact (follow.beginLoad straps).keeps
  | areaReadComplete answer => cases hx; exact (follow.areaRead answer).keeps
  | areaReadTimeout => cases hx; exact follow.areaTimeout.keeps
  | strobeAsserted => cases hx; exact same.frame rfl
  | recordCompletion bits => cases hx; exact State.recordDone_keeps bits s
  | feedSilenceExpiry => cases hx; exact follow.feedSilence.keeps
  | sightingTaken through => cases hx; exact State.takeSighting_keeps through s
  | lossTimerExpiry mic => cases hx; exact State.lossExpiry_keeps mic s
  | forgetTimerExpiry mic => cases hx; exact (follow.forgetExpiry mic).keeps
  | lostForgetExpiry mic => cases hx; exact (follow.lostForgetExpiry mic).keeps
  | epochTimerExpiry mic => cases hx; exact (follow.epochExpiry mic).keeps
  | staleTimerExpiry mic => cases hx; exact (follow.staleExpiry mic).keeps
  | persistenceTimerExpiry mic kind => cases hx; exact (follow.persistenceExpiry mic kind).keeps
  | repeatTimerExpiry mic kind => cases hx; exact (follow.repeatExpiry mic kind).keeps
  | zoneRepeatTimerExpiry => cases hx; exact follow.zoneRepeatExpiry.keeps
  | stationRepeatTimerExpiry => cases hx; exact follow.stationRepeatExpiry.keeps
  | floorTimerExpiry => cases hx; exact follow.floorExpiry.keeps
  | absenceTimerExpiry station => cases hx; exact State.absenceExpiry_keeps station s
  | claimExpiry mic station => cases hx; exact State.claimExpires_keeps mic station s
  | pendingTimerExpiry mic => cases hx; exact (follow.pendingExpiry mic).keeps
  | takeoverTimerExpiry mic => cases hx; exact (follow.takeoverExpiry mic).keeps
  | claimRoundTimerExpiry => cases hx; exact follow.claimRoundExpiry.keeps
  | cueRefreshExpiry mic => cases hx; exact (follow.refreshExpiry mic).keeps
  | cueTransferStart crdy =>
    cases hx
    unfold State.startTransfer
    split
    · split
      · exact same.frame rfl
      · exact same
    · exact same
  | cueTransferComplete =>
    cases hx
    unfold State.endTransfer
    split
    · exact same.frame rfl
    · exact same
  | phaseTimerExpiry lamp =>
    cases hx
    unfold State.phaseExpiry
    split
    · cases lamp <;> exact same.frame rfl
    · exact same
  | joiningTimerExpiry => cases hx; exact follow.joiningEnds.keeps
  | integrityWindowExpiry => cases hx; exact follow.windowEnds.keeps
  | lineIdle => cases hx; exact follow.lineQuiet.keeps
  | lineActivity => cases hx; exact follow.lineStart.keeps
  | slotBoundary => cases hx; exact follow.slotEnds.keeps
  | frameSent => cases hx; exact follow.sendDone.keeps
  | collision => cases hx; exact follow.collide.keeps
  | frameCompletion bits gap headMissed => cases hx; exact (follow.frameDone bits gap headMissed).keeps
  | claimTaken => cases hx; exact State.claimTaken_keeps s
  | warnTaken => cases hx; exact State.warnTaken_keeps s
  | floorTaken => cases hx; exact State.floorTaken_keeps s
  | ackTaken => cases hx; exact State.ackTaken_keeps s
  | entryQuery => cases hx; exact State.entryQuery_keeps s
  | statsQuery => cases hx; exact State.statsQuery_keeps s
  | restart => cases hx; exact State.restart_keeps s
  | peerReportTaken => cases hx; exact State.peerReportTaken_keeps s

theorem step_keeps {s t : State} (h : step s = .next t) : s.Keeps t := by
  rcases step_cases h with ⟨c, rest, -, hx⟩ | ⟨-, p, -, hx⟩ | ⟨-, -, rfl⟩
  · exact ((State.Keeps.refl s).frame (u := { s with pending := rest }) rfl).trans (exec_keeps hx)
  · exact exec_keeps hx
  · exact (State.Keeps.refl s).frame rfl

/-- Settles O50: every command keeps the table's laws. -/
theorem stepKeepsTheTable : Obligations.StepKeepsTheTable := by
  unfold Obligations.StepKeepsTheTable
  intro s t h
  exact ⟨(step_keeps h).table, (step_keeps h).sound⟩

/-- Settles O54: every command keeps presence, claims and roster in agreement. -/
theorem stepKeepsPresence : Obligations.StepKeepsPresence := by
  unfold Obligations.StepKeepsPresence
  intro s t hT h
  exact ⟨(step_keeps h).presence hT, (step_keeps h).roster hT⟩

end Sys2Proof.Machine
end

section
/-! Role changes of one entry (R113, R117, R118): what the entry becomes, and what they leave of the state. -/

namespace Sys2Proof.Machine

/-! ## Entries up to what the chamber was told -/

/-- An entry becomes the same whatever its chamber was told: `F` does not read it. -/
def Entry.Unheeding (F : Entry → Entry) : Prop := ∀ e, (F e.untold).untold = (F e).untold

theorem Entry.Unheeding.congr {F : Entry → Entry} (h : Entry.Unheeding F) {x e : Entry} (hx : x.untold = e.untold) :
    (F x).untold = (F e).untold := by rw [← h x, hx, h e]

theorem State.recued_unheeding (s : State) : Entry.Unheeding s.recued := fun e => by
  have hc : cued s.station e.untold = cued s.station e := rfl
  have hp : cuePattern e.untold = cuePattern e := rfl
  have hcue : e.untold.cue = e.cue := rfl
  simp only [State.recued, hc, hp, hcue]
  split
  · split <;> rfl
  · rfl

theorem State.roleDecided_unheeding (s : State) (own : Nat) : Entry.Unheeding (s.roleDecided own) := fun e => by
  have hw : reporterWins s.params s.number own e.untold.claims = reporterWins s.params s.number own e.claims := rfl
  have hr : e.untold.role = e.role := rfl
  simp only [State.roleDecided, hw, hr]
  split
  · split
    · rfl
    · exact s.recued_unheeding { e with role := .reporter, takeover := .stopped }
  · split
    · exact s.recued_unheeding { e with role := .follower }
    · rfl

theorem State.roleComputed_unheeding (s : State) : Entry.Unheeding s.roleComputed := fun e => by
  have hp : e.untold.presence = e.presence := rfl
  have hr : e.untold.role = e.role := rfl
  have hq : e.untold.q = e.q := rfl
  simp only [State.roleComputed, hp, hr, hq]
  split
  · exact s.roleDecided_unheeding _ e
  · rfl

theorem State.stepped_unheeding (s : State) : Entry.Unheeding s.stepped := fun e => by
  have hb : batteryInput s.station e.untold = batteryInput s.station e := rfl
  have hm : muteInput s.station s.floor e.untold = muteInput s.station s.floor e := rfl
  have hg : signalInput s.station e.untold = signalInput s.station e := rfl
  simp only [State.stepped, hb, hm, hg]
  simp only [Entry.untold, Record.step_untold]
  rfl

@[simp] theorem State.stepped_mic (s : State) (e : Entry) : (s.stepped e).mic = e.mic := rfl

@[simp] theorem State.roleDecided_mic (s : State) (own : Nat) (e : Entry) : (s.roleDecided own e).mic = e.mic := by
  unfold State.roleDecided
  split
  · split <;> simp
  · split <;> simp

@[simp] theorem State.roleComputed_mic (s : State) (e : Entry) : (s.roleComputed e).mic = e.mic := by
  unfold State.roleComputed
  split <;> simp

@[simp] theorem State.recued_role (s : State) (e : Entry) : (s.recued e).role = e.role := by
  unfold State.recued
  split
  · split <;> rfl
  · rfl

/-! ## Changes of one entry in turn -/

namespace State.Changed

variable {s t u : State} {mic : Nat} {e : Entry}

/-- An entry changed to itself. -/
theorem refl (hT : TableLaw s) (he : s.entry? mic = some e) : s.Changed s mic e := by
  refine ⟨rfl, ?_, id⟩
  obtain ⟨hmem, hmic⟩ := State.entry?_some he
  refine List.map_congr_left fun x hx => ?_
  by_cases hm : x.mic = mic
  · simp [hT.unique hx hmem (hm.trans hmic.symm)]
  · simp [hm]

theorem congr (h : s.Changed t mic e) {f : Entry} (hf : e.untold = f.untold) : s.Changed t mic f := by
  refine ⟨h.only, h.view.trans (List.map_congr_left fun x _ => ?_), h.sound⟩
  split
  · exact hf
  · rfl

/-- The entry that stands there after a change. -/
theorem found (h : s.Changed t mic e) (hm : e.mic = mic) (hs : (s.entry? mic).isSome) :
    ∃ x, t.entry? mic = some x ∧ x.untold = e.untold := by
  simpa using h.entry? hm hs

/-- A change, and then one that makes of the entry what `F` says. -/
theorem andThen (h : s.Changed t mic e) (hm : e.mic = mic) (hs : (s.entry? mic).isSome) {F : Entry → Entry}
    (hF : Entry.Unheeding F) (k : ∀ x, t.entry? mic = some x → t.Changed u mic (F x)) : s.Changed u mic (F e) := by
  obtain ⟨x, hx, hxe⟩ := h.found hm hs
  exact h.trans hm ((k x hx).congr (hF.congr hxe))

/-- What a condition is left at. -/
theorem keep (h : s.Changed t mic e) : t.now = s.now ∧ t.station = s.station ∧ t.params = s.params ∧ t.number = s.number ∧
    t.floor = s.floor ∧ t.inProcessing = s.inProcessing := by
  have h1 := h.only
  unfold State.onlyHandOffs at h1
  rw [h1]
  exact ⟨rfl, rfl, rfl, rfl, rfl, rfl⟩

theorem recued_eq (h : s.Changed t mic e) : t.recued = s.recued := by
  obtain ⟨hnow, hst, hparams, -⟩ := h.keep
  funext x
  simp only [State.recued, hnow, hst, hparams]

/-- A change, and then a cue selection. -/
theorem selectCue (h : s.Changed t mic e) (hm : e.mic = mic) (hs : (s.entry? mic).isSome) (hT : TableLaw s) :
    s.Changed (t.selectCue mic) mic (s.recued e) := by
  refine h.andThen hm hs s.recued_unheeding fun x hx => ?_
  rw [← h.recued_eq]
  exact State.selectCue_changed (h.table hm hT) hx

end State.Changed

/-! ## Gain and loss of the role -/

section
variable {s : State} {mic : Nat} {e : Entry}

/-- Repeat timers changed in the entry of `mic`, which the view does not see. -/
theorem State.treatRepeats_told (mic due : Nat) (s : State) : s.Told (s.modEntry mic (Entry.treatRepeats due)) :=
  State.mapEntry_told (fun _ _ _ => rfl) fun _ _ => rfl

theorem State.stopRepeats_told (mic : Nat) (s : State) : s.Told (s.modEntry mic Entry.stopRepeats) :=
  State.mapEntry_told (fun _ _ _ => rfl) fun _ _ => rfl

theorem State.gainReporter_changed (hT : TableLaw s) (he : s.entry? mic = some e) :
    s.Changed (s.gainReporter mic) mic (s.recued { e with role := .reporter, takeover := .stopped }) := by
  have gained := State.modEntry_changed hT he fun e => { e with role := .reporter, takeover := .stopped }
  exact ((gained.told (State.adoptAll_told mic _)).told (State.treatRepeats_told mic _ _)).selectCue (State.entry?_some he).2
    (by simp [he]) hT

theorem State.loseReporter_changed (hT : TableLaw s) (he : s.entry? mic = some e) :
    s.Changed (s.loseReporter mic) mic (s.recued { e with role := .follower }) := by
  have lost := State.modEntry_changed hT he fun e => { e with role := .follower }
  exact ((lost.told (State.discardWhere_told _ _)).told (State.stopRepeats_told mic _)).selectCue (State.entry?_some he).2
    (by simp [he]) hT

/-- The entry made FOLLOWER: from REPORTER its cue is selected too (R118). -/
theorem State.makeFollower_changed (hT : TableLaw s) (he : s.entry? mic = some e) : s.Changed (s.makeFollower mic) mic
    (if e.role = .reporter then s.recued { e with role := .follower } else { e with role := .follower }) := by
  simp only [State.makeFollower, he]
  split
  · exact State.loseReporter_changed hT he
  · exact State.modEntry_changed hT he fun e => { e with role := .follower }

/-- A role decision (R113). -/
theorem State.decideRole_changed (hT : TableLaw s) (he : s.entry? mic = some e) (own : Nat) :
    s.Changed (s.decideRole mic own) mic (s.roleDecided own e) := by
  simp only [State.decideRole, he, State.roleDecided]
  split
  · split
    · exact .refl hT he
    · exact State.gainReporter_changed hT he
  · exact State.makeFollower_changed hT he

/-- A role computation (R113). -/
theorem State.computeRole_changed (hT : TableLaw s) (he : s.entry? mic = some e) :
    s.Changed (s.computeRole mic) mic (s.roleComputed e) := by
  simp only [State.computeRole, he, State.roleComputed]
  split
  · exact State.decideRole_changed hT he _
  · exact .refl hT he

end

/-! ## What role changes leave of the state -/

/-- Only the table, the two queues and the counters differ. -/
def State.onlyQueues (s t : State) : Prop :=
  t = { s with table := t.table, tx := t.tx, cueQueue := t.cueQueue, counters := t.counters }

namespace State.onlyQueues

variable {s t u : State}

theorem refl (s : State) : s.onlyQueues s := rfl

theorem trans (h : s.onlyQueues t) (k : t.onlyQueues u) : s.onlyQueues u := by
  unfold State.onlyQueues at *
  rw [k, h]

theorem keep (h : s.onlyQueues t) : t.zone = s.zone ∧ t.lostCount = s.lostCount ∧ t.station = s.station ∧ t.now = s.now ∧
    t.params = s.params ∧ t.stationRepeat = s.stationRepeat := by
  rw [h]
  exact ⟨rfl, rfl, rfl, rfl, rfl, rfl⟩

theorem modEntry (h : s.onlyQueues t) (mic : Nat) (f : Entry → Entry) : s.onlyQueues (t.modEntry mic f) := h.trans rfl

theorem of_eq {table : List Entry} {tx : List TxFrame} {cues : List Cue} {counters : Counters}
    (h : t = { s with table := table, tx := tx, cueQueue := cues, counters := counters }) : s.onlyQueues t := by
  subst h
  rfl

theorem submit (h : s.onlyQueues t) (f : Frame) : s.onlyQueues (t.submit f).1 := h.trans (of_eq (State.submit_eq f t))

theorem discardWhere (h : s.onlyQueues t) (drop : Frame → Bool) : s.onlyQueues (t.discardWhere drop) :=
  h.trans (of_eq (State.discardWhere_eq drop t))

theorem requestWarn (h : s.onlyQueues t) (mic : Nat) (k : Kind) (reason : Reason) : s.onlyQueues (t.requestWarn mic k reason) := by
  unfold State.requestWarn
  split
  · exact h
  · split
    · rename_i e _ _
      have placed : s.onlyQueues ((t.removeWhere (Frame.warnFor mic k)).submit (.warn (composeWarn t.now e k reason))).1 :=
        (h.trans (u := t.removeWhere (Frame.warnFor mic k)) rfl).submit _
      dsimp only
      split
      · exact placed.modEntry mic _
      · exact placed
    · exact h

theorem announce (h : s.onlyQueues t) (mic : Nat) (k : Kind) (reason : Reason) : s.onlyQueues (t.announce mic k reason) :=
  (h.requestWarn mic k reason).modEntry mic _

theorem adopt (h : s.onlyQueues t) (mic : Nat) (k : Kind) : s.onlyQueues (t.adopt mic k) := by
  unfold State.adopt
  split
  · exact h
  · split
    · exact h.announce ..
    · exact h

theorem selectCue (h : s.onlyQueues t) (mic : Nat) : s.onlyQueues (t.selectCue mic) := by
  have offer : ∀ (c : Cue) (u : State), s.onlyQueues u → s.onlyQueues (u.offerCue c) := fun c u hu => by
    unfold State.offerCue
    split <;> exact hu.trans rfl
  unfold State.selectCue
  split
  · exact h
  · split
    · split
      · exact h
      · exact offer _ _ (h.modEntry mic _)
    · exact h.modEntry mic _

theorem loseReporter (h : s.onlyQueues t) (mic : Nat) : s.onlyQueues (t.loseReporter mic) :=
  (((h.modEntry mic _).discardWhere _).modEntry mic _).selectCue mic

theorem makeFollower (h : s.onlyQueues t) (mic : Nat) : s.onlyQueues (t.makeFollower mic) := by
  unfold State.makeFollower
  split
  · exact h
  · split
    · exact h.loseReporter mic
    · exact h.modEntry mic _

theorem decideRole (h : s.onlyQueues t) (mic own : Nat) : s.onlyQueues (t.decideRole mic own) := by
  unfold State.decideRole
  split
  · exact h
  · split
    · split
      · exact h
      · exact (((((h.modEntry mic _).adopt mic _).adopt mic _).adopt mic _).modEntry mic _).selectCue mic
    · exact h.makeFollower mic

theorem computeRole (h : s.onlyQueues t) (mic : Nat) : s.onlyQueues (t.computeRole mic) := by
  unfold State.computeRole
  split
  · exact h
  · split
    · exact h.decideRole ..
    · exact h

theorem presenceRole (h : s.onlyQueues t) (mic : Nat) : s.onlyQueues (t.presenceRole mic) := by
  unfold State.presenceRole
  split
  · exact h
  · split
    · exact h
    · exact (h.makeFollower mic).modEntry mic _
    · split
      · exact h
      · exact h.modEntry mic _

end State.onlyQueues

end Sys2Proof.Machine
end

section
/-! What a change of role leaves of the chamber fields, the repeat timers and the queued WARN frames of the entry (R73, R74, R76,
R117, R118), as `State.tellings` states it. -/

namespace Sys2Proof.Machine

/-! ## The adoption of one record (R117) -/

@[simp] theorem Entry.record_checked (e : Entry) (j : Kind) : ({ e with checkGood := true } : Entry).record j = e.record j := by
  cases j <;> rfl

theorem Entry.role_of_untold {x e : Entry} (h : x.untold = e.untold) : x.role = e.role :=
  show x.untold.role = e.untold.role from congrArg _ h

/-- The entry that is changed is found changed. -/
theorem State.modEntry_found {s : State} {mic : Nat} {e : Entry} (he : s.entry? mic = some e) (f : Entry → Entry)
    (hf : ∀ x, (f x).mic = x.mic) : (s.modEntry mic f).entry? mic = some { f e with checkGood := true } := by
  rw [State.entry?_modEntry s mic mic f hf, he]
  simp

/-- A WARN frame says nothing of what the chamber was told. -/
theorem composeWarn_congr {e f : Entry} (h : f.untold = e.untold) (now : Nat) (k : Kind) (reason : Reason) :
    composeWarn now f k reason = composeWarn now e k reason := by
  have untold : ∀ x : Entry, composeWarn now x.untold k reason = composeWarn now x k reason := fun x => by cases k <;> rfl
  rw [← untold f, h, untold e]

theorem Frame.warnOf_of_warnFor {f : Frame} {mic : Nat} {k : Kind} (h : f.warnFor mic k = true) : f.warnOf mic = true := by
  unfold Frame.warnFor at h
  split at h
  · exact (Bool.and_eq_true_iff.mp h).1
  · cases h

theorem Frame.cls_warn_le (w : Warn) : (Frame.warn w).cls ≤ 2 := by
  simp only [Frame.cls]
  cases w.reason <;> decide

/-- A frame less urgent than every WARN leaves no record behind. -/
theorem State.discardFrame_of_cls {f : Frame} (h : 2 < f.cls) (s : State) : s.discardFrame f = s := by
  cases f with
  | warn w => exact absurd (Frame.cls_warn_le w) (Nat.not_le.mpr h)
  | _ => rfl

theorem StationState.sendsAll_iff {st : StationState} : st.sendsAll = true ↔ st = .running ∨ st = .feedDown := by
  cases st <;> simp [StationState.sendsAll]

section
variable {s : State} {mic : Nat} {e : Entry} {k : Kind}

/-- The gate of an ADOPT for a reported entry: the station sends, and the zone does not hold the level back (R143, R144). -/
theorem State.warnGate_reporter (hr : e.role = .reporter) :
    s.warnGate e k = true ↔ (s.station = .running ∨ s.station = .feedDown) ∧ s.holdsBack k (e.record k).level = false := by
  rw [← StationState.sendsAll_iff]
  simp [State.warnGate, State.holdsBack, hr, or_assoc, imp_iff_not_or]

/-- An ADOPT request that passes the gates: it finds room, or no WARN gives way to it. -/
theorem State.requestWarn_adopt (he : s.entry? mic = some e) (hg : s.warnGate e k = true) : ∃ tx counters placed,
    s.requestWarn mic k .adopt = (if placed = true then
        State.modRecord mic k (Record.announced (e.record k).level (e.record k).acked) { s with tx := tx, counters := counters }
      else { s with tx := tx, counters := counters }) ∧
    tx.length ≤ s.tx.length + 1 ∧
    (s.tx.length < txMax → placed = true ∧ ⟨.warn (composeWarn s.now e k .adopt), 0⟩ ∈ tx ∧
      ∀ g ∈ s.tx, g.frame.warnFor mic k = false → g ∈ tx) := by
  let base := s.removeWhere (Frame.warnFor mic k)
  let w := composeWarn s.now e k .adopt
  have hlen : base.tx.length ≤ s.tx.length := List.length_filter_le ..
  have hrequest : s.requestWarn mic k .adopt = if (base.submit (.warn w)).2 = true then
      (base.submit (.warn w)).1.modRecord mic k (Record.announced w.level w.acked) else (base.submit (.warn w)).1 := by
    simp only [State.requestWarn, he, hg, if_true]
    rfl
  rw [hrequest]
  rcases State.submit_cases (.warn w) base with ⟨-, hs⟩ | ⟨hfull, v, rest, hv, hs⟩ | ⟨hfull, -, hs⟩ <;> rw [hs]
  · refine ⟨_, s.counters, true, rfl, ?_, fun _ => ⟨rfl, by simp [w], fun g hg hk => ?_⟩⟩
    · rw [length_placeTx]; omega
    · exact mem_placeTx.mpr (.inr (List.mem_filter.mpr ⟨hg, by simp [hk]⟩))
  · obtain ⟨hcls, -, pre, post, hq, rfl, -⟩ := victimFor_some hv
    rw [State.discardFrame_of_cls hcls]
    refine ⟨placeTx ⟨.warn w, 0⟩ (pre ++ post), _, true, rfl, ?_, fun h => absurd hfull (by omega)⟩
    rw [length_placeTx]
    have := congrArg List.length hq
    simp only [List.length_append, List.length_cons] at this ⊢
    omega
  · exact ⟨base.tx, _, false, rfl, by omega, fun h => absurd hfull (by omega)⟩

/-- What an adoption makes of the record of `k` of a reported entry `e` of `s`, which is `f` in `t`: blocked or not asked for, it
leaves the chamber fields; with `room` in the queue the chamber is told (R117, R73, R144). -/
structure State.Adopted (s t : State) (e f : Entry) (room : Nat) (k : Kind) : Prop where
  kept : ¬(s.station = .running ∨ s.station = .feedDown) ∨ (e.record k).unadopted = false ∨
    s.holdsBack k (e.record k).level = true →
      (f.record k).chamber = (e.record k).chamber ∧ (f.record k).chamberAcked = (e.record k).chamberAcked
  told : (s.station = .running ∨ s.station = .feedDown) → (e.record k).unadopted = true →
    s.holdsBack k (e.record k).level = false → s.tx.length + room ≤ txMax →
      (f.record k).chamber = .told (e.record k).level ∧ (f.record k).chamberAcked = (e.record k).acked ∧
      ∃ g ∈ t.tx, g.frame = .warn (composeWarn s.now e k .adopt)

/-- The adoption of one record: that record as `State.Adopted` says, the others and their queued frames as they were. -/
theorem State.adopt_spec (he : s.entry? mic = some e) (hr : e.role = .reporter) (k : Kind) :
    ∃ f, (s.adopt mic k).entry? mic = some f ∧ f.untold = e.untold ∧ (∀ j, j ≠ k → f.record j = e.record j) ∧
      s.Adopted (s.adopt mic k) e f 1 k ∧ (s.adopt mic k).tx.length ≤ s.tx.length + 1 ∧
      (s.tx.length < txMax → ∀ g ∈ s.tx, g.frame.warnFor mic k = false → g ∈ (s.adopt mic k).tx) := by
  have hadopt : s.adopt mic k = if (e.record k).unadopted = true then s.announce mic k .adopt else s := by
    simp only [State.adopt, he, Record.wantsAdopt_eq]
  rw [hadopt]
  have treated : ∀ (u : State) (x : Entry), u.entry? mic = some x → x.untold = e.untold →
      (∀ j, j ≠ k → x.record j = e.record j) → ∃ f, (u.modEntry mic fun y =>
        y.setRecord k ((y.record k).treatRepeat y.role (s.now + s.params.repeatMs))).entry? mic = some f ∧
        f.untold = e.untold ∧ (∀ j, j ≠ k → f.record j = e.record j) ∧ (f.record k).chamber = (x.record k).chamber ∧
        (f.record k).chamberAcked = (x.record k).chamberAcked := by
    intro u x hx hxe hother
    refine ⟨_, State.modEntry_found hx _ fun y => by simp, ?_, fun j hj => ?_, ?_, ?_⟩
    · exact (Entry.untold_setRecord_told (k := k) (e := x)
        (r := (x.record k).treatRepeat x.role (s.now + s.params.repeatMs)) rfl).trans hxe
    · rw [Entry.record_checked, Entry.record_setRecord_other _ _ _ _ hj, hother j hj]
    · rw [Entry.record_checked, Entry.record_setRecord_same]; rfl
    · rw [Entry.record_checked, Entry.record_setRecord_same]; rfl
  split
  · rename_i hun
    by_cases hg : s.warnGate e k = true
    · obtain ⟨hsends, hheld⟩ := (State.warnGate_reporter hr).mp hg
      obtain ⟨tx, counters, placed, hreq, hlen, hroom⟩ := State.requestWarn_adopt he hg
      have htable : (State.entry? { s with tx := tx, counters := counters } mic) = some e := he
      cases placed with
      | true =>
        rw [if_pos rfl] at hreq
        obtain ⟨f, hf, hfe, hother, hch, hack⟩ := treated (s.requestWarn mic k .adopt)
          { e.setRecord k ((e.record k).announced (e.record k).level (e.record k).acked) with checkGood := true }
          (by rw [hreq]; exact State.modEntry_found htable _ fun y => by simp) (Entry.untold_setRecord_told rfl)
          (fun j hj => by rw [Entry.record_checked, Entry.record_setRecord_other _ _ _ _ hj])
        rw [Entry.record_checked, Entry.record_setRecord_same] at hch hack
        refine ⟨f, hf, hfe, hother, ⟨fun h => ?_, fun _ _ _ hl =>
          ⟨hch, hack, ⟨.warn (composeWarn s.now e k .adopt), 0⟩, ?_, rfl⟩⟩, ?_, fun hl g hg hk => ?_⟩
        · rcases h with h | h | h
          · exact absurd hsends h
          · exact absurd hun (by simp [h])
          · exact absurd hheld (by simp [h])
        · rw [State.announce, State.modEntry_tx, hreq]
          exact (hroom hl).2.1
        · rw [State.announce, State.modEntry_tx, hreq]
          exact hlen
        · rw [State.announce, State.modEntry_tx, hreq]
          exact (hroom hl).2.2 g hg hk
      | false =>
        rw [if_neg (by simp)] at hreq
        obtain ⟨f, hf, hfe, hother, hch, hack⟩ := treated (s.requestWarn mic k .adopt) e (by rw [hreq]; exact he) rfl
          (fun _ _ => rfl)
        refine ⟨f, hf, hfe, hother, ⟨fun _ => ⟨hch, hack⟩, fun _ _ _ hl => absurd (hroom hl).1 (by simp)⟩, ?_,
          fun hl => absurd (hroom hl).1 (by simp)⟩
        rw [State.announce, State.modEntry_tx, hreq]
        exact hlen
    · have hreq : s.requestWarn mic k .adopt = s := by simp only [State.requestWarn, he, if_neg hg]
      obtain ⟨f, hf, hfe, hother, hch, hack⟩ := treated (s.requestWarn mic k .adopt) e (by rw [hreq]; exact he) rfl
        (fun _ _ => rfl)
      have htx : (s.announce mic k .adopt).tx = s.tx := by rw [State.announce, State.modEntry_tx, hreq]
      refine ⟨f, hf, hfe, hother, ⟨fun _ => ⟨hch, hack⟩, fun hsends _ hheld _ => ?_⟩, by rw [htx]; omega,
        fun _ g hg _ => by rwa [htx]⟩
      exact absurd ((State.warnGate_reporter hr).mpr ⟨hsends, hheld⟩) hg
  · rename_i hun
    exact ⟨e, he, rfl, fun _ _ => rfl, ⟨fun _ => ⟨rfl, rfl⟩, fun _ h => absurd h hun⟩, by omega, fun _ g hg _ => hg⟩

/-- The adoption of several records in turn: each is told as if it were the only one, with room for all. -/
theorem State.adoptEach_spec (ks : List Kind) (hn : ks.Nodup) (he : s.entry? mic = some e) (hr : e.role = .reporter) :
    ∃ f, (ks.foldl (fun u k => u.adopt mic k) s).entry? mic = some f ∧ f.untold = e.untold ∧
      (∀ j, j ∉ ks → f.record j = e.record j) ∧
      (∀ k ∈ ks, s.Adopted (ks.foldl (fun u k => u.adopt mic k) s) e f ks.length k) ∧
      (s.tx.length + ks.length ≤ txMax → ∀ g ∈ s.tx, (∀ k ∈ ks, g.frame.warnFor mic k = false) →
        g ∈ (ks.foldl (fun u k => u.adopt mic k) s).tx) := by
  induction ks generalizing s e with
  | nil => exact ⟨e, he, rfl, fun _ _ => rfl, by simp, fun _ g hg _ => hg⟩
  | cons k rest ih =>
    obtain ⟨hk, hrest⟩ := List.nodup_cons.mp hn
    obtain ⟨x, hx, hxe, hxother, hxk, hxlen, hxtx⟩ := State.adopt_spec he hr k
    have hxr : x.role = .reporter := (Entry.role_of_untold hxe).trans hr
    obtain ⟨f, hf, hfx, hfother, hfrest, hftx⟩ := ih hrest hx hxr
    obtain ⟨hnow, hst, -⟩ := (State.adopt_told mic k s).keep
    have hzone := ((State.onlyQueues.refl s).adopt mic k).keep.1
    have hheld : ∀ j l, (s.adopt mic k).holdsBack j l = s.holdsBack j l := fun j l => by simp only [State.holdsBack, hzone]
    refine ⟨f, hf, hfx.trans hxe, fun j hj => ?_, fun j hj => ?_, fun hlen g hg hkeep => ?_⟩
    · rw [hfother j fun h => hj (by simp [h]), hxother j fun h => hj (by simp [h])]
    · rcases List.mem_cons.mp hj with rfl | hj
      · have hsame := hfother j hk
        refine ⟨fun h => by rw [hsame]; exact hxk.kept h, fun h1 h2 h3 hlen => ?_⟩
        simp only [List.length_cons] at hlen
        obtain ⟨hc, ha, g, hg, hgf⟩ := hxk.told h1 h2 h3 (by omega)
        refine ⟨by rw [hsame]; exact hc, by rw [hsame]; exact ha, g, hftx (by omega) g hg fun i hi => ?_, hgf⟩
        have hmic : e.mic = mic := (State.entry?_some he).2
        have hne : j ≠ i := fun h => hk (h ▸ hi)
        simp [hgf, Frame.warnFor, composeWarn, hne]
      · have hne : j ≠ k := fun h => hk (h ▸ hj)
        have hsame := hxother j hne
        have h := hfrest j hj
        refine ⟨fun hb => ?_, fun h1 h2 h3 hlen => ?_⟩
        · have := h.kept (by rwa [hst, hsame, hheld])
          rwa [hsame] at this
        · simp only [List.length_cons] at hlen
          have := h.told (by rwa [hst]) (by rwa [hsame]) (by rwa [hsame, hheld]) (by omega)
          rwa [hsame, hnow, composeWarn_congr hxe] at this
    · simp only [List.length_cons] at hlen
      exact hftx (by omega) g (hxtx (by omega) g hg (hkeep k (by simp))) fun j hj => hkeep j (by simp [hj])

/-! ## Discards of every WARN of a microphone (R74) -/

theorem Record.forgotten_of_unknown {r : Record} (h : r.chamber = .unknown ∧ r.chamberAcked = false) : r.forgotten = r := by
  obtain ⟨hc, ha⟩ := h
  cases r
  simp_all [Record.forgotten]

theorem State.forgetChamber_found (he : s.entry? mic = some e) (k : Kind) :
    ∃ f, (s.forgetChamber mic k).entry? mic = some f ∧
      ∀ j, f.record j = if j = k then (e.record j).forgotten else e.record j := by
  refine ⟨if (e.record k).chamber = .unknown ∧ (e.record k).chamberAcked = false then e
    else { e.setRecord k (e.record k).forgotten with checkGood := true }, ?_, fun j => ?_⟩
  · rw [State.forgetChamber, State.entry?_mapEntry _ _ _ _ (fun x => by split <;> simp), he]
    simp
  · split
    · split
      · subst j
        exact (Record.forgotten_of_unknown ‹_›).symm
      · rfl
    · rw [Entry.record_checked]
      split
      · subst j
        exact Entry.record_setRecord_same ..
      · exact Entry.record_setRecord_other _ _ _ _ ‹_›

/-- Every WARN of a microphone discarded: the records whose WARN was queued forget, the others stay. -/
theorem State.discardWhere_warnOf (he : s.entry? mic = some e) :
    ∃ f, (s.discardWhere (Frame.warnOf mic)).entry? mic = some f ∧
      ∀ k, f.record k = if ∃ g ∈ s.tx, g.frame.warnFor mic k = true then (e.record k).forgotten else e.record k := by
  suffices ∀ (gone : List TxFrame) (u : State) (e : Entry), u.entry? mic = some e →
      (∀ g ∈ u.tx, g.frame.warnOf mic = false) → (∀ g ∈ gone, g.frame.warnOf mic = true) →
      ∃ f, (gone.foldl (fun u t => u.discardFrame t.frame) u).entry? mic = some f ∧
        ∀ k, f.record k = if ∃ g ∈ gone, g.frame.warnFor mic k = true then (e.record k).forgotten else e.record k by
    obtain ⟨f, hf, hk⟩ := this (s.tx.filter fun t => Frame.warnOf mic t.frame)
      { s with tx := s.tx.filter fun t => !Frame.warnOf mic t.frame } e he (fun g hg => by simpa using List.of_mem_filter hg)
      (fun g hg => by simpa using List.of_mem_filter hg)
    refine ⟨f, hf, fun k => (hk k).trans ?_⟩
    have hiff : (∃ g ∈ s.tx.filter fun t => Frame.warnOf mic t.frame, g.frame.warnFor mic k = true) ↔
        ∃ g ∈ s.tx, g.frame.warnFor mic k = true :=
      ⟨fun ⟨g, hg, h⟩ => ⟨g, List.mem_of_mem_filter hg, h⟩, fun ⟨g, hg, h⟩ => ⟨g, List.mem_filter.mpr ⟨hg, Frame.warnOf_of_warnFor h⟩, h⟩⟩
    simp only [hiff]
  intro gone
  induction gone with
  | nil => exact fun u e he _ _ => ⟨e, he, fun k => by simp⟩
  | cons g rest ih =>
    intro u e he htx hgone
    obtain ⟨w, hw, hm⟩ : ∃ w, g.frame = .warn w ∧ w.mic = mic := by
      have := hgone g (by simp)
      unfold Frame.warnOf at this
      split at this
      · exact ⟨_, ‹_›, by simpa using this⟩
      · cases this
    have hnone : (u.tx.any fun t => t.frame.warnFor w.mic w.kind) = false :=
      List.any_eq_false.mpr fun t ht h =>
        absurd (Frame.warnOf_of_warnFor (hm ▸ h)) (by simp [htx t ht])
    have hdiscard : u.discardFrame g.frame = u.forgetChamber mic w.kind := by
      rw [hw, ← hm]
      simp only [State.discardFrame, hnone, if_false, Bool.false_eq_true]
    obtain ⟨x, hx, hxk⟩ := State.forgetChamber_found he w.kind
    obtain ⟨f, hf, hfk⟩ := ih (u.forgetChamber mic w.kind) x hx htx fun t ht => hgone t (by simp [ht])
    refine ⟨f, by rw [List.foldl_cons, hdiscard]; exact hf, fun k => ?_⟩
    have hg : g.frame.warnFor mic k = true ↔ k = w.kind := by simp [hw, Frame.warnFor, hm, eq_comm]
    rw [hfk k, hxk k]
    by_cases hk : k = w.kind
    · have : ∃ t ∈ g :: rest, t.frame.warnFor mic k = true := ⟨g, by simp, hg.mpr hk⟩
      rw [if_pos hk, if_pos this]
      exact ite_self _
    · have hiff : (∃ t ∈ g :: rest, t.frame.warnFor mic k = true) ↔ ∃ t ∈ rest, t.frame.warnFor mic k = true := by
        simp [hg, hk]
      simp only [if_neg hk, hiff]

/-! ## Tellings -/

/-- What the chamber was told of a record, with its repeat timer. -/
def Record.telling (r : Record) : Chamber × Bool × Timer := (r.chamber, r.chamberAcked, r.repeatTimer)

/-- What becoming FOLLOWER leaves of the telling of a record: from REPORTER the repeat timer stops, and with its WARN queued the
record forgets (R118, R74). -/
def State.followerTelling (s : State) (e : Entry) (k : Kind) : Chamber × Bool × Timer :=
  if e.role = .reporter then
    if ∃ g ∈ s.tx, g.frame.warnFor e.mic k = true then (.unknown, false, .stopped)
    else ((e.record k).chamber, (e.record k).chamberAcked, .stopped)
  else (e.record k).telling

/-- A cue selection leaves the records and the transmit queue. -/
theorem State.selectCue_found (he : s.entry? mic = some e) :
    ∃ f, (s.selectCue mic).entry? mic = some f ∧ ∀ k, f.record k = e.record k := by
  have offer : ∀ (c : Cue) (u : State), (u.offerCue c).entry? mic = u.entry? mic := fun c u => by
    unfold State.offerCue
    split <;> rfl
  simp only [State.selectCue, he]
  split
  · split
    · exact ⟨e, he, fun _ => rfl⟩
    · rw [offer]
      exact ⟨_, State.modEntry_found he _ fun _ => rfl, fun k => by cases k <;> rfl⟩
  · exact ⟨_, State.modEntry_found he _ fun _ => rfl, fun k => by cases k <;> rfl⟩

@[simp] theorem State.selectCue_tx (mic : Nat) (s : State) : (s.selectCue mic).tx = s.tx := by
  have offer : ∀ (c : Cue) (u : State), (u.offerCue c).tx = u.tx := fun c u => by
    unfold State.offerCue
    split <;> rfl
  unfold State.selectCue
  split
  · rfl
  · split
    · split
      · rfl
      · exact offer _ _
    · rfl

/-- The role kept: the records' tellings stay. -/
theorem State.tellings_kept {t : State}
    (h : ∀ f, t.entry? e.mic = some f → ∀ k, (f.record k).telling = (e.record k).telling) (room : Nat := 3) :
    s.tellings t e e.role room := by
  intro f k hf r r' kept sends
  obtain ⟨hc, ha, hr⟩ : r'.chamber = r.chamber ∧ r'.chamberAcked = r.chamberAcked ∧ r'.repeatTimer = r.repeatTimer := by
    simpa [Record.telling] using h f hf k
  exact ⟨fun _ => ⟨⟨hc, ha⟩, hr⟩, fun h1 h2 => absurd h1 h2, fun h1 h2 => absurd h2 h1⟩

/-- A role other than REPORTER: the records' tellings are as becoming FOLLOWER leaves them. -/
theorem State.tellings_follower {t : State} {role : Role} (hrole : role ≠ .reporter)
    (h : ∀ f, t.entry? e.mic = some f → ∀ k, (f.record k).telling = s.followerTelling e k) (room : Nat := 3) :
    s.tellings t e role room := by
  intro f k hf r r' kept sends
  have hk : r'.telling = s.followerTelling e k := h f hf k
  by_cases he : e.role = .reporter
  · rw [State.followerTelling, if_pos he] at hk
    refine ⟨fun h => ?_, fun _ _ => ?_, fun h => absurd he h⟩
    · rcases h with h | ⟨h, -⟩
      · exact absurd (h.symm.trans he) hrole
      · exact absurd he h
    · split at hk
      · obtain ⟨hc, ha, hr⟩ : r'.chamber = .unknown ∧ r'.chamberAcked = false ∧ r'.repeatTimer = .stopped := by
          simpa [Record.telling] using hk
        refine ⟨hr, fun _ => ⟨hc, ha⟩, fun hnone => ?_⟩
        obtain ⟨g, hg, hw⟩ := ‹∃ g ∈ s.tx, g.frame.warnFor e.mic k = true›
        simp [hnone g hg] at hw
      · obtain ⟨hc, ha, hr⟩ : r'.chamber = r.chamber ∧ r'.chamberAcked = r.chamberAcked ∧ r'.repeatTimer = .stopped := by
          simpa [Record.telling] using hk
        exact ⟨hr, fun hsome => absurd hsome ‹_›, fun _ => ⟨hc, ha⟩⟩
  · rw [State.followerTelling, if_neg he] at hk
    obtain ⟨hc, ha, hr⟩ : r'.chamber = r.chamber ∧ r'.chamberAcked = r.chamberAcked ∧ r'.repeatTimer = r.repeatTimer := by
      simpa [Record.telling] using hk
    exact ⟨fun _ => ⟨⟨hc, ha⟩, hr⟩, fun h => absurd h he, fun _ h => absurd h hrole⟩

/-- Tellings hold of a later state in which the entry's records are told the same, and for a reporter the same frames queued. -/
theorem State.tellings_later {t u : State} {role : Role} {room : Nat} (h : s.tellings t e role room)
    (hu : ∀ f, u.entry? e.mic = some f → ∃ x, t.entry? e.mic = some x ∧ ∀ k, (f.record k).telling = (x.record k).telling)
    (htx : role = .reporter → u.tx = t.tx) : s.tellings u e role room := by
  intro f k hf
  obtain ⟨x, hx, hfx⟩ := hu f hf
  obtain ⟨hkept, hlost, hgained⟩ := h x k hx
  obtain ⟨hc, ha, hr⟩ : (f.record k).chamber = (x.record k).chamber ∧ (f.record k).chamberAcked = (x.record k).chamberAcked ∧
      (f.record k).repeatTimer = (x.record k).repeatTimer := by simpa [Record.telling] using hfx k
  rw [← hc, ← ha, ← hr] at hkept hlost hgained
  refine ⟨hkept, hlost, fun h1 h2 => ?_⟩
  rw [htx h2]
  exact hgained h1 h2

/-- Tellings speak of the earlier state only by its queue, its time, its station state and its zone. -/
theorem State.tellings_earlier {s' t : State} {role : Role} {room : Nat} (h : s'.tellings t e role room)
    (hs : (s'.tx, s'.now, s'.station, s'.zone, s'.params.repeatInterval) = (s.tx, s.now, s.station, s.zone, s.params.repeatInterval)) :
    s.tellings t e role room := by
  simp only [Prod.mk.injEq] at hs
  obtain ⟨htx, hnow, hst, hzone, hrep⟩ := hs
  intro f k hf
  have := h f k hf
  simp only [State.holdsBack, htx, hnow, hst, hzone, hrep] at this ⊢
  exact this

theorem Entry.treatRepeats_record (due : Nat) (e : Entry) (k : Kind) :
    (e.treatRepeats due).record k = (e.record k).treatRepeat e.role due := by cases k <;> rfl

theorem Entry.stopRepeats_record (e : Entry) (k : Kind) :
    e.stopRepeats.record k = { e.record k with repeatTimer := .stopped } := by cases k <;> rfl

/-- A gain of the role (R117, R76). -/
theorem State.gainReporter_tellings (he : s.entry? mic = some e) (hr : e.role ≠ .reporter) :
    s.tellings (s.gainReporter mic) e .reporter := by
  let gained := s.modEntry mic fun e => { e with role := .reporter, takeover := .stopped }
  let e₁ : Entry := { e with role := .reporter, takeover := .stopped, checkGood := true }
  have he₁ : gained.entry? mic = some e₁ := State.modEntry_found he _ fun _ => rfl
  have hrec : ∀ k, e₁.record k = e.record k := fun k => by cases k <;> rfl
  have hwarn : ∀ k, composeWarn s.now e₁ k .adopt = composeWarn s.now e k .adopt := fun k => by cases k <;> rfl
  obtain ⟨f, hf, hfe, -, hadopted, -⟩ := State.adoptEach_spec [.battery, .mute, .signal] (by decide) he₁ rfl
  let due := s.now + s.params.repeatMs
  obtain ⟨x, hx, hxk⟩ := State.selectCue_found (State.modEntry_found hf (Entry.treatRepeats due) fun _ => rfl)
  have hmic := (State.entry?_some he).2
  intro y k hy r r' kept sends
  obtain rfl : x = y := by
    rw [hmic] at hy
    exact Option.some.inj (hx.symm.trans hy)
  have hk : k ∈ ([.battery, .mute, .signal] : List Kind) := by cases k <;> decide
  have hspec := hadopted k hk
  have hrole : f.role = .reporter := Entry.role_of_untold hfe
  have hr' : r' = (f.record k).treatRepeat .reporter due := by
    rw [← hrole]
    exact (hxk k).trans ((Entry.record_checked ..).trans (Entry.treatRepeats_record ..))
  have hsame : (f.record k).untold = (e.record k).untold := by
    rw [← Entry.untold_record, hfe, Entry.untold_record, hrec]
  have hlevel : (f.record k).level = r.level := congrArg (fun r => r.level) hsame
  have hacked : (f.record k).acked = r.acked := congrArg (fun r => r.acked) hsame
  refine ⟨fun h => ?_, fun h => absurd h hr, fun _ _ => ⟨?_, fun h => ?_, fun h1 h2 h3 h4 => ?_⟩⟩
  · rcases h with h | ⟨-, h⟩
    · exact absurd h hr
    · exact absurd rfl h
  · have hdue : due = s.now + s.params.repeatInterval * 1000 := rfl
    rw [hr', ← hdue]
    simp only [Record.treatRepeat, Record.repeats, hlevel, hacked]
    by_cases hn : r.level = .none <;> cases r.acked <;> simp [hn]
  · have := hspec.kept (by rw [hrec]; exact h)
    rw [hrec] at this
    show r'.chamber = r.chamber ∧ r'.chamberAcked = r.chamberAcked
    rw [hr']
    exact this
  · obtain ⟨hc, ha, g, hg, hgw⟩ := hspec.told h1 (by rw [hrec]; exact h2) (by rw [hrec]; exact h3) h4
    rw [hrec] at hc ha
    rw [hr']
    refine ⟨hc, ha, g, ?_, hgw.trans (congrArg _ (hwarn k))⟩
    rw [State.gainReporter, State.selectCue_tx]
    exact hg

/-- A loss of the role (R118, R74). -/
theorem State.loseReporter_found (he : s.entry? mic = some e) (hr : e.role = .reporter) :
    ∃ f, (s.loseReporter mic).entry? mic = some f ∧ ∀ k, (f.record k).telling = s.followerTelling e k := by
  have he₁ := State.modEntry_found he (fun e => { e with role := .follower }) fun _ => rfl
  obtain ⟨f, hf, hfk⟩ := State.discardWhere_warnOf he₁
  obtain ⟨x, hx, hxk⟩ := State.selectCue_found (State.modEntry_found hf Entry.stopRepeats fun _ => rfl)
  refine ⟨x, hx, fun k => ?_⟩
  have hrec : ({ e with role := .follower, checkGood := true } : Entry).record k = e.record k := by cases k <;> rfl
  have hxr : x.record k = { f.record k with repeatTimer := .stopped } :=
    (hxk k).trans ((Entry.record_checked ..).trans (Entry.stopRepeats_record ..))
  rw [hxr, hfk k, hrec, State.followerTelling, if_pos hr, (State.entry?_some he).2]
  split
  · rw [if_pos (by assumption)]; rfl
  · rw [if_neg (by assumption)]; rfl

/-- The entry made FOLLOWER (R118). -/
theorem State.makeFollower_found (he : s.entry? mic = some e) :
    ∃ f, (s.makeFollower mic).entry? mic = some f ∧ ∀ k, (f.record k).telling = s.followerTelling e k := by
  simp only [State.makeFollower, he]
  split
  · exact State.loseReporter_found he ‹_›
  · refine ⟨_, State.modEntry_found he (fun e => { e with role := .follower }) fun _ => rfl, fun k => ?_⟩
    rw [State.followerTelling, if_neg ‹_›]
    cases k <;> rfl

theorem State.makeFollower_tellings (he : s.entry? mic = some e) : s.tellings (s.makeFollower mic) e .follower :=
  State.tellings_follower (by decide) fun f hf k => by
    obtain ⟨x, hx, hxk⟩ := State.makeFollower_found he
    obtain rfl : x = f := Option.some.inj (hx.symm.trans ((State.entry?_some he).2 ▸ hf))
    exact hxk k

/-- What a state already tells of its own entry. -/
theorem State.tellings_refl (he : s.entry? e.mic = some e) : s.tellings s e e.role :=
  State.tellings_kept fun f hf k => by rw [Option.some.inj (he.symm.trans hf)]

/-- A role decision (R113, R117, R118). -/
theorem State.decideRole_tellings (he : s.entry? mic = some e) (own : Nat) :
    s.tellings (s.decideRole mic own) e (s.roleDecided own e).role := by
  have hmic := (State.entry?_some he).2
  simp only [State.decideRole, he, State.roleDecided]
  split
  · split
    · rename_i hr
      exact State.tellings_refl (hmic ▸ he)
    · rw [State.recued_role]
      exact State.gainReporter_tellings he ‹_›
  · have := State.makeFollower_tellings he
    split <;> simpa using this

/-- A role computation (R113, R117, R118). -/
theorem State.computeRole_tellings (he : s.entry? mic = some e) :
    s.tellings (s.computeRole mic) e (s.roleComputed e).role := by
  simp only [State.computeRole, he, State.roleComputed]
  split
  · exact State.decideRole_tellings he _
  · exact State.tellings_refl ((State.entry?_some he).2 ▸ he)

end

end Sys2Proof.Machine
end

section
/-! What an update of the lost count can do (R97, R98, R101), what it leaves of an entry that takes no part, and the expiries of the
presence timers (R24, R27, R28, R34). -/

namespace Sys2Proof.Machine

/-! ## Exact changes of one entry -/

theorem Entry.checked_eq {e : Entry} (h : e.checkGood = true) : ({ e with checkGood := true } : Entry) = e := by
  cases e
  simp_all

section
variable {s : State} {mic : Nat} {e : Entry}

/-- In a sound table a change that keeps the check word is the bare change. -/
theorem State.modEntry_sound (hs : SoundLaw s) {f : Entry → Entry} (hf : ∀ x, (f x).checkGood = x.checkGood) :
    s.modEntry mic f = { s with table := s.table.map fun x => if x.mic = mic then f x else x } := by
  unfold State.modEntry State.mapEntry
  congr 1
  refine List.map_congr_left fun x hx => ?_
  split
  · exact Entry.checked_eq ((hf x).trans (hs x hx))
  · rfl

/-- In a lawful table a change of one entry is what it makes of that entry. -/
theorem State.modEntry_unique (hT : TableLaw s) (he : s.entry? mic = some e) {f g : Entry → Entry}
    (h : ({ f e with checkGood := true } : Entry) = { g e with checkGood := true }) : s.modEntry mic f = s.modEntry mic g := by
  obtain ⟨hmem, hmic⟩ := State.entry?_some he
  unfold State.modEntry State.mapEntry
  congr 1
  refine List.map_congr_left fun x hx => ?_
  split
  · rename_i hm
    rw [hT.unique hx hmem (hm.trans hmic.symm)]
    exact h
  · rfl

/-- The entry put in the place of the one that is there is found. -/
theorem State.modEntry_const_found (he : s.entry? mic = some e) {x : Entry} (hx : x.mic = mic) :
    (s.modEntry mic fun _ => x).entry? mic = some { x with checkGood := true } := by
  have hconst : (s.modEntry mic fun _ => x) = s.modEntry mic fun y => if y.mic = mic then x else y := by
    unfold State.modEntry State.mapEntry
    congr 1
    refine List.map_congr_left fun y _ => ?_
    by_cases hy : y.mic = mic <;> simp [hy]
  have hmic : ∀ y : Entry, (if y.mic = mic then x else y).mic = y.mic := fun y => by
    split
    · exact hx.trans (Eq.symm ‹_›)
    · rfl
  rw [hconst, State.modEntry_found he _ hmic, if_pos (State.entry?_some he).2]

theorem State.modEntry_modEntry (s : State) (mic : Nat) {f : Entry → Entry} (hf : ∀ x, (f x).mic = x.mic) (g : Entry → Entry) :
    (s.modEntry mic f).modEntry mic g = s.modEntry mic fun x => g { f x with checkGood := true } := by
  simp only [State.modEntry, State.mapEntry, List.map_map]
  congr 1
  refine List.map_congr_left fun x _ => ?_
  by_cases hx : x.mic = mic <;> simp [hx, hf]

/-- The three inputs given to an entry step its records as the statements say (R58). -/
theorem State.giveInputs_eq (hT : TableLaw s) (he : s.entry? mic = some e) :
    s.giveInputs mic = s.modEntry mic fun _ => s.stepped e := by
  have hmic : ∀ (k : Kind) (f : Record → Record) (x : Entry), (x.setRecord k (f (x.record k))).mic = x.mic := fun k f x => by simp
  have he₁ := State.modEntry_found he _ (hmic .battery (Record.step s.params s.now .battery (s.input .battery e)))
  have he₂ := State.modEntry_found he₁ _ (hmic .mute (Record.step s.params s.now .mute (s.input .mute e)))
  have hm : ∀ x : Entry, (s.stepped x).mic = x.mic := fun _ => rfl
  have h₁ : s.giveInput mic .battery = s.modRecord mic .battery (Record.step s.params s.now .battery (s.input .battery e)) := by
    simp only [State.giveInput, he]
  have h₂ : (s.giveInput mic .battery).giveInput mic .mute =
      (s.giveInput mic .battery).modRecord mic .mute (Record.step s.params s.now .mute (s.input .mute e)) := by
    rw [h₁]
    simp only [State.giveInput, State.modRecord, he₁]
    rfl
  have h₃ : ((s.giveInput mic .battery).giveInput mic .mute).giveInput mic .signal =
      ((s.giveInput mic .battery).giveInput mic .mute).modRecord mic .signal
        (Record.step s.params s.now .signal (s.input .signal e)) := by
    rw [h₂, h₁]
    simp only [State.giveInput, State.modRecord, he₂]
    rfl
  have hall : s.giveInputs mic = s.modEntry mic fun x => ((x.setRecord .battery
      (Record.step s.params s.now .battery (s.input .battery e) x.recBattery)).setRecord .mute
      (Record.step s.params s.now .mute (s.input .mute e) x.recMute)).setRecord .signal
      (Record.step s.params s.now .signal (s.input .signal e) x.recSignal) := by
    rw [State.giveInputs, h₃, h₂, h₁]
    simp only [State.modRecord]
    rw [State.modEntry_modEntry _ _ (hmic .battery _), State.modEntry_modEntry _ _ fun x => by simp]
    rfl
  rw [hall]
  exact State.modEntry_unique hT he rfl

end

/-! ## The lost count (R97) -/

/-- Hand-offs leave the number of entries that count. -/
theorem lostOf_view {l m : List Entry} (h : l.map Entry.untold = m.map Entry.untold) : lostOf l = lostOf m := by
  have hview : ∀ x : List Entry, lostOf x = lostOf (x.map Entry.untold) := fun x => by
    simp only [lostOf, List.countP_map]
    rfl
  rw [hview l, hview m, h]

theorem State.Told.lostOf {s t : State} (h : s.Told t) : lostOf t.table = lostOf s.table := lostOf_view h.view

section
variable {s : State} {fx : Nat → State → State}

theorem State.zoneEnter_lostCount (cause : ZoneCause) (s : State) : (s.zoneEnter cause).lostCount = s.lostCount := by
  simp only [State.zoneEnter, State.zoneHandOff, State.evaluateAttn_lostCount, State.selectLamp_lostCount]
  rw [State.requestStation_eq, State.discardWhere_eq]

/-- A sweep of announcements over a sound table leaves all but the table, the two queues and the counters. -/
theorem State.reannounceSweep_onlyQueues (hs : SoundLaw s) : s.onlyQueues (s.sweep fx State.reannounce) := by
  refine (State.sweep_keeps (P := fun u => s.onlyQueues u ∧ SoundLaw u) (fun mic u e he hc hu => ?_)
    (fun mic u _ _ _ hu => ⟨?_, (State.reannounce_told mic u).sound hu.2⟩) ⟨.refl s, hs⟩).1
  · have := hu.2 e (State.entry?_some he).1
    simp [hc] at this
  · unfold State.reannounce
    split
    · exact hu.1
    · split
      · exact hu.1.announce ..
      · exact hu.1

/-- The zone's end leaves the zone not in force and the lost count (R101). -/
theorem State.zoneEnd_spec (hs : SoundLaw s) :
    (s.zoneEnd fx).zone = .notInForce ∧ (s.zoneEnd fx).lostCount = s.lostCount := by
  unfold State.zoneEnd
  extract_lets ended
  have hended : ended.zone = .notInForce ∧ ended.lostCount = s.lostCount := by
    simp only [ended]
    rw [State.requestStation_eq]
    exact ⟨rfl, rfl⟩
  have hsound : SoundLaw ended := (State.requestStation_told false { s with zone := .notInForce, zoneRepeat := .stopped }).sound hs
  obtain ⟨hzone, hcount, -⟩ := (State.reannounceSweep_onlyQueues (fx := fx) hsound).keep
  simp only [State.zoneHandOff, State.evaluateAttn_zone, State.selectLamp_zone, State.evaluateAttn_lostCount,
    State.selectLamp_lostCount, hzone, hcount]
  exact hended

/-- What an update of the lost count can do: the count alone, or the zone comes into force or ends with it (R97, R98, R101). -/
theorem State.updateLost_cases (fx : Nat → State → State) (s : State) :
    s.updateLost fx = { s with lostCount := lostOf s.table } ∨
    (s.zone = .notInForce ∧ s.updateLost fx = ({ s with lostCount := lostOf s.table }).zoneEnter .count) ∨
    (s.zone = .inForce .count ∧ s.updateLost fx = ({ s with lostCount := lostOf s.table }).zoneEnd fx) := by
  unfold State.updateLost
  dsimp only
  split
  · exact .inr (.inl ⟨And.left ‹_›, rfl⟩)
  · split
    · exact .inr (.inr ⟨And.left ‹_›, rfl⟩)
    · exact .inl rfl

/-- Where the zone state does not move, an update sets the lost count and nothing else. -/
theorem State.updateLost_still (hs : SoundLaw s) (h : (s.updateLost fx).zone = s.zone) :
    s.updateLost fx = { s with lostCount := lostOf s.table } := by
  rcases State.updateLost_cases fx s with hu | ⟨hz, hu⟩ | ⟨hz, hu⟩
  · exact hu
  · rw [hu, (State.zoneEnter_spec _ _).1, hz] at h
    cases h
  · rw [hu, (State.zoneEnd_spec (s := { s with lostCount := lostOf s.table }) hs).1, hz] at h
    cases h

/-- An update sets the lost count to the number of entries that count (R97). -/
theorem State.updateLost_lostCount (hs : SoundLaw s) :
    (s.updateLost fx).lostCount = Machine.lostOf (s.updateLost fx).table := by
  rw [(State.updateLost_told fx hs).lostOf]
  rcases State.updateLost_cases fx s with hu | ⟨-, hu⟩ | ⟨-, hu⟩ <;> rw [hu]
  · exact State.zoneEnter_lostCount ..
  · exact (State.zoneEnd_spec (s := { s with lostCount := Machine.lostOf s.table }) hs).2

end

/-! ## Entries that take no part -/

/-- The microphone `mic`, whose entry is `o` if it has one, takes no part in what others bring about: it is not reported, and it has
no WARN queued whose discard would change it. -/
structure State.Aloof (mic : Nat) (o : Option Entry) (s : State) : Prop where
  entry : s.entry? mic = o
  role : ∀ e, o = some e → e.role ≠ .reporter
  queued : ∀ g ∈ s.tx, ∀ k, g.frame.warnFor mic k = true → ∃ e, o = some e ∧ e.forgets k = e

namespace State.Aloof

variable {mic : Nat} {o : Option Entry} {s t : State}

theorem frame (h : s.Aloof mic o) (ht : (t.table, t.tx) = (s.table, s.tx)) : t.Aloof mic o := by
  obtain ⟨htable, htx⟩ : t.table = s.table ∧ t.tx = s.tx := by simpa using ht
  refine ⟨?_, h.role, htx ▸ h.queued⟩
  rw [State.entry?, htable]
  exact h.entry

theorem withTx (h : s.Aloof mic o) {q : List TxFrame} (hq : ∀ g ∈ q, g ∈ s.tx ∨ ∀ k, g.frame.warnFor mic k = false) :
    State.Aloof mic o { s with tx := q } := by
  refine ⟨h.entry, h.role, fun g hg k hk => ?_⟩
  rcases hq g hg with hg | hn
  · exact h.queued g hg k hk
  · simp [hn k] at hk

theorem modEntry (h : s.Aloof mic o) {m : Nat} (hm : m ≠ mic) {f : Entry → Entry} (hf : ∀ e, (f e).mic = e.mic) :
    (s.modEntry m f).Aloof mic o := by
  refine ⟨?_, h.role, h.queued⟩
  rw [State.entry?_modEntry _ _ _ _ hf, h.entry]
  cases o <;> simp [hm.symm]

/-- A discard of a frame that may be queued. -/
theorem discardFrame (h : s.Aloof mic o) {f : Frame} (hf : ∀ k, f.warnFor mic k = true → ∃ e, o = some e ∧ e.forgets k = e) :
    (s.discardFrame f).Aloof mic o := by
  rcases State.discardFrame_cases f s with hd | ⟨w, hw, hd⟩ <;> rw [hd]
  · exact h
  · have hmap : s.forgetChamber w.mic w.kind = s.mapEntry w.mic (Entry.forgets w.kind) := rfl
    have hmic : ∀ x : Entry, (x.forgets w.kind).mic = x.mic := fun x => by
      unfold Entry.forgets
      split
      · rfl
      · simp
    refine ⟨?_, h.role, h.queued⟩
    rw [hmap, State.entry?_mapEntry _ _ _ _ hmic, h.entry]
    by_cases hm : mic = w.mic
    · obtain ⟨e, rfl, he⟩ := hf w.kind (by simp [hw, Frame.warnFor, hm])
      simp [hm, he]
    · cases o <;> simp [hm]

theorem discardWhere (h : s.Aloof mic o) (drop : Frame → Bool) : (s.discardWhere drop).Aloof mic o := by
  unfold State.discardWhere
  have kept : State.Aloof mic o { s with tx := s.tx.filter fun t => !drop t.frame } :=
    h.withTx fun g hg => .inl (List.mem_of_mem_filter hg)
  suffices ∀ gone : List TxFrame, (∀ g ∈ gone, g ∈ s.tx) → ∀ u : State, u.Aloof mic o →
      (gone.foldl (fun u t => u.discardFrame t.frame) u).Aloof mic o from
    this _ (fun g hg => List.mem_of_mem_filter hg) _ kept
  intro gone
  induction gone with
  | nil => exact fun _ _ hu => hu
  | cons g rest ih =>
    exact fun hgone u hu => ih (fun x hx => hgone x (by simp [hx])) _ (hu.discardFrame (h.queued g (hgone g (by simp))))

theorem submit (h : s.Aloof mic o) {f : Frame} (hf : ∀ k, f.warnFor mic k = false) : (s.submit f).1.Aloof mic o := by
  rcases State.submit_cases f s with ⟨-, hs⟩ | ⟨-, v, rest, hv, hs⟩ | ⟨-, -, hs⟩ <;> rw [hs]
  · exact h.withTx fun g hg => (mem_placeTx.mp hg).elim (fun he => .inr (by rw [he]; exact hf)) .inl
  · obtain ⟨-, -, pre, post, hq, rfl, -⟩ := victimFor_some hv
    have placed : State.Aloof mic o { s with tx := placeTx ⟨f, 0⟩ (pre ++ post) } := h.withTx fun g hg => by
      rcases mem_placeTx.mp hg with rfl | hg
      · exact .inr hf
      · refine .inl ?_
        rw [hq]
        simp only [List.mem_append, List.mem_cons] at hg ⊢
        tauto
    exact (placed.frame (t := State.count .framesDropped { s with tx := placeTx ⟨f, 0⟩ (pre ++ post) }) rfl).discardFrame
      (h.queued v (by simp [hq]))
  · exact h.frame rfl

theorem removeWhere (h : s.Aloof mic o) (drop : Frame → Bool) : (s.removeWhere drop).Aloof mic o :=
  h.withTx fun _ hg => .inl (List.mem_of_mem_filter hg)

theorem requestStation (h : s.Aloof mic o) (start : Bool) : (s.requestStation start).Aloof mic o := by
  unfold State.requestStation
  split
  · have placed := (h.removeWhere Frame.isStation).submit (f := .station (composeStation s)) fun _ => rfl
    dsimp only
    split
    · exact placed.frame rfl
    · exact placed
  · exact h

/-- An announcement of another microphone. -/
theorem announce (h : s.Aloof mic o) {m : Nat} (hm : m ≠ mic) (k : Kind) (reason : Reason) : (s.announce m k reason).Aloof mic o := by
  have requested : (s.requestWarn m k reason).Aloof mic o := by
    unfold State.requestWarn
    split
    · exact h
    · split
      · rename_i e he _
        have hwarn : ∀ j, (Frame.warn (composeWarn s.now e k reason)).warnFor mic j = false := fun j => by
          simp [Frame.warnFor, composeWarn, (State.entry?_some he).2, hm]
        have placed := (h.removeWhere (Frame.warnFor m k)).submit hwarn
        dsimp only
        split
        · exact placed.modEntry hm fun x => by simp
        · exact placed
      · exact h
  exact requested.modEntry hm fun x => by simp

theorem selectLamp (h : s.Aloof mic o) (l : Lamp) : (s.selectLamp l).Aloof mic o := by
  cases l <;> exact h.frame rfl

theorem selectWarningLamps (h : s.Aloof mic o) : s.selectWarningLamps.Aloof mic o :=
  ((h.selectLamp _).selectLamp _).selectLamp _

theorem zoneHandOff (h : s.Aloof mic o) : s.zoneHandOff.Aloof mic o := (h.selectLamp _).frame rfl

theorem zoneEnter (h : s.Aloof mic o) (cause : ZoneCause) : (s.zoneEnter cause).Aloof mic o := by
  unfold State.zoneEnter
  extract_lets cleared asked
  have hasked : asked.Aloof mic o :=
    ((h.discardWhere Frame.lostWarn).frame (t := { cleared with zone := .inForce cause }) rfl).requestStation false
  exact (hasked.frame (t := { asked with zoneRepeat := asked.after asked.params.repeatMs }) rfl).zoneHandOff

theorem zoneEnd (h : s.Aloof mic o) (hs : SoundLaw s) (fx : Nat → State → State) : (s.zoneEnd fx).Aloof mic o := by
  have ended : State.Aloof mic o { s with zone := .notInForce, zoneRepeat := .stopped } := h.frame rfl
  have sound : SoundLaw (State.requestStation false { s with zone := .notInForce, zoneRepeat := .stopped }) :=
    (State.requestStation_told false { s with zone := .notInForce, zoneRepeat := .stopped }).sound hs
  refine (State.sweep_keeps (P := fun u => u.Aloof mic o ∧ SoundLaw u) (fun m u e he hc hu => ?_) (fun m u _ _ _ hu => ?_)
    ⟨ended.requestStation false, sound⟩).1.zoneHandOff
  · have := hu.2 e (State.entry?_some he).1
    simp [hc] at this
  · refine ⟨?_, (State.reannounce_told m u).sound hu.2⟩
    unfold State.reannounce
    split
    · exact hu.1
    · split
      · rename_i e he hrep
        refine hu.1.announce (fun hm => ?_) ..
        exact hu.1.role e (hu.1.entry.symm.trans (hm ▸ he)) hrep.1
      · exact hu.1

theorem updateLost (h : s.Aloof mic o) (hs : SoundLaw s) (fx : Nat → State → State) : (s.updateLost fx).Aloof mic o := by
  have counted : State.Aloof mic o { s with lostCount := lostOf s.table } := h.frame rfl
  rcases State.updateLost_cases fx s with hu | ⟨-, hu⟩ | ⟨-, hu⟩ <;> rw [hu]
  · exact counted
  · exact counted.zoneEnter _
  · exact counted.zoneEnd hs fx

/-- A microphone without an entry has no WARN queued. -/
theorem no_warn (h : s.Aloof mic none) : ∀ g ∈ s.tx, g.frame.warnOf mic = false := by
  intro g hg
  have hk := h.queued g hg
  cases hf : g.frame with
  | warn w =>
    by_cases hm : w.mic = mic
    · exact absurd (hk w.kind (by simp [hf, Frame.warnFor, hm])) (by simp)
    · simp [Frame.warnOf, hm]
  | _ => rfl

end State.Aloof

/-! ## Removal (R34) -/

theorem State.onlyHandOffs_trans {s t u : State} (h : s.onlyHandOffs t) (k : t.onlyHandOffs u) : s.onlyHandOffs u := by
  unfold State.onlyHandOffs at *
  rw [k, h]

/-- An entry is removed with its queued WARN frames, and the rest is hand-offs (R34). The entry's own check word does not matter. -/
theorem State.removeEntry_spec {s : State} {mic : Nat} (hs : SoundLaw (s.dropEntry mic)) (fx : Nat → State → State) :
    (s.dropEntry mic).Told (s.removeEntry fx mic) ∧ (s.removeEntry fx mic).Aloof mic none := by
  have cut : (s.dropEntry mic).Told ((s.dropEntry mic).removeWhere (Frame.warnOf mic)) := State.removeWhere_told _ _
  have aloof : ((s.dropEntry mic).removeWhere (Frame.warnOf mic)).Aloof mic none := by
    refine ⟨?_, (fun e he => absurd he (by simp)), fun g hg k hk => ?_⟩
    · have hgone : (s.dropEntry mic).entry? mic = none := by simp
      exact hgone
    · have hg' : (!Frame.warnOf mic g.frame) = true := (List.mem_filter.mp hg).2
      simp [Frame.warnOf_of_warnFor hk] at hg'
  exact ⟨(cut.trans (State.updateLost_told fx (cut.sound hs))).trans (State.selectWarningLamps_told _),
    (aloof.updateLost (cut.sound hs) fx).selectWarningLamps⟩

/-- What a removal leaves of a sound table, as the statements spell it. -/
theorem State.removeEntry_leaves {s : State} (hs : SoundLaw s) (mic : Nat) : let t := s.removeEntry State.entryFault mic
    s.onlyHandOffs t ∧ t.entry? mic = none ∧ t.view = (s.table.filter fun x => x.mic ≠ mic).map Entry.untold ∧
      ∀ f ∈ t.tx, f.frame.warnOf mic = false := by
  obtain ⟨told, aloof⟩ := State.removeEntry_spec (hs.dropEntry mic) State.entryFault
  exact ⟨State.onlyHandOffs_trans (t := s.dropEntry mic) rfl told.only, aloof.entry, told.view, aloof.no_warn⟩

/-- Settles O19: a due expiry of a sound table is the mark or the removal. -/
theorem forgettingExpires : Obligations.ForgettingExpires := by
  unfold Obligations.ForgettingExpires
  intro s mic e hT hs he removed
  have hforget : exec (.forgetTimerExpiry mic) s = .next (s.forgetExpiry mic) := rfl
  have hlost : exec (.lostForgetExpiry mic) s = .next (s.lostForgetExpiry mic) := rfl
  rw [hforget, hlost]
  refine ⟨fun hd hp => ?_, fun hd hp => ⟨_, rfl, ?_⟩, fun hd hq ha => ?_, fun hd hq => ⟨_, rfl, ?_⟩⟩
  · rw [State.forgetExpiry, State.expiry_due hs he hd, if_neg hp, State.modEntry_sound hs (by exact fun _ => rfl)]
  · rw [State.forgetExpiry, State.expiry_due hs he hd, if_pos hp]
    exact State.removeEntry_leaves hs mic
  · rw [State.lostForgetExpiry, State.expiry_due hs he hd, if_neg (by simp [hq, ha]),
      State.modEntry_sound hs (by exact fun _ => rfl)]
  · rw [State.lostForgetExpiry, State.expiry_due hs he hd, if_pos hq]
    exact State.removeEntry_leaves hs mic

end Sys2Proof.Machine
end

section
/-! A change of presence handed on (R23, R24): what the entry becomes, and what its records are told. -/

namespace Sys2Proof.Machine

/-! ## Hand-offs of a change of presence -/

theorem State.recued_of_not_heard {s : State} {e : Entry} (h : e.presence ≠ .heard) :
    s.recued e = { e with cue := 0, cueRefresh := .stopped } := by
  simp [State.recued, cued, h]

theorem Record.step_telling (p : Params) (now : Nat) (k : Kind) (i : Input) (r : Record) :
    (r.step p now k i).telling = r.telling := by rw [Record.step_eq]; rfl

theorem State.stepped_telling (s : State) (e : Entry) (k : Kind) : ((s.stepped e).record k).telling = (e.record k).telling := by
  cases k <;> exact Record.step_telling ..

namespace State.Changed

variable {s t : State} {mic : Nat} {e : Entry}

theorem stepped_eq (h : s.Changed t mic e) : t.stepped = s.stepped := by
  obtain ⟨hnow, hst, hparams, -, hfloor, -⟩ := h.keep
  funext x
  simp only [State.stepped, hnow, hst, hparams, hfloor]

/-- A change, and then the three inputs. -/
theorem giveInputs (h : s.Changed t mic e) (hm : e.mic = mic) (hs : (s.entry? mic).isSome) (hT : TableLaw s) :
    s.Changed (t.giveInputs mic) mic (s.stepped e) := by
  refine h.andThen hm hs s.stepped_unheeding fun x hx => ?_
  rw [← h.stepped_eq, State.giveInputs_eq (h.table hm hT) hx]
  exact State.modEntry_changed (h.table hm hT) hx fun _ => t.stepped x

/-- A change leaves the lost count's entries when the entry still counts as it did. -/
theorem lostOf (h : s.Changed t mic e) (hT : TableLaw s) {x : Entry} (hx : s.entry? mic = some x)
    (hc : e.recSignal.countsLost = x.recSignal.countsLost) : lostOf t.table = lostOf s.table := by
  obtain ⟨hmem, hmic⟩ := State.entry?_some hx
  have hview : t.table.map Entry.untold = (s.table.map fun y => if y.mic = mic then e else y).map Entry.untold := by
    rw [List.map_map]
    exact h.view
  rw [lostOf_view hview]
  simp only [Machine.lostOf, List.countP_map]
  refine List.countP_congr fun y hy => ?_
  by_cases hm : y.mic = mic
  · simp [hT.unique hy hmem (hm.trans hmic.symm), hmic, hc]
  · simp [hm]

end State.Changed

theorem State.recued_recSignal (s : State) (e : Entry) : (s.recued e).recSignal = e.recSignal := by
  unfold State.recued
  split
  · split <;> rfl
  · rfl

section
variable {s t : State} {mic : Nat} {e : Entry}

/-- After an update of the lost count a cue selection leaves the count right. -/
theorem State.selectCue_counted (hT : TableLaw t) (he : t.entry? mic = some e) (h : t.lostCount = lostOf t.table) :
    (t.selectCue mic).lostCount = lostOf (t.selectCue mic).table := by
  rw [((State.onlyQueues.refl t).selectCue mic).keep.2.1, h]
  exact ((State.selectCue_changed hT he).lostOf hT he (by rw [State.recued_recSignal])).symm

/-- The inputs, the lost count, the cue and the lamps, in the order of R23: what the entry becomes. -/
theorem State.handOff_changed (hT : TableLaw s) (hS : SoundLaw s) (hs : (s.entry? mic).isSome) (h : s.Changed t mic e)
    (hm : e.mic = mic) : let u := (((t.giveInputs mic).updateLost State.entryFault).selectCue mic).selectWarningLamps
    s.Changed u mic (s.recued (s.stepped e)) ∧ u.lostCount = lostOf u.table := by
  have given := h.giveInputs hm hs hT
  have counted := given.told (State.updateLost_told State.entryFault (given.sound hS))
  obtain ⟨x, hx, -⟩ := counted.found hm hs
  have lamps := State.selectWarningLamps_told (((t.giveInputs mic).updateLost State.entryFault).selectCue mic)
  refine ⟨(counted.selectCue hm hs hT).told lamps, ?_⟩
  have hcount : ∀ v : State, v.selectWarningLamps.lostCount = v.lostCount := fun v => by simp [State.selectWarningLamps]
  rw [hcount, lamps.lostOf]
  exact State.selectCue_counted (counted.table hm hT) hx (State.updateLost_lostCount (given.sound hS))

theorem State.selectWarningLamps_entry? (s : State) (mic : Nat) : s.selectWarningLamps.entry? mic = s.entry? mic := by
  simp [State.entry?, State.selectWarningLamps]

/-- The same hand-offs where the update of the lost count leaves the entry: what its records are told stays. -/
theorem State.handOff_found (hT : TableLaw t) (he : t.entry? mic = some e)
    (hstill : ((t.giveInputs mic).updateLost State.entryFault).entry? mic = (t.giveInputs mic).entry? mic) :
    ∃ f, ((((t.giveInputs mic).updateLost State.entryFault).selectCue mic).selectWarningLamps).entry? mic = some f ∧
      ∀ k, (f.record k).telling = (e.record k).telling := by
  have hgiven : (t.giveInputs mic).entry? mic = some { t.stepped e with checkGood := true } := by
    rw [State.giveInputs_eq hT he]
    exact State.modEntry_const_found he (State.entry?_some he).2
  obtain ⟨f, hf, hfk⟩ := State.selectCue_found (hstill.trans hgiven)
  refine ⟨f, (State.selectWarningLamps_entry? ..).trans hf, fun k => ?_⟩
  rw [hfk k, Entry.record_checked]
  exact State.stepped_telling t e k

/-- The hand-offs move the zone with the lost count alone; where they do not move it, the entry's tellings stay. -/
theorem State.updateLost_entry_still (hS : SoundLaw t)
    (hz : ((((t.giveInputs mic).updateLost State.entryFault).selectCue mic).selectWarningLamps).zone = t.zone) :
    ((t.giveInputs mic).updateLost State.entryFault).entry? mic = (t.giveInputs mic).entry? mic := by
  have lamps : ∀ v : State, v.selectWarningLamps.zone = v.zone := fun v => by simp [State.selectWarningLamps]
  have given : (t.giveInputs mic).zone = t.zone := by
    have one : ∀ (v : State) (k : Kind), (v.giveInput mic k).zone = v.zone := fun v k => by
      unfold State.giveInput
      split <;> rfl
    simp only [State.giveInputs, one]
  have sound : SoundLaw (t.giveInputs mic) := ((State.Follows.refl Entry.place t).giveInputs mic).sound hS
  rw [lamps, ((State.onlyQueues.refl _).selectCue mic).keep.1, ← given] at hz
  rw [State.updateLost_still sound hz]
  rfl

end

/-! ## Becoming SILENT (R24, R112, R116) -/

section
variable {s : State} {mic : Nat} {e : Entry}

/-- The entry that has become SILENT, before its inputs. -/
def State.fallenSilent (s : State) (e : Entry) : Entry :=
  let moved := { e with presence := .silent, loss := .stopped, lostForget := s.presenceTimer s.params.lostForgetMs }
  if e.role = .reporter then moved
  else { moved with
    role := .follower
    pendingTimer := .stopped
    takeover := if s.station = .listenOnly then e.takeover else s.after s.params.repeatMs }

theorem State.silenced_eq (s : State) (e : Entry) :
    s.silenced e = { s.stepped (s.fallenSilent e) with cue := 0, cueRefresh := .stopped } := rfl

theorem State.fallenSilent_keeps (s : State) (e : Entry) : (s.fallenSilent e).mic = e.mic ∧
    (s.fallenSilent e).presence = .silent ∧ ∀ k, (s.fallenSilent e).record k = e.record k := by
  unfold State.fallenSilent
  dsimp only
  split <;> exact ⟨rfl, rfl, fun k => by cases k <;> rfl⟩

/-- The role consequence of becoming SILENT, with the move: one exact change of the entry. -/
theorem State.silentRole_eq (hT : TableLaw s) (he : s.entry? mic = some e) :
    (s.modEntry mic fun e => { e with
      presence := .silent, loss := .stopped, lostForget := s.presenceTimer s.params.lostForgetMs }).presenceRole mic =
      s.modEntry mic fun _ => s.fallenSilent e := by
  have hmoved := State.modEntry_found he (fun e => { e with
    presence := .silent, loss := .stopped, lostForget := s.presenceTimer s.params.lostForgetMs }) fun _ => rfl
  simp only [State.presenceRole, hmoved]
  split
  · rename_i hr
    exact State.modEntry_unique hT he (by rw [State.fallenSilent, if_pos hr])
  · rename_i hr
    rw [State.modEntry_modEntry _ _ (by exact fun _ => rfl)]
    exact State.modEntry_unique hT he (by rw [State.fallenSilent, if_neg hr]; rfl)

/-- The entry becomes SILENT (R24): what it becomes, and, where no zone state moves, what its records are told. -/
theorem State.becomeSilent_spec (hT : TableLaw s) (hS : SoundLaw s) (he : s.entry? mic = some e) : let t := s.becomeSilent mic
    s.onlyHandOffs t ∧ t.lostCount = lostOf t.table ∧ t.view = s.viewWith mic (s.silenced e) ∧
      (t.zone = s.zone → s.tellings t e (s.silenced e).role) := by
  intro t
  obtain ⟨hkmic, hkpresence, hkrecord⟩ := s.fallenSilent_keeps e
  have hmic : (s.fallenSilent e).mic = mic := hkmic.trans (State.entry?_some he).2
  let r := s.modEntry mic fun _ => s.fallenSilent e
  have hr : s.Changed r mic (s.fallenSilent e) := State.modEntry_changed hT he fun _ => s.fallenSilent e
  have ht : t = ((((r.giveInputs mic).updateLost State.entryFault).selectCue mic)).selectWarningLamps := by
    show State.presenceHandOff mic _ = _
    rw [State.presenceHandOff, State.silentRole_eq hT he]
  obtain ⟨changed, hcount⟩ := State.handOff_changed hT hS (by simp [he]) hr hmic
  rw [← ht] at changed hcount
  have hsilenced : s.recued (s.stepped (s.fallenSilent e)) = s.silenced e :=
    State.recued_of_not_heard (by simp [State.stepped, hkpresence])
  rw [hsilenced] at changed
  refine ⟨changed.only, hcount, changed.view, fun hz => ?_⟩
  have hstill := State.updateLost_entry_still (mic := mic) (hr.sound hS) (by rw [← ht, hz]; rfl)
  obtain ⟨f, hf, hfk⟩ := State.handOff_found (hr.table hmic hT) (State.modEntry_const_found he hmic) hstill
  have htell : ∀ y, t.entry? e.mic = some y → ∀ k, (y.record k).telling = (e.record k).telling := fun y hy k => by
    rw [(State.entry?_some he).2, ht, hf] at hy
    obtain rfl := Option.some.inj hy
    rw [hfk k, Entry.record_checked, hkrecord k]
  by_cases hrole : e.role = .reporter
  · have : (s.silenced e).role = e.role := by
      rw [State.silenced_eq, State.fallenSilent, if_pos hrole]
      rfl
    rw [this]
    exact State.tellings_kept htell
  · have : (s.silenced e).role = .follower := by
      rw [State.silenced_eq, State.fallenSilent, if_neg hrole]
      rfl
    rw [this]
    exact State.tellings_follower (by decide) fun y hy k => by
      rw [State.followerTelling, if_neg hrole]
      exact htell y hy k

/-! ## Becoming COVERED (R24, R26, R114) -/

/-- A change of one entry leaves the others. -/
theorem State.modEntry_filter (mic : Nat) {f : Entry → Entry} (hf : ∀ e, (f e).mic = e.mic) (s : State) :
    (s.modEntry mic f).table.filter (fun x => x.mic ≠ mic) = s.table.filter fun x => x.mic ≠ mic := by
  simp only [State.modEntry, State.mapEntry]
  induction s.table with
  | nil => rfl
  | cons x rest ih => by_cases hx : x.mic = mic <;> simp_all

/-- The entry moved to COVERED, before its role and its inputs. -/
def Entry.moveCovered (e : Entry) : Entry := { e with presence := .covered, loss := .stopped, lostForget := .stopped }

/-- After an entry is made FOLLOWER no WARN of it is queued, if none was while it was not reported (R118, R141). -/
theorem State.makeFollower_no_warn (he : s.entry? mic = some e)
    (hq : e.role ≠ .reporter → ∀ g ∈ s.tx, g.frame.warnOf mic = false) : ∀ g ∈ (s.makeFollower mic).tx, g.frame.warnOf mic = false := by
  simp only [State.makeFollower, he]
  split
  · intro g hg
    rw [State.loseReporter, State.selectCue_tx, State.modEntry_tx, State.discardWhere_tx] at hg
    simpa using (List.mem_filter.mp hg).2
  · exact hq ‹_›

/-- The role consequence of the move: what the entry becomes, and what its records are told. -/
theorem State.coveredRole_spec (hT : TableLaw s) (he : s.entry? mic = some e) :
    let r := (s.modEntry mic Entry.moveCovered).presenceRole mic
    s.Changed r mic { (if e.role = .reporter then s.recued { e.moveCovered with role := .follower }
      else { e.moveCovered with role := .follower }) with pendingTimer := .stopped, takeover := .stopped } ∧
      (∃ f, r.entry? mic = some f ∧ ∀ k, (f.record k).telling = s.followerTelling e k) ∧
      ((e.role ≠ .reporter → ∀ g ∈ s.tx, g.frame.warnOf mic = false) → ∀ g ∈ r.tx, g.frame.warnOf mic = false) := by
  have hmoved := State.modEntry_found he Entry.moveCovered fun _ => rfl
  have hmic := (State.entry?_some he).2
  have hr : (s.modEntry mic Entry.moveCovered).presenceRole mic = ((s.modEntry mic Entry.moveCovered).makeFollower mic).modEntry mic
      fun e => { e with pendingTimer := .stopped, takeover := .stopped } := by
    simp only [State.presenceRole, hmoved]
    rfl
  intro r
  have moved : s.Changed (s.modEntry mic Entry.moveCovered) mic e.moveCovered := State.modEntry_changed hT he _
  have movedTable := moved.table hmic hT
  have follower := State.Changed.trans (show e.moveCovered.mic = mic from hmic) moved (State.makeFollower_changed movedTable hmoved)
  rw [moved.recued_eq] at follower
  have hfollower : ({ e.moveCovered with checkGood := true } : Entry).role = e.role := rfl
  rw [hfollower] at follower
  refine ⟨?_, ?_, fun hq => ?_⟩
  · have stops : Entry.Unheeding fun x => { x with pendingTimer := .stopped, takeover := .stopped } := fun _ => rfl
    have hfmic : ∀ x : Entry, x.mic = mic → (if e.role = .reporter then s.recued { x with role := .follower }
        else { x with role := .follower }).mic = mic := fun x hx => by
      split
      · rw [State.recued_mic]; exact hx
      · exact hx
    have := follower.andThen (u := r) (hfmic { e.moveCovered with checkGood := true } hmic) (by simp [he]) stops fun x hx => by
      show State.Changed _ ((s.modEntry mic Entry.moveCovered).presenceRole mic) mic _
      rw [hr]
      exact State.modEntry_changed (follower.table (hfmic { e.moveCovered with checkGood := true } hmic) hT) hx _
    refine this.congr ?_
    split
    · exact stops.congr (s.recued_unheeding.congr rfl)
    · rfl
  · obtain ⟨f, hf, hfk⟩ := State.makeFollower_found hmoved
    refine ⟨_, by rw [show r = _ from hr]; exact State.modEntry_found hf _ fun _ => rfl, fun k => ?_⟩
    have hsame : (s.modEntry mic Entry.moveCovered).followerTelling { e.moveCovered with checkGood := true } k =
        s.followerTelling e k := by cases k <;> rfl
    rw [← hsame, ← hfk k]
    cases k <;> rfl
  · rw [show r = _ from hr]
    exact State.makeFollower_no_warn hmoved hq

/-- The entry becomes COVERED and stays (R24): what it becomes, and what its records are told where no zone state moves or WARN
frames are queued for reported entries alone. -/
theorem State.becomeCovered_spec (hT : TableLaw s) (hS : SoundLaw s) (he : s.entry? mic = some e) (hf : e.forget ≠ .expired) :
    let t := s.becomeCovered mic
    s.onlyHandOffs t ∧ t.lostCount = lostOf t.table ∧ t.view = s.viewWith mic (s.covered e) ∧
      (t.zone = s.zone ∨ WarnLaw s → s.tellings t e .follower) := by
  intro t
  let r := (s.modEntry mic Entry.moveCovered).presenceRole mic
  obtain ⟨changed, ⟨x, hx, hxk⟩, hquiet⟩ := State.coveredRole_spec hT he
  have hmic := (State.entry?_some he).2
  have ht : t = ((((r.giveInputs mic).updateLost State.entryFault).selectCue mic)).selectWarningLamps := by
    show State.becomeCovered mic s = _
    simp only [State.becomeCovered, he, if_neg hf]
    rfl
  let c : Entry := { (if e.role = .reporter then s.recued { e.moveCovered with role := .follower }
    else { e.moveCovered with role := .follower }) with pendingTimer := .stopped, takeover := .stopped }
  have hc : c.mic = mic ∧ c.role = .follower ∧ s.recued (s.stepped c) = s.covered e := by
    by_cases hrole : e.role = .reporter
    · have : c = { e.moveCovered with
          role := .follower, cue := 0, cueRefresh := .stopped, pendingTimer := .stopped, takeover := .stopped } := by
        simp only [c, if_pos hrole]
        rw [State.recued_of_not_heard (by simp [Entry.moveCovered])]
      rw [this]
      exact ⟨hmic, rfl, State.recued_of_not_heard (by simp [State.stepped, Entry.moveCovered])⟩
    · have : c = { e.moveCovered with role := .follower, pendingTimer := .stopped, takeover := .stopped } := by
        simp only [c, if_neg hrole]
      rw [this]
      exact ⟨hmic, rfl, State.recued_of_not_heard (by simp [State.stepped, Entry.moveCovered])⟩
  obtain ⟨hcmic, hcrole, hcovered⟩ := hc
  obtain ⟨handed, hcount⟩ := State.handOff_changed hT hS (by simp [he]) changed hcmic
  rw [← ht] at handed hcount
  have hview : t.view = s.viewWith mic (s.covered e) := hcovered ▸ handed.view
  refine ⟨handed.only, hcount, hview, fun hcase => State.tellings_follower (by decide) fun y hy k => ?_⟩
  have rTable := changed.table hcmic hT
  have hstill : ((r.giveInputs mic).updateLost State.entryFault).entry? mic = (r.giveInputs mic).entry? mic := by
    rcases hcase with hz | hW
    · exact State.updateLost_entry_still (mic := mic) (changed.sound hS)
        (by rw [← ht, hz]; exact ((State.onlyQueues.refl (s.modEntry mic Entry.moveCovered)).presenceRole mic).keep.1.symm)
    · have hgiven : r.giveInputs mic = r.modEntry mic fun _ => r.stepped x := State.giveInputs_eq rTable hx
      have hxrole : x.role = .follower := by
        obtain ⟨z, hz, hzc⟩ := changed.found hcmic (by simp [he])
        obtain rfl := Option.some.inj (hz.symm.trans hx)
        exact (Entry.role_of_untold hzc).trans hcrole
      have hnone : ∀ g ∈ r.tx, g.frame.warnOf mic = false := hquiet fun hrole g hg => by
        cases hfr : g.frame with
        | warn w =>
          by_cases hm : w.mic = mic
          · obtain ⟨z, hz, hzr⟩ := hW.reported g hg w hfr
            obtain rfl := Option.some.inj ((hm ▸ hz).symm.trans he)
            exact absurd hzr hrole
          · simp [Frame.warnOf, hm]
        | _ => rfl
      have aloof : (r.giveInputs mic).Aloof mic (some { r.stepped x with checkGood := true }) := by
        rw [hgiven]
        refine ⟨State.modEntry_const_found hx (State.entry?_some hx).2, fun z hz => ?_, fun g hg j hj => ?_⟩
        · obtain rfl := Option.some.inj hz
          show x.role ≠ .reporter
          simp [hxrole]
        · exact absurd (Frame.warnOf_of_warnFor hj) (by simp [hnone g hg])
      have given : SoundLaw (r.giveInputs mic) := by
        rw [hgiven]
        exact (changed.sound hS).modEntry mic _
      rw [(aloof.updateLost given _).entry, aloof.entry]
  obtain ⟨f, hff, hfk⟩ := State.handOff_found rTable hx hstill
  rw [hmic, ht, hff] at hy
  obtain rfl := Option.some.inj hy
  rw [hfk k, hxk k]

/-- Settles O18: by the claim list, and with a claim by the forget timer. -/
theorem lossExpires : Obligations.LossExpires := by
  unfold Obligations.LossExpires
  intro s mic e hT hS he hd
  have hexec : exec (.lossTimerExpiry mic) s = .next (s.lossExpiry mic) := rfl
  rw [hexec, State.lossExpiry, State.expiry_due hS he hd]
  refine ⟨fun hc => ?_, fun hc hf => ?_, fun hc hf => ?_⟩
  · rw [if_pos hc]
    exact ⟨_, rfl, State.becomeSilent_spec hT hS he⟩
  · rw [if_neg hc]
    exact ⟨_, rfl, State.becomeCovered_spec hT hS he hf⟩
  · have moved : SoundLaw (s.modEntry mic Entry.moveCovered) := hS.modEntry mic _
    have hremoved : s.becomeCovered mic = (s.modEntry mic Entry.moveCovered).removeEntry State.entryFault mic := by
      simp only [State.becomeCovered, he, if_pos hf]
      rfl
    obtain ⟨honly, hgone, hview, -⟩ := State.removeEntry_leaves moved mic
    have hfilter : (s.modEntry mic Entry.moveCovered).table.filter (fun x => x.mic ≠ mic) = s.table.filter fun x => x.mic ≠ mic :=
      State.modEntry_filter mic (f := Entry.moveCovered) (fun _ => rfl) s
    rw [if_neg hc]
    exact ⟨_, rfl, by rw [hremoved]; exact honly, by rw [hremoved]; exact hgone, by rw [hremoved, hview, hfilter]⟩

end

end Sys2Proof.Machine
end

section
/-! No operation reads the sighting in processing: with another one held, each does the same to everything else. The parts of a
processing therefore meet the state as one whole would (R33, notes/assumptions/4.md). -/

namespace Sys2Proof.Machine

/-- The state with another sighting in processing. -/
def State.holding (p : Option Processing) (s : State) : State := { s with inProcessing := p }

/-- An operation that does not read the sighting in processing. -/
def Blind (f : State → State) : Prop := ∀ p s, f (s.holding p) = (f s).holding p

namespace Blind

variable {f g : State → State}

theorem comp (hf : Blind f) (hg : Blind g) : Blind fun s => g (f s) := fun p s => (congrArg g (hf p s)).trans (hg p (f s))

/-- A choice between blind operations by a blind condition. -/
theorem choice {c : State → Prop} [∀ s, Decidable (c s)] (hc : ∀ p s, c (s.holding p) ↔ c s) (hf : Blind f) (hg : Blind g) :
    Blind fun s => if c s then f s else g s := fun p s => by
  by_cases h : c s
  · simp only [if_pos h, if_pos ((hc p s).mpr h), hf p s]
  · simp only [if_neg h, if_neg fun h' => h ((hc p s).mp h'), hg p s]

/-- Blind work on the entry of a microphone, with nothing to do where there is none. -/
theorem onEntry {act : Entry → State → State} (hact : ∀ e, Blind (act e)) (mic : Nat) :
    Blind fun s => match s.entry? mic with
      | none => s
      | some e => act e s := fun p s => by
  have he : (s.holding p).entry? mic = s.entry? mic := rfl
  simp only [he]
  split
  · rfl
  · exact hact _ p s

theorem foldl {α : Type} {act : State → α → State} (hact : ∀ a, Blind fun s => act s a) (l : List α) :
    Blind fun s => l.foldl act s := by
  induction l with
  | nil => exact fun _ _ => rfl
  | cons a rest ih => exact (hact a).comp ih

theorem sweep {fx act : Nat → State → State} (hfx : ∀ mic, Blind (fx mic)) (hact : ∀ mic, Blind (act mic)) :
    Blind (State.sweep fx act) := fun p s =>
  foldl (act := fun u mic => u.verified fx mic fun _ => act mic)
    (fun mic => onEntry (act := fun e u => if e.checkGood then act mic u else fx mic u)
      (fun _ => choice (fun _ _ => Iff.rfl) (hact mic) (hfx mic)) mic) s.mics p s

/-! ## The queue -/

theorem discardFrame (f : Frame) : Blind (State.discardFrame f) := by
  cases f with
  | warn w => exact choice (fun _ _ => Iff.rfl) (fun _ _ => rfl) (fun _ _ => rfl)
  | _ => exact fun _ _ => rfl

theorem discardWhere (drop : Frame → Bool) : Blind (State.discardWhere drop) := fun p s =>
  foldl (act := fun u (t : TxFrame) => State.discardFrame t.frame u) (fun t => discardFrame t.frame) (s.tx.filter fun t => drop t.frame) p
    { s with tx := s.tx.filter fun t => !drop t.frame }

/-- Whether a frame takes a place does not depend on the sighting in processing either. -/
theorem submit (f : Frame) (p : Option Processing) (s : State) :
    (s.holding p).submit f = ((s.submit f).1.holding p, (s.submit f).2) := by
  unfold State.submit
  have htx : (s.holding p).tx = s.tx := rfl
  rw [htx]
  split
  · rfl
  · split
    · next v rest' _ =>
      exact congrArg (·, true) (discardFrame v.frame p (State.count .framesDropped { s with tx := placeTx ⟨f, 0⟩ rest' }))
    · rfl

theorem requestWarn (mic : Nat) (k : Kind) (reason : Reason) : Blind (State.requestWarn mic k reason) := by
  refine onEntry (fun e => choice (fun _ _ => Iff.rfl) (fun p s => ?_) (fun _ _ => rfl)) mic
  have hremove : (s.holding p).removeWhere (Frame.warnFor mic k) = (s.removeWhere (Frame.warnFor mic k)).holding p := rfl
  have hnow : (s.holding p).now = s.now := rfl
  simp only [hremove, hnow, submit]
  split <;> rfl

theorem announce (mic : Nat) (k : Kind) (reason : Reason) : Blind (State.announce mic k reason) := fun p s => by
  unfold State.announce
  rw [requestWarn mic k reason p s]
  rfl

theorem requestStation (start : Bool) : Blind (State.requestStation start) := fun p s => by
  have hremove : (s.holding p).removeWhere Frame.isStation = (s.removeWhere Frame.isStation).holding p := rfl
  have hcompose : composeStation (s.holding p) = composeStation s := rfl
  have hst : (s.holding p).station = s.station := rfl
  have hrep : (s.holding p).stationRepeat = s.stationRepeat := rfl
  unfold State.requestStation
  rw [hremove, hcompose, hst, hrep, submit]
  generalize (s.removeWhere Frame.isStation).submit (.station (composeStation s)) = placed
  dsimp only
  by_cases hsend : s.station.sendsStation = true
  · rw [if_pos hsend, if_pos hsend]
    by_cases hrepeat : (placed.2 && (s.stationRepeat.isRunning || (start && s.station.sendsAll))) = true
    · rw [if_pos hrepeat, if_pos hrepeat]
      rfl
    · rw [if_neg hrepeat, if_neg hrepeat]
  · rw [if_neg hsend, if_neg hsend]

/-! ## Outputs and inputs -/

theorem selectLamp (l : Lamp) : Blind (State.selectLamp l) := fun p s => by cases l <;> rfl

theorem selectWarningLamps : Blind State.selectWarningLamps := fun p s => by
  have hlamps := ((selectLamp .battery).comp (selectLamp .mute)).comp (selectLamp .signal)
  exact hlamps p s

theorem zoneHandOff : Blind State.zoneHandOff := fun p s =>
  ((selectLamp .station).comp (g := State.evaluateAttn) fun _ _ => rfl) p s

theorem stationHandOff : Blind State.stationHandOff := fun p s =>
  ((selectWarningLamps.comp (selectLamp .station)).comp (g := State.evaluateAttn) fun _ _ => rfl) p s

theorem offerCue (c : Cue) : Blind (State.offerCue c) := fun p s => by
  unfold State.offerCue
  have hq : (s.holding p).cueQueue = s.cueQueue := rfl
  rw [hq]
  split <;> rfl

theorem selectCue (mic : Nat) : Blind (State.selectCue mic) := fun p s => by
  have he : (s.holding p).entry? mic = s.entry? mic := rfl
  have hst : (s.holding p).station = s.station := rfl
  unfold State.selectCue
  rw [he, hst]
  split
  · rfl
  · next e _ =>
    split
    · split
      · rfl
      · exact offerCue ⟨mic, cuePattern e⟩ p (s.modEntry mic fun e =>
          { e with
            cue := cuePattern e
            cueRefresh := if cuePattern e = 0 then .stopped else s.after s.params.cueRefreshMs })
    · rfl

theorem giveInput (mic : Nat) (k : Kind) : Blind (State.giveInput mic k) :=
  onEntry (act := fun e s => s.modRecord mic k (Record.step s.params s.now k (s.input k e)))
    (fun e p s => by cases k <;> rfl) mic

theorem giveInputs (mic : Nat) : Blind (State.giveInputs mic) := ((giveInput mic _).comp (giveInput mic _)).comp (giveInput mic _)

/-! ## Roles -/

theorem adopt (mic : Nat) (k : Kind) : Blind (State.adopt mic k) :=
  onEntry (fun _ => choice (fun _ _ => Iff.rfl) (announce mic k _) fun _ _ => rfl) mic

theorem adoptAll (mic : Nat) : Blind (State.adoptAll mic) := ((adopt mic _).comp (adopt mic _)).comp (adopt mic _)

theorem gainReporter (mic : Nat) : Blind (State.gainReporter mic) := fun p s =>
  (((show Blind fun s => s.modEntry mic fun e => { e with role := .reporter, takeover := .stopped } from fun _ _ => rfl).comp
    (adoptAll mic)).comp
    (show Blind fun u => u.modEntry mic (Entry.treatRepeats (s.now + s.params.repeatMs)) from fun _ _ => rfl)).comp
    (selectCue mic) p s

theorem loseReporter (mic : Nat) : Blind (State.loseReporter mic) :=
  (((show Blind fun s => s.modEntry mic fun e => { e with role := .follower } from fun _ _ => rfl).comp
    (discardWhere (Frame.warnOf mic))).comp (show Blind fun s => s.modEntry mic Entry.stopRepeats from fun _ _ => rfl)).comp
    (selectCue mic)

theorem makeFollower (mic : Nat) : Blind (State.makeFollower mic) :=
  onEntry (act := fun e s =>
      if e.role = .reporter then s.loseReporter mic else s.modEntry mic fun e => { e with role := .follower })
    (fun _ => choice (fun _ _ => Iff.rfl) (loseReporter mic) fun _ _ => rfl) mic

theorem decideRole (mic own : Nat) : Blind (State.decideRole mic own) :=
  onEntry (act := fun e s =>
      if reporterWins s.params s.number own e.claims then (if e.role = .reporter then s else s.gainReporter mic)
      else s.makeFollower mic)
    (fun _ => choice (fun _ _ => Iff.rfl) (choice (fun _ _ => Iff.rfl) (fun _ _ => rfl) (gainReporter mic)) (makeFollower mic)) mic

theorem computeRole (mic : Nat) : Blind (State.computeRole mic) :=
  onEntry (act := fun e s =>
      if e.presence = .heard ∧ e.role ≠ .pending ∧ s.station ≠ .listenOnly then s.decideRole mic (ownScore s.params e) else s)
    (fun e => choice (fun _ _ => Iff.rfl) (fun p s => decideRole mic (ownScore s.params e) p s) fun _ _ => rfl) mic

/-! ## The zone and faults -/

theorem startZoneRepeat : Blind fun s => { s with zoneRepeat := s.after s.params.repeatMs } := fun _ _ => rfl

theorem zoneCause (cause : ZoneCause) : Blind (State.zoneCause cause) :=
  (((show Blind fun s => { s with zone := .inForce cause } from fun _ _ => rfl).comp (requestStation false)).comp
    startZoneRepeat).comp zoneHandOff

theorem zoneEnter (cause : ZoneCause) : Blind (State.zoneEnter cause) := (discardWhere Frame.lostWarn).comp (zoneCause cause)

section
variable {fx : Nat → State → State} (hfx : ∀ mic, Blind (fx mic))
include hfx

theorem zoneEnd : Blind (State.zoneEnd fx) :=
  (((show Blind fun s => { s with zone := .notInForce, zoneRepeat := .stopped } from fun _ _ => rfl).comp
    (requestStation false)).comp (sweep hfx fun mic => onEntry (act := fun e s =>
        if e.role = .reporter ∧ e.recSignal.level = .higher ∧ e.recSignal.chamber ≠ .told .higher then s.announce mic .signal .adopt
        else s)
      (fun _ => choice (fun _ _ => Iff.rfl) (announce mic .signal .adopt) fun _ _ => rfl) mic)).comp zoneHandOff

theorem updateLost : Blind (State.updateLost fx) := by
  have hcount : Blind fun s => { s with lostCount := lostOf s.table } := fun _ _ => rfl
  exact choice (c := fun s =>
      s.zone = .notInForce ∧ s.lostCount < s.params.zoneThreshold ∧ s.params.zoneThreshold ≤ lostOf s.table)
    (fun _ _ => Iff.rfl) (hcount.comp (zoneEnter .count))
    (choice (c := fun s => s.zone = .inForce .count ∧ lostOf s.table < s.lostCount ∧ lostOf s.table ≤ s.params.zoneExit)
      (fun _ _ => Iff.rfl) (hcount.comp (zoneEnd hfx)) hcount)

theorem feedCauseEnds : Blind (State.feedCauseEnds fx) :=
  choice (c := fun s => s.zone = .inForce .feed) (fun _ _ => Iff.rfl)
    (choice (c := fun s => s.params.zoneExit < s.lostCount) (fun _ _ => Iff.rfl) (zoneCause .count) (zoneEnd hfx)) fun _ _ => rfl

theorem resumeSweep : Blind (State.resumeSweep fx) := sweep hfx fun mic =>
  ((show Blind fun s => s.modEntry mic (Entry.mapPresence (Timer.resume s.now)) from fun _ _ => rfl).comp
    (giveInputs mic)).comp (updateLost hfx)

theorem removeEntry (mic : Nat) : Blind (State.removeEntry fx mic) :=
  ((show Blind fun s => (s.dropEntry mic).removeWhere (Frame.warnOf mic) from fun _ _ => rfl).comp (updateLost hfx)).comp
    selectWarningLamps

theorem enterListenOnly : Blind (State.enterListenOnly fx) := by
  have quiet := (show Blind fun s => { s with station := .listenOnly, joining := .stopped } from fun _ _ => rfl).comp
    (sweep hfx (act := State.quietEntry) fun mic => (makeFollower mic).comp fun _ _ => rfl)
  have stopped := ((quiet.comp (show Blind fun s => { s with claimRound := .stopped } from fun _ _ => rfl)).comp
    (discardWhere fun f => !f.isStation)).comp (show Blind fun s => { s with stationRepeat := .stopped } from fun _ _ => rfl)
  have resumed := choice (c := fun s => s.station = .feedDown) (fun _ _ => Iff.rfl)
    ((stopped.comp (resumeSweep hfx)).comp (feedCauseEnds hfx)) stopped
  exact (resumed.comp (requestStation false)).comp stationHandOff

theorem faultReport (mic : Nat) : Blind (State.faultReport fx mic) := fun p s => by
  have reported := choice (c := fun s => s.window.isRunning = true) (fun _ _ => Iff.rfl)
    ((show Blind fun s => { s with fault := some .doubleFault, window := .stopped } from fun _ _ => rfl).comp (enterListenOnly hfx))
    ((show Blind fun s => { s with fault := some (.table mic), window := s.after windowMs } from fun _ _ => rfl).comp
      (requestStation false)) p s
  have hst : (s.holding p).station = s.station := rfl
  unfold State.faultReport
  rw [hst]
  split
  · rfl
  · exact requestStation false p s
  · exact reported
  · exact reported
  · exact reported

end

theorem integrityFault (fuel mic : Nat) : Blind (integrityFault fuel mic) := by
  induction fuel generalizing mic with
  | zero => exact fun _ _ => rfl
  | succ fuel ih => exact ((removeEntry ih mic).comp fun _ _ => rfl).comp (faultReport ih mic)

theorem entryFault (mic : Nat) : Blind (State.entryFault mic) := fun p s => integrityFault s.table.length mic p s

/-! ## The steps of a processing -/

theorem processStep (creating : Bool) (g : Sighting) (n : Nat) : Blind (State.processStep creating g n) := fun p s => by
  unfold State.processStep
  split
  · rfl
  · rfl
  · rfl
  · exact ((show Blind fun s => s.modEntry g.mic (Entry.bandStep s.params) from fun _ _ => rfl).comp (giveInputs g.mic)).comp
      (updateLost entryFault) p s
  · exact computeRole g.mic p s
  · exact selectCue g.mic p s
  · exact selectWarningLamps p s
  · rfl

theorem workThrough (q : Processing) (first count : Nat) : Blind (State.workThrough q first count) := by
  induction count generalizing first with
  | zero => exact fun _ _ => rfl
  | succ n ih =>
    exact (onEntry (act := fun _ s => s.processStep q.creating q.sighting first)
      (fun _ => processStep q.creating q.sighting first) q.sighting.mic).comp (ih (first + 1))

end Blind

end Sys2Proof.Machine
end

section
/-! The processing of a sighting (R33, R19 to R21; notes/assumptions/4.md): in parts and whole, and what it does to its entry. -/

namespace Sys2Proof.Machine

/-! ## In parts -/

theorem TableLaw.holding {s : State} (hT : TableLaw s) (p : Option Processing) : TableLaw (s.holding p) :=
  ⟨hT.ascending, hT.atMost96, hT.seats, hT.queuedSeats⟩

/-- Where no sighting is in processing, a blind operation takes none up. -/
theorem Blind.keeps_idle {f : State → State} (hf : Blind f) {s : State} (h : s.inProcessing = none) : (f s).inProcessing = none := by
  have hs : s.holding none = s := by simp [State.holding, ← h]
  rw [← hs, hf none s]
  rfl

theorem State.workThrough_done (p : Processing) (done first count : Nat) (s : State) :
    s.workThrough { p with done := done } first count = s.workThrough p first count := by
  induction count generalizing first s with
  | zero => rfl
  | succ n ih => exact ih (first + 1) (s.workOn p first)

/-- Where the steps to `done` leave the state at `w`, the processing has ended there or holds its place. -/
theorem State.proceed_eq {u w : State} {p : Processing} {through done : Nat} (hdone : max p.done (min through lastStep) = done)
    (hw : u.workThrough p (p.done + 1) (done - p.done) = w) : u.proceed through p =
      w.holding (if lastStep ≤ done ∨ w.entry? p.sighting.mic = none then none else some { p with done := done }) := by
  subst hdone hw
  rfl

/-- A processing taken to one step and then to a later one has been taken to the later one. -/
theorem State.proceed_proceed {v : State} {p : Processing} {a b : Nat} (hab : a ≤ b) (hgo : (v.proceed a p).underway ≠ none) :
    (v.proceed a p).takeSighting b = v.proceed b p := by
  generalize hdone : max p.done (min a lastStep) = done
  generalize hworked : v.workThrough p (p.done + 1) (done - p.done) = worked
  have hthrough : max p.done (min b lastStep) = max done (min b lastStep) := by omega
  have hsteps : max done (min b lastStep) - p.done = (done - p.done) + (max done (min b lastStep) - done) := by omega
  have hfirst := State.proceed_eq hdone hworked
  obtain ⟨q, hq⟩ := Option.ne_none_iff_exists'.mp hgo
  obtain ⟨hin, -⟩ := State.underway_some hq
  rw [hfirst] at hin
  obtain ⟨hgoing, hheld⟩ := Option.ite_none_left_eq_some.mp hin
  obtain rfl := Option.some.inj hheld
  rw [if_neg hgoing] at hfirst
  have hrest : (v.proceed a p).workThrough { p with done := done } (done + 1) (max done (min b lastStep) - done) =
      (worked.workThrough p (done + 1) (max done (min b lastStep) - done)).holding (some { p with done := done }) := by
    rw [hfirst, Blind.workThrough, State.workThrough_done]
  have hwhole : v.workThrough p (p.done + 1) (max done (min b lastStep) - p.done) =
      worked.workThrough p (done + 1) (max done (min b lastStep) - done) := by
    rw [hsteps, State.workThrough_add, hworked, show p.done + 1 + (done - p.done) = done + 1 by omega]
  rw [State.takeSighting, hq]
  exact (State.proceed_eq rfl hrest).trans (State.proceed_eq hthrough hwhole).symm

/-- A sighting is refused, or it is processed from a state that how far it is to go has no part in. -/
theorem State.sight_cases (g : Sighting) {s : State} (h : s.inProcessing = none) :
    (∃ v p, ∀ through, s.sight through g = State.proceed through p v) ∨ ∀ through, (s.sight through g).underway = none := by
  have noEntry : ∀ t : State, t.inProcessing = none → (∃ v p, ∀ through, t.admitOrEvict through g = State.proceed through p v) ∨
      ∀ through, (t.admitOrEvict through g).underway = none := by
    intro t ht
    unfold State.admitOrEvict State.evictFor
    split
    · exact .inl ⟨_, _, fun _ => rfl⟩
    · split
      · exact .inl ⟨_, _, fun _ => rfl⟩
      · split
        · exact .inl ⟨_, _, fun _ => rfl⟩
        · exact .inr fun _ => State.underway_idle ht
  unfold State.sight
  split
  · split
    · exact .inl ⟨_, _, fun _ => rfl⟩
    · exact noEntry _ ((Blind.entryFault g.mic).keeps_idle h)
  · exact noEntry s h

/-- A sighting taken in two parts is taken whole. -/
theorem State.takeSighting_takeSighting {s : State} {a b : Nat} (hab : a ≤ b) (hgo : (s.takeSighting a).underway ≠ none) :
    (s.takeSighting a).takeSighting b = s.takeSighting b := by
  match hu : s.underway, hi : s.intake with
  | some p, _ =>
    have htaken : ∀ through, s.takeSighting through = s.proceed through p := fun through => by rw [State.takeSighting, hu]
    rw [htaken] at hgo ⊢
    rw [State.proceed_proceed hab hgo, htaken]
  | none, g :: rest =>
    have htaken : ∀ through, s.takeSighting through = ({ s with intake := rest, inProcessing := none }).sight through g :=
      fun through => by rw [State.takeSighting, hu, hi]
    rw [htaken] at hgo ⊢
    obtain ⟨v, p, hv⟩ | hrefused := State.sight_cases g (s := { s with intake := rest, inProcessing := none }) rfl
    · rw [hv] at hgo ⊢
      rw [State.proceed_proceed hab hgo, htaken, hv]
    · exact absurd (hrefused a) hgo
  | none, [] =>
    have htaken : s.takeSighting a = s := by rw [State.takeSighting, hu, hi]
    rw [htaken] at hgo
    exact absurd hu hgo

/-! ## The taking and the measures (steps 1 to 4) -/

/-- The presence part of a sighting in the entry (R19, R18, R116). -/
def State.heard (s : State) (e : Entry) : Entry :=
  { e with
    presence := .heard
    loss := s.presenceTimer s.params.lossTime
    forget := s.presenceTimer s.params.forgetMs
    lostForget := .stopped
    sightings := satAdd satMax e.sightings 1
    takeover := .stopped }

theorem State.hear_eq (mic : Nat) (s : State) : s.hear mic = s.modEntry mic s.heard := rfl

theorem Entry.sample_eq (p : Params) (now : Nat) (g : Sighting) (e : Entry) :
    e.sample p now g = { e with battery := (e.sample p now g).battery } := by
  unfold Entry.sample
  split <;> rfl

theorem Entry.muteStep_eq (floorSet : List Nat) (g : Sighting) (e : Entry) :
    e.muteStep floorSet g = { e with mute := (e.muteStep floorSet g).mute, muteCand := (e.muteStep floorSet g).muteCand } := by
  unfold Entry.muteStep
  split <;> rfl

/-- One entry put in the place of another. -/
theorem State.modEntry_const {x : Entry} (hx : x.checkGood = true) (mic : Nat) (s : State) :
    (s.modEntry mic fun _ => x) = { s with table := s.table.map fun y => if y.mic = mic then x else y } := by
  show { s with table := s.table.map fun y : Entry => if y.mic = mic then { x with checkGood := true } else y } = _
  rw [Entry.checked_eq hx]

/-- Steps 2 to 4 change the gap, the quality, the battery block and the mute state. -/
theorem Entry.gauged_eq (p : Params) (now : Nat) (floorSet : List Nat) (creating : Bool) (g : Sighting) (e : Entry) :
    let m := e.gauged p now floorSet creating g
    m = { e with
      gapVoid := m.gapVoid, lastLocal := m.lastLocal, longestGap := m.longestGap, qs := m.qs, qf := m.qf, history := m.history,
      q := m.q, battery := m.battery, mute := m.mute, muteCand := m.muteCand } := by
  unfold Entry.gauged
  rw [Entry.muteStep_eq, Entry.sample_eq]
  rfl

theorem Entry.gauged_mic (p : Params) (now : Nat) (floorSet : List Nat) (creating : Bool) (g : Sighting) (e : Entry) :
    (e.gauged p now floorSet creating g).mic = e.mic := by rw [Entry.gauged_eq]

theorem Entry.gauged_checkGood (p : Params) (now : Nat) (floorSet : List Nat) (creating : Bool) (g : Sighting) (e : Entry) :
    (e.gauged p now floorSet creating g).checkGood = e.checkGood := by rw [Entry.gauged_eq]

/-- With its entry there a step of a processing is done. -/
theorem State.workThrough_succ {s : State} {p : Processing} (h : (s.entry? p.sighting.mic).isSome) (first count : Nat) :
    s.workThrough p first (count + 1) = (s.processStep p.creating p.sighting first).workThrough p (first + 1) count := by
  obtain ⟨e, he⟩ := Option.isSome_iff_exists.mp h
  rw [State.workThrough, State.workOn, he]

/-- Steps 2 to 4 make of the entry what the measures say. -/
theorem State.workThrough_gauged {s : State} {p : Processing} {e : Entry} (hT : TableLaw s) (he : s.entry? p.sighting.mic = some e) :
    s.workThrough p 2 3 =
      s.modEntry p.sighting.mic fun _ => e.gauged s.params s.now s.floorSet p.creating p.sighting := by
  have hsample : ∀ x, (Entry.sample s.params s.now p.sighting x).mic = x.mic := fun x => by rw [Entry.sample_eq]
  let quality := fun e : Entry => (e.quality p.creating p.sighting).gap p.creating p.sighting
  have he₂ := State.modEntry_found he quality fun _ => rfl
  have he₃ := State.modEntry_found he₂ (Entry.sample s.params s.now p.sighting) hsample
  have hexact : ((s.modEntry p.sighting.mic quality).modEntry p.sighting.mic (Entry.sample s.params s.now p.sighting)).modEntry
      p.sighting.mic (Entry.muteStep s.floorSet p.sighting) =
      s.modEntry p.sighting.mic fun _ => e.gauged s.params s.now s.floorSet p.creating p.sighting := by
    rw [State.modEntry_modEntry _ _ (by exact hsample), State.modEntry_modEntry _ _ (by exact fun _ => rfl)]
    refine State.modEntry_unique hT he ?_
    unfold Entry.gauged Entry.muteStep Entry.sample
    rcases p.sighting.battery with _ | code <;> rcases p.sighting.mute with _ | m <;> rfl
  calc s.workThrough p 2 3 = (s.modEntry p.sighting.mic quality).workThrough p 3 2 := State.workThrough_succ (by simp [he]) 2 2
    _ = ((s.modEntry p.sighting.mic quality).modEntry p.sighting.mic (Entry.sample s.params s.now p.sighting)).workThrough p 4 1 :=
      State.workThrough_succ (by simp [he₂]) 3 1
    _ = _ := (State.workThrough_succ (by simp [he₃]) 4 0).trans hexact

/-- The last commands of a processing end it, whatever was in processing. -/
theorem State.proceed_last {s : State} {p : Processing} (h : p.done ≤ lastStep) :
    s.proceed lastStep p = (s.holding none).workThrough p (p.done + 1) (lastStep - p.done) := by
  rw [State.proceed_eq (done := lastStep) (by omega) rfl, if_pos (.inl (Nat.le_refl _)), Blind.workThrough]

/-! ## Inputs, role, cue and lamps (steps 5 to 9) -/

/-- Steps 5 to 9 of a processing whose entry stays. -/
def State.finish (mic : Nat) (s : State) : State :=
  (((((s.modEntry mic (Entry.bandStep s.params)).giveInputs mic).updateLost State.entryFault).computeRole mic).selectCue
    mic).selectWarningLamps

theorem State.roleComputed_recSignal (s : State) (e : Entry) : (s.roleComputed e).recSignal = e.recSignal := by
  unfold State.roleComputed State.roleDecided
  split
  · split
    · split
      · rfl
      · rw [State.recued_recSignal]
    · split
      · rw [State.recued_recSignal]
      · rfl
  · rfl

theorem State.Changed.roleComputed_eq {s t : State} {mic : Nat} {e : Entry} (h : s.Changed t mic e) :
    t.roleComputed = s.roleComputed := by
  obtain ⟨hnow, hst, hparams, hnumber, -⟩ := h.keep
  funext x
  simp only [State.roleComputed, State.roleDecided, h.recued_eq, hst, hparams, hnumber]

section
variable {s : State} {mic : Nat} {e : Entry}

/-- A change, and then the role computed. -/
theorem State.Changed.computeRole {t : State} (h : s.Changed t mic e) (hm : e.mic = mic) (hs : (s.entry? mic).isSome)
    (hT : TableLaw s) : s.Changed (t.computeRole mic) mic (s.roleComputed e) := by
  refine h.andThen hm hs s.roleComputed_unheeding fun x hx => ?_
  rw [← h.roleComputed_eq]
  exact State.computeRole_changed (h.table hm hT) hx

/-- What step 5 leaves before the update of the lost count. -/
theorem State.bandInputs_eq (hT : TableLaw s) (he : s.entry? mic = some e) :
    (s.modEntry mic (Entry.bandStep s.params)).giveInputs mic = s.modEntry mic fun _ => s.stepped (e.bandStep s.params) := by
  have banded := State.modEntry_changed hT he (Entry.bandStep s.params)
  have hmic : (e.bandStep s.params).mic = mic := (State.entry?_some he).2
  have hfound := State.modEntry_found he (Entry.bandStep s.params) fun _ => rfl
  rw [State.giveInputs_eq (banded.table hmic hT) hfound, State.modEntry_modEntry _ _ (by exact fun _ => rfl)]
  exact State.modEntry_unique hT he rfl

theorem State.selectWarningLamps_keeps (s : State) : s.selectWarningLamps.zone = s.zone ∧
    s.selectWarningLamps.lostCount = s.lostCount ∧ s.selectWarningLamps.table = s.table ∧ s.selectWarningLamps.tx = s.tx := by
  simp [State.selectWarningLamps]

/-- Steps 5 and 6 change the entry alone, but for what others are told. -/
theorem State.bandInputs_changed (hT : TableLaw s) (hS : SoundLaw s) (he : s.entry? mic = some e) :
    s.Changed (((s.modEntry mic (Entry.bandStep s.params)).giveInputs mic).updateLost State.entryFault) mic
      (s.stepped (e.bandStep s.params)) := by
  rw [State.bandInputs_eq hT he]
  have changed := State.modEntry_changed hT he fun _ => s.stepped (e.bandStep s.params)
  exact changed.told (State.updateLost_told State.entryFault (changed.sound hS))

/-- What the last steps make of the entry (section 2.2, steps 5 to 9). -/
theorem State.finish_changed (hT : TableLaw s) (hS : SoundLaw s) (he : s.entry? mic = some e) :
    s.Changed (s.finish mic) mic (s.sightedEnd (s.stepped (e.bandStep s.params))) := by
  have hmic : (e.bandStep s.params).mic = mic := (State.entry?_some he).2
  have hsome : (s.entry? mic).isSome := by simp [he]
  have decided := (State.bandInputs_changed hT hS he).computeRole hmic hsome hT
  exact (decided.selectCue (by simpa using hmic) hsome hT).told (State.selectWarningLamps_told _)

/-- After the last steps the lost count is the number of entries that count (R97). -/
theorem State.finish_lostCount (hT : TableLaw s) (hS : SoundLaw s) (he : s.entry? mic = some e) :
    (s.finish mic).lostCount = lostOf (s.finish mic).table := by
  have hmic : (e.bandStep s.params).mic = mic := (State.entry?_some he).2
  have stepped := State.bandInputs_changed hT hS he
  have hcount := State.updateLost_lostCount (fx := State.entryFault)
    ((State.modEntry_changed hT he fun _ => s.stepped (e.bandStep s.params)).sound hS)
  rw [← State.bandInputs_eq hT he] at hcount
  unfold State.finish
  generalize ((s.modEntry mic (Entry.bandStep s.params)).giveInputs mic).updateLost State.entryFault = u at stepped hcount ⊢
  have uTable := stepped.table hmic hT
  obtain ⟨x, hx, -⟩ := stepped.found hmic (by simp [he])
  have decided := State.computeRole_changed uTable hx
  have hxmic := (State.entry?_some hx).2
  obtain ⟨y, hy, -⟩ := decided.found (by simpa using hxmic) (by simp [hx])
  obtain ⟨-, hlamps, htable, -⟩ := ((u.computeRole mic).selectCue mic).selectWarningLamps_keeps
  rw [hlamps, htable]
  refine State.selectCue_counted (decided.table (by simpa using hxmic) uTable) hy ?_
  rw [((State.onlyQueues.refl u).computeRole mic).keep.2.1, hcount]
  exact (decided.lostOf uTable hx (by rw [State.roleComputed_recSignal])).symm

/-- Where the last steps leave the zone state, what the entry is told follows its role (R117, R118). -/
theorem State.finish_tellings (hT : TableLaw s) (hS : SoundLaw s) (he : s.entry? mic = some e)
    (hz : (s.finish mic).zone = s.zone) : let sighted := s.stepped (e.bandStep s.params)
    s.tellings (s.finish mic) sighted (s.sightedEnd sighted).role := by
  intro sighted
  have hmic : sighted.mic = mic := (State.entry?_some he).2
  let r := s.modEntry mic fun _ => sighted
  have hr : s.Changed r mic sighted := State.modEntry_changed hT he fun _ => sighted
  have rSound : SoundLaw r := hr.sound hS
  let u := r.updateLost State.entryFault
  have hfinish : s.finish mic = ((u.computeRole mic).selectCue mic).selectWarningLamps := by
    rw [State.finish, State.bandInputs_eq hT he]
  obtain ⟨hzLamps, -, hlampTable, hlampTx⟩ := ((u.computeRole mic).selectCue mic).selectWarningLamps_keeps
  have hzone : u.zone = r.zone := by
    rw [hfinish, hzLamps, (((State.onlyQueues.refl u).computeRole mic).selectCue mic).keep.1] at hz
    exact hz
  have hu : u = { r with lostCount := lostOf r.table } := State.updateLost_still rSound hzone
  have hfound : u.entry? mic = some sighted := by
    have hr' := State.modEntry_const_found he hmic
    rw [Entry.checked_eq (show sighted.checkGood = true from hS e (State.entry?_some he).1)] at hr'
    rw [hu]
    exact hr'
  have changed : s.Changed u mic sighted := hr.told (State.updateLost_told State.entryFault rSound)
  have hrole : (s.sightedEnd sighted).role = (u.roleComputed sighted).role := by
    rw [State.sightedEnd, State.recued_role, changed.roleComputed_eq]
  have decided : u.tellings (u.computeRole mic) sighted (s.sightedEnd sighted).role := hrole ▸ State.computeRole_tellings hfound
  refine State.tellings_earlier (s' := u) ?_ (by rw [hu]; rfl)
  refine State.tellings_later decided (fun f hf => ?_) fun _ => ?_
  · have hcomputed := (State.computeRole_changed (changed.table hmic hT) hfound).found (by simpa using hmic) (by simp [hfound])
    obtain ⟨x, hx, -⟩ := hcomputed
    obtain ⟨y, hy, hyk⟩ := State.selectCue_found hx
    rw [hfinish, State.selectWarningLamps_entry?, hmic, hy] at hf
    obtain rfl := Option.some.inj hf
    exact ⟨x, hmic ▸ hx, fun k => by rw [hyk k]⟩
  · rw [hfinish, hlampTx, State.selectCue_tx]

/-- With its entry there, a processing's last steps are the finish. -/
theorem State.workThrough_finish {p : Processing} (hT : TableLaw s) (hS : SoundLaw s) (he : s.entry? p.sighting.mic = some e) :
    s.workThrough p 5 5 = s.finish p.sighting.mic := by
  have hmic : (e.bandStep s.params).mic = p.sighting.mic := (State.entry?_some he).2
  have hsome : (s.entry? p.sighting.mic).isSome := by simp [he]
  have stepped := State.bandInputs_changed hT hS he
  have decided := stepped.computeRole hmic hsome hT
  have recued := decided.selectCue (by simpa using hmic) hsome hT
  have there : ∀ {u : State} {x : Entry}, s.Changed u p.sighting.mic x → x.mic = p.sighting.mic →
      (u.entry? p.sighting.mic).isSome := fun h hm => by
    obtain ⟨y, hy, -⟩ := h.found hm hsome
    simp [hy]
  let u := ((s.modEntry p.sighting.mic (Entry.bandStep s.params)).giveInputs p.sighting.mic).updateLost State.entryFault
  calc s.workThrough p 5 5 = u.workThrough p 6 4 := State.workThrough_succ hsome 5 4
    _ = u.workThrough p 7 3 := State.workThrough_succ (there stepped hmic) 6 3
    _ = (u.computeRole p.sighting.mic).workThrough p 8 2 := State.workThrough_succ (there stepped hmic) 7 2
    _ = ((u.computeRole p.sighting.mic).selectCue p.sighting.mic).workThrough p 9 1 :=
      State.workThrough_succ (there decided (by simpa using hmic)) 8 1
    _ = s.finish p.sighting.mic := State.workThrough_succ (there recued (by simpa using hmic)) 9 0

end

/-! ## A sighting taken for an entry -/

section
variable {s : State} {g : Sighting} {rest : List Sighting} {e : Entry}

/-- With no sighting in processing the head of the intake queue is taken. -/
theorem State.takeSighting_idle (hu : s.underway = none) (hi : s.intake = g :: rest) (through : Nat) :
    s.takeSighting through = ({ s with intake := rest, inProcessing := none }).sight through g := by
  rw [State.takeSighting, hu, hi]

/-- A sighting taken for an entry, and its measures: one exact change of the entry. -/
theorem State.hear_gauged (hT : TableLaw s) (hS : SoundLaw s) (he : s.entry? g.mic = some e) (creating : Bool) :
    (s.hear g.mic).workThrough ⟨g, creating, 1⟩ 2 3 =
      s.modEntry g.mic fun _ => (s.heard e).gauged s.params s.now s.floorSet creating g := by
  have heard := State.modEntry_changed hT he s.heard
  have hmic : (s.heard e).mic = g.mic := (State.entry?_some he).2
  have hfound := State.modEntry_found he s.heard fun _ => rfl
  rw [Entry.checked_eq (show (s.heard e).checkGood = true from hS e (State.entry?_some he).1)] at hfound
  rw [State.hear_eq, State.workThrough_gauged (p := ⟨g, creating, 1⟩) (heard.table hmic hT) hfound,
    State.modEntry_modEntry _ _ (by exact fun _ => rfl)]
  rfl

/-- The taking of a sighting leaves the table lawful. -/
theorem TableLaw.taken (hT : TableLaw s) (hi : s.intake = g :: rest) :
    TableLaw { s with intake := rest, inProcessing := none } :=
  ⟨hT.ascending, hT.atMost96, hT.seats, fun x hx => hT.queuedSeats x (hi ▸ List.mem_cons_of_mem g hx)⟩

theorem State.sight_known (hS : SoundLaw s) (he : s.entry? g.mic = some e) (through : Nat) :
    s.sight through g = (s.hear g.mic).proceed through ⟨g, false, 1⟩ := by
  simp only [State.sight, he, hS e (State.entry?_some he).1, if_true]

/-- The heard entry in the statements' words (R18, R19, R116). -/
theorem State.heard_eq (s : State) (e : Entry) :
    let len := fun n => if s.station = .feedDown then Timer.paused n else .running (s.now + n)
    s.heard e = { e with
      presence := .heard
      loss := len s.params.lossTime
      forget := len (1000 * s.params.forgetTime)
      lostForget := .stopped
      sightings := min 65535 (e.sightings + 1)
      takeover := .stopped } := by
  simp only [State.heard, State.presenceTimer, Params.forgetMs, Nat.mul_comm]
  rfl

end

/-- Settles O17: a processing is its steps in turn, none of which reads what is in processing. -/
theorem processingInParts : Obligations.ProcessingInParts := by
  unfold Obligations.ProcessingInParts
  have taken : ∀ (s : State) (n : Nat), exec (.sightingTaken n) s = .next (s.takeSighting n) := fun _ _ => rfl
  refine ⟨fun s t a b hab ht hgo => ?_, fun s g rest e hT hS hu hi he => ?_, fun s g creating e hT hS hp he => ?_,
    fun s p n hp hgone hi => ?_⟩
  · rw [taken] at ht
    obtain rfl := Host.Outcome.next.inj ht
    rw [taken, taken, State.takeSighting_takeSighting hab hgo]
  · intro len heard
    let v : State := { s with intake := rest, inProcessing := none }
    have hheard : v.heard e = heard := v.heard_eq e
    have hgauged := State.hear_gauged (s := v) (g := g) (hT.taken hi) hS he false
    rw [hheard] at hgauged
    have hmic : (heard.gauged s.params s.now s.floorSet false g).mic = g.mic :=
      (Entry.gauged_mic ..).trans (State.entry?_some he).2
    have hgood : (heard.gauged s.params s.now s.floorSet false g).checkGood = true :=
      (Entry.gauged_checkGood ..).trans (hS e (State.entry?_some he).1)
    have hfound := State.modEntry_const_found (s := v) he hmic
    rw [taken, State.takeSighting_idle hu hi, State.sight_known (s := v) hS he,
      State.proceed_eq (done := 4) (by simp [lastStep]) hgauged, if_neg (by rw [hfound]; simp [lastStep]),
      State.modEntry_const hgood]
    rfl
  · let v := s.holding none
    have vTable : TableLaw v := hT.holding none
    have htaken : s.takeSighting 9 = v.finish g.mic := by
      have hu : s.underway = some ⟨g, creating, 4⟩ := by simp [State.underway, hp, he]
      rw [State.takeSighting, hu]
      exact (State.proceed_last (by simp [lastStep])).trans (State.workThrough_finish (s := v) vTable hS he)
    have changed := State.finish_changed (s := v) vTable hS he
    exact ⟨v.finish g.mic, by rw [taken, htaken], changed.only, State.finish_lostCount (s := v) vTable hS he, changed.view⟩
  · have hu : s.underway = none := by simp [State.underway, hp, hgone]
    obtain ⟨g, rest, hi⟩ := List.exists_cons_of_ne_nil hi
    have hidle : State.underway { s with inProcessing := none } = none := State.underway_idle rfl
    rw [taken, taken, State.takeSighting_idle hu hi, State.takeSighting_idle hidle hi]

/-- Settles O14: the taking and the measures are one exact change, and then the last steps are done. -/
theorem sightingOfKnownMicrophone : Obligations.SightingOfKnownMicrophone := by
  unfold Obligations.SightingOfKnownMicrophone
  refine ⟨fun s g rest e hT hS hu hi he => ?_, fun p now floorSet g e => ?_, fun st floor e => ?_⟩
  · intro len heard
    let v : State := { s with intake := rest, inProcessing := none }
    have vTable : TableLaw v := hT.taken hi
    let gauged := heard.gauged s.params s.now s.floorSet false g
    let w := v.modEntry g.mic fun _ => gauged
    have hgauged : (v.hear g.mic).workThrough ⟨g, false, 1⟩ 2 3 = w := by
      rw [State.hear_gauged (s := v) vTable hS he, show v.heard e = heard from v.heard_eq e]
    have hmic : gauged.mic = g.mic := (Entry.gauged_mic ..).trans (State.entry?_some he).2
    have hgood : gauged.checkGood = true := (Entry.gauged_checkGood ..).trans (hS e (State.entry?_some he).1)
    have measured : v.Changed w g.mic gauged := State.modEntry_changed vTable he fun _ => gauged
    have wTable := measured.table hmic vTable
    have hfound : w.entry? g.mic = some gauged :=
      (State.modEntry_const_found (s := v) he hmic).trans (by rw [Entry.checked_eq hgood])
    have htaken : s.takeSighting 9 = w.finish g.mic := by
      have hall : (v.hear g.mic).workThrough ⟨g, false, 1⟩ 2 8 = w.workThrough ⟨g, false, 1⟩ 5 5 := by
        rw [State.workThrough_add _ 2 3 5, hgauged]
      rw [State.takeSighting_idle hu hi, State.sight_known (s := v) hS he]
      exact (State.proceed_last (by simp [lastStep])).trans (hall.trans (State.workThrough_finish wTable (measured.sound hS) hfound))
    have finished := State.finish_changed wTable (measured.sound hS) hfound
    have whole := measured.trans hmic finished
    refine ⟨w.finish g.mic, congrArg _ htaken, whole.only, State.finish_lostCount wTable (measured.sound hS) hfound, whole.view,
      fun hz => ?_⟩
    exact State.tellings_earlier (s' := w) (State.finish_tellings wTable (measured.sound hS) hfound hz) rfl
  · refine ⟨fun h => by simp [Entry.sample, h], fun code h => by simp [Entry.sample, h], fun h => by simp [Entry.muteStep, h],
      fun h => by simp [Entry.muteStep, h, muteCandidate], fun h => by simp [Entry.muteStep, h, muteCandidate], ?_⟩
    have hband : (if p.weakThreshold + 15 ≤ e.q then Band.none else e.band) =
        if e.q ≤ p.weakThreshold + 14 then e.band else .none := by
      by_cases h : p.weakThreshold + 15 ≤ e.q
      · rw [if_pos h, if_neg (by omega)]
      · rw [if_neg h, if_pos (by omega)]
    simp only [Entry.bandStep, bandAfter, hband]
  · refine ⟨rfl, rfl, fun h => by simp [signalInput, h], fun h hp hb => by simp [signalInput, h, hp, hb],
      fun h hp hb => by simp [signalInput, h, hp, hb], fun h hp => by simp [signalInput, h, hp],
      fun h hp => by simp [signalInput, h, hp]⟩

end Sys2Proof.Machine
end

section
/-! A sighting of a microphone with no entry (R20, R21): the admission, and at a full table the refusal or the entry that gives way. -/

namespace Sys2Proof.Machine

/-! ## What is found, up to what the chamber was told -/

theorem State.entry?_view (s : State) (mic : Nat) : (s.entry? mic).map Entry.untold = s.view.find? fun y => y.mic == mic := by
  simp only [State.entry?, State.view, List.find?_map]
  rfl

theorem State.Told.entry?_untold {s t : State} (h : s.Told t) (mic : Nat) :
    (t.entry? mic).map Entry.untold = (s.entry? mic).map Entry.untold := by
  rw [State.entry?_view, State.entry?_view, h.view]

/-- A change of one entry leaves the others. -/
theorem State.Changed.others {s t : State} {mic m : Nat} {e : Entry} (h : s.Changed t mic e) (he : e.mic = mic) (hm : m ≠ mic) :
    (t.entry? m).map Entry.untold = (s.entry? m).map Entry.untold := by
  have hsame : ((fun y : Entry => y.mic == m) ∘ fun x => (if x.mic = mic then e else x).untold) = fun y : Entry => y.mic == m := by
    funext x
    by_cases hx : x.mic = mic
    · simp [hx, he]
    · simp [hx]
  rw [State.entry?_view, h.view, State.viewWith, List.find?_map, hsame]
  cases hf : s.entry? m with
  | none => simp [State.entry?] at hf ⊢; exact hf
  | some x =>
    have hx : x.mic ≠ mic := (State.entry?_some hf).2 ▸ hm
    simp only [State.entry?] at hf
    simp [hf, hx]

/-! ## The new entry stands at its place (R17, R20) -/

section
variable {s : State} {g : Sighting}

/-- The state with the new entry of a sighting in its table. -/
def State.admitting (g : Sighting) (s : State) : State := { s with table := insertEntry (s.newEntry g) s.table }

theorem State.admitting_table (hT : TableLaw s) (hg : 1 ≤ g.mic ∧ g.mic ≤ micMax) (hn : s.entry? g.mic = none)
    (hl : s.table.length < tableMax) : TableLaw (s.admitting g) := by
  refine ⟨insertEntry_ascending hT.ascending (State.entry?_none.mp hn), ?_, fun e he => ?_, hT.queuedSeats⟩
  · simp only [State.admitting, length_insertEntry]
    exact hl
  · rcases mem_insertEntry.mp he with rfl | he
    · exact hg
    · exact hT.seats e he

theorem State.admitting_sound (hS : SoundLaw s) : SoundLaw (s.admitting g) := fun e he => by
  rcases mem_insertEntry.mp he with rfl | he
  · rfl
  · exact hS e he

theorem find?_insertEntry {e : Entry} {mic : Nat} (h : mic ≠ e.mic) (l : List Entry) :
    (insertEntry e l).find? (fun x => x.mic == mic) = l.find? fun x => x.mic == mic := by
  have he : (e.mic == mic) = false := by simpa using h.symm
  induction l with
  | nil => simp [insertEntry, he]
  | cons y rest ih =>
    unfold insertEntry
    split
    · simp only [List.find?_cons, ih]
    · simp only [List.find?_cons_of_neg, he, Bool.false_eq_true, not_false_iff]

/-- The new entry, measured and stepped. -/
def State.admitted (g : Sighting) (s : State) : Entry :=
  s.stepped ((s.newEntry g).measure s.params s.now s.floorSet true g)

/-- An entry that reports nothing and cues nothing is left as it is by the role and cue steps. -/
theorem State.finish_quiet {mic : Nat} {e : Entry} (hT : TableLaw s) (hS : SoundLaw s) (he : s.entry? mic = some e)
    (hrole : e.role ≠ .reporter) (hset : e.role = .pending ∨ s.station = .listenOnly)
    (hcue : e.cue = 0 ∧ e.cueRefresh = .stopped)
    (htold : ∀ k, (e.record k).chamber = .unknown ∧ (e.record k).chamberAcked = false) :
    (s.finish mic).entry? mic = some (s.stepped (e.bandStep s.params)) := by
  let sighted := s.stepped (e.bandStep s.params)
  have hmic : sighted.mic = mic := (State.entry?_some he).2
  have changed : s.Changed (s.modEntry mic fun _ => sighted) mic sighted := State.modEntry_changed hT he fun _ => sighted
  have aloof : (s.modEntry mic fun _ => sighted).Aloof mic (some sighted) := by
    refine ⟨?_, fun x hx => Option.some.inj hx ▸ hrole, fun f hf k hk => ⟨sighted, rfl, ?_⟩⟩
    · exact (State.modEntry_const_found he hmic).trans
        (by rw [Entry.checked_eq (show sighted.checkGood = true from hS e (State.entry?_some he).1)])
    · have htelling : (sighted.record k).telling = (e.record k).telling :=
        (State.stepped_telling s (e.bandStep s.params) k).trans (by cases k <;> rfl)
      simp only [Record.telling, Prod.mk.injEq] at htelling
      exact if_pos ⟨htelling.1.trans (htold k).1, htelling.2.1.trans (htold k).2⟩
  let u := (s.modEntry mic fun _ => sighted).updateLost State.entryFault
  have hu : u.entry? mic = some sighted := (aloof.updateLost (changed.sound hS) State.entryFault).entry
  have hst : u.station = s.station := (changed.told (State.updateLost_told State.entryFault (changed.sound hS))).keep.2.1
  have hcompute : u.computeRole mic = u := by
    unfold State.computeRole
    rw [hu]
    refine if_neg fun ⟨_, hpending, hlisten⟩ => ?_
    exact hset.elim hpending fun h => hlisten (hst.trans h)
  have hselect : u.selectCue mic = u.modEntry mic fun x => { x with cue := 0, cueRefresh := .stopped } := by
    unfold State.selectCue
    rw [hu]
    refine if_neg (c := cued u.station sighted = true) ?_
    simp [cued, show sighted.role ≠ .reporter from hrole]
  have hstays : ({ sighted with cue := 0, cueRefresh := .stopped, checkGood := true } : Entry) = sighted := by
    rw [← hcue.1, ← hcue.2]
    exact Entry.checked_eq (show sighted.checkGood = true from hS e (State.entry?_some he).1)
  rw [State.finish, State.bandInputs_eq hT he, State.selectWarningLamps_entry?, hcompute, hselect,
    State.modEntry_found hu _ (by exact fun _ => rfl), hstays]

/-- A new entry admitted and its sighting processed: the entry, and what is left of the rest (R20). -/
theorem State.addEntry_spec (hT : TableLaw s) (hS : SoundLaw s) (hg : 1 ≤ g.mic ∧ g.mic ≤ micMax) (hn : s.entry? g.mic = none)
    (hl : s.table.length < tableMax) : let t := s.addEntry lastStep g
    (s.holding none).onlyHandOffs t ∧ t.entry? g.mic = some (s.admitted g) ∧ t.mics.Pairwise (· < ·) ∧
      t.table.length = s.table.length + 1 ∧
      ∀ mic, mic ≠ g.mic → (t.entry? mic).map Entry.untold = (s.entry? mic).map Entry.untold := by
  intro t
  let u := (s.admitting g).holding none
  have uTable : TableLaw u := (State.admitting_table hT hg hn hl).holding none
  have uSound : SoundLaw u := State.admitting_sound hS
  have hu : u.entry? g.mic = some (s.newEntry g) := uTable.entry? (mem_insertEntry.mpr (.inl rfl))
  let gauged := (s.newEntry g).gauged s.params s.now s.floorSet true g
  have hmic : gauged.mic = g.mic := Entry.gauged_mic ..
  have hgood : gauged.checkGood = true := Entry.gauged_checkGood ..
  let w := u.modEntry g.mic fun _ => gauged
  have measured : u.Changed w g.mic gauged := State.modEntry_changed uTable hu fun _ => gauged
  have wTable := measured.table hmic uTable
  have hw : w.entry? g.mic = some gauged := (State.modEntry_const_found hu hmic).trans (by rw [Entry.checked_eq hgood])
  have ht : t = w.finish g.mic := by
    have hgauged : u.workThrough ⟨g, true, 1⟩ 2 3 = w := State.workThrough_gauged (p := ⟨g, true, 1⟩) uTable hu
    have hall : u.workThrough ⟨g, true, 1⟩ 2 8 = w.workThrough ⟨g, true, 1⟩ 5 5 := by rw [State.workThrough_add _ 2 3 5, hgauged]
    exact (State.proceed_last (by simp [lastStep])).trans
      (hall.trans (State.workThrough_finish wTable (measured.sound uSound) hw))
  have whole := measured.trans hmic (State.finish_changed wTable (measured.sound uSound) hw)
  have hend : (w.sightedEnd (w.stepped (gauged.bandStep w.params))).mic = g.mic := by
    simpa [State.sightedEnd, Entry.bandStep] using hmic
  have hstart : gauged.role = (s.newEntry g).role ∧ (gauged.cue = 0 ∧ gauged.cueRefresh = .stopped) ∧
      ∀ k, gauged.record k = Record.fresh := by
    simp only [gauged]
    rw [Entry.gauged_eq]
    exact ⟨rfl, ⟨rfl, rfl⟩, fun k => by cases k <;> rfl⟩
  obtain ⟨hrole, hcue, hrecord⟩ := hstart
  have hset : gauged.role = .pending ∨ w.station = .listenOnly := by
    rw [hrole]
    by_cases hst : s.station = .listenOnly
    · exact .inr hst
    · exact .inl (if_neg hst)
  have hreports : gauged.role ≠ .reporter := by
    rw [hrole]
    unfold State.newEntry
    dsimp only
    split <;> simp
  have hfound := State.finish_quiet wTable (measured.sound uSound) hw hreports hset hcue fun k => by rw [hrecord]; exact ⟨rfl, rfl⟩
  have hlength : (w.finish g.mic).table.length = u.table.length := by
    simpa [State.view, State.viewWith] using congrArg List.length whole.view
  rw [ht]
  refine ⟨State.onlyHandOffs_trans (t := u) rfl whole.only, hfound, (whole.table hend uTable).ascending,
    hlength.trans (length_insertEntry _ _), fun mic hm => ?_⟩
  rw [whole.others hend hm]
  exact congrArg _ (find?_insertEntry (e := s.newEntry g) hm s.table)

end

/-! ## Who gives way (R21) -/

theorem oldest_ok {ok : Entry → Bool} {l : List Entry} {e : Entry} (h : oldest ok l = some e) : ok e = true := by
  induction l generalizing e with
  | nil => cases h
  | cons x rest ih =>
    unfold oldest at h
    split at h
    · split at h
      · obtain rfl := Option.some.inj h
        assumption
      · cases h
    · next f hf =>
      split at h
      · obtain rfl := Option.some.inj h
        simp_all
      · obtain rfl := Option.some.inj h
        exact ih hf

theorem oldest_none {ok : Entry → Bool} {l : List Entry} (h : ∀ e ∈ l, ok e = false) : oldest ok l = none := by
  cases ho : oldest ok l with
  | none => rfl
  | some e =>
    have hbad := h e (oldest_mem ho)
    rw [oldest_ok ho] at hbad
    cases hbad

theorem Entry.older_asymm {a b : Entry} (h : a.older b = true) : b.older a = false := by
  simp only [Entry.older, Bool.or_eq_true, Bool.and_eq_true, decide_eq_true_eq, Bool.or_eq_false_iff, Bool.and_eq_false_iff,
    decide_eq_false_iff_not] at h ⊢
  omega

/-- The entry that is older than every other one that may give way is the oldest. -/
theorem oldest_eq {ok : Entry → Bool} {l : List Entry} {v : Entry} (hv : v ∈ l) (hok : ok v = true)
    (hmin : ∀ e ∈ l, ok e = true → e ≠ v → v.older e = true) : oldest ok l = some v := by
  induction l with
  | nil => cases hv
  | cons x rest ih =>
    unfold oldest
    by_cases hr : v ∈ rest
    · rw [ih hr fun e he => hmin e (List.mem_cons_of_mem x he)]
      by_cases hx : x = v
      · simp [hx]
      · cases hxo : ok x with
        | false => simp
        | true => simp [Entry.older_asymm (hmin x (by simp) hxo hx)]
    · obtain rfl : v = x := (List.mem_cons.mp hv).resolve_right hr
      cases ho : oldest ok rest with
      | none => simp [hok]
      | some f =>
        have hf := oldest_mem ho
        simp [hok, hmin f (by simp [hf]) (oldest_ok ho) fun h => hr (h ▸ hf)]

/-! ## The taking -/

section
variable {s : State} {g : Sighting} {rest : List Sighting}

theorem State.sight_new (hn : s.entry? g.mic = none) (through : Nat) : s.sight through g = s.admitOrEvict through g := by
  simp only [State.sight, hn]

theorem State.admitOrEvict_room (hl : s.table.length < tableMax) (through : Nat) :
    s.admitOrEvict through g = s.addEntry through g := if_pos hl

/-- At a full table no entry of which is damaged the victim of R21 gives way. -/
theorem State.admitOrEvict_victim (hS : SoundLaw s) (hl : s.table.length = tableMax) {e : Entry} (hv : victim s.table = some e)
    (through : Nat) : s.admitOrEvict through g = (s.removeEntry State.entryFault e.mic).addEntry through g := by
  have hsound : (s.table.find? fun e => !e.checkGood) = none := by simpa [SoundLaw] using hS
  simp only [State.admitOrEvict, State.evictFor, hl, Nat.lt_irrefl, if_false, hsound, hv]

/-- At a full table of which no entry may give way the sighting is refused. -/
theorem State.admitOrEvict_refused (hS : SoundLaw s) (hl : s.table.length = tableMax) (hv : victim s.table = none)
    (through : Nat) : s.admitOrEvict through g = s.count .tableFull := by
  have hsound : (s.table.find? fun e => !e.checkGood) = none := by simpa [SoundLaw] using hS
  simp only [State.admitOrEvict, State.evictFor, hl, Nat.lt_irrefl, if_false, hsound, hv]

/-- The entry of R21, as the statement tells it. -/
theorem victim_eq {l : List Entry} {v : Entry} (hv : v ∈ l)
    (h : (v.presence = .covered ∧ ∀ e ∈ l, e.presence = .covered → e ≠ v → v.older e = true) ∨
      ((∀ e ∈ l, e.presence ≠ .covered) ∧ v.spent = true ∧ ∀ e ∈ l, e.spent = true → e ≠ v → v.older e = true)) :
    victim l = some v := by
  unfold victim
  obtain ⟨hc, hmin⟩ | ⟨hnone, hs, hmin⟩ := h
  · rw [oldest_eq hv (by simpa using hc) fun e he hec => hmin e he (by simpa using hec)]
  · rw [oldest_none fun e he => by simpa using hnone e he]
    exact oldest_eq hv hs hmin

theorem Entry.older_iff (a b : Entry) : a.older b = true ↔ a.lastLocal < b.lastLocal ∨ a.lastLocal = b.lastLocal ∧ a.mic < b.mic := by
  simp [Entry.older]

theorem Entry.spent_iff (e : Entry) :
    e.spent = true ↔ e.presence = .silent ∧ e.lostForget = .expired ∧ e.recSignal.state = .quiet := by
  simp [Entry.spent, and_assoc]

/-- Distinct entries on both sides of one. -/
theorem State.apart_of_split (hn : s.mics.Nodup) {pre post : List Entry} {v : Entry} (hsplit : s.table = pre ++ v :: post) :
    ∀ x ∈ pre ++ post, x.mic ≠ v.mic := fun x hx hm => by
  rw [State.mics, hsplit, (List.perm_middle.map Entry.mic).nodup_iff, List.map_cons, List.nodup_cons] at hn
  exact hn.1 (hm ▸ List.mem_map_of_mem hx)

theorem State.dropEntry_split (hn : s.mics.Nodup) {pre post : List Entry} {v : Entry} (hsplit : s.table = pre ++ v :: post) :
    (s.dropEntry v.mic).table = pre ++ post := by
  have hkeep : (pre ++ post).filter (fun x => x.mic ≠ v.mic) = pre ++ post :=
    List.filter_eq_self.mpr fun x hx => by simpa using State.apart_of_split hn hsplit x hx
  show s.table.filter (fun x => x.mic ≠ v.mic) = _
  rw [hsplit, List.filter_append, List.filter_cons_of_neg (by simp), ← List.filter_append, hkeep]

/-- A removal takes one entry out of a lawful table. -/
theorem TableLaw.length_dropEntry (hT : TableLaw s) {v : Entry} (hv : v ∈ s.table) :
    (s.dropEntry v.mic).table.length + 1 = s.table.length := by
  obtain ⟨pre, post, hsplit⟩ := List.append_of_mem hv
  rw [State.dropEntry_split hT.nodup hsplit, hsplit]
  simp [Nat.add_assoc]

end

/-- Settles O15: with room the new entry is admitted. -/
theorem sightingAdmits : Obligations.SightingAdmits := by
  unfold Obligations.SightingAdmits
  intro s g rest hT hS hu hi hn hl len quiet started entry
  let v : State := { s with intake := rest, inProcessing := none }
  have hstarted : v.newEntry g = started := by
    simp only [State.newEntry, State.presenceTimer, Params.forgetMs, Params.claimFresh, Nat.mul_comm]
    rfl
  have hadmitted : v.admitted g = entry := by rw [State.admitted, hstarted]; rfl
  have htaken : s.takeSighting 9 = v.addEntry 9 g := by
    rw [State.takeSighting_idle hu hi, State.sight_new (s := v) hn, State.admitOrEvict_room (s := v) hl]
  obtain ⟨honly, hfound, hmics, hlength, hothers⟩ := State.addEntry_spec (s := v) (hT.taken hi) hS
    (hT.queuedSeats g (hi ▸ List.mem_cons_self)) hn hl
  refine ⟨v.addEntry 9 g, congrArg _ htaken, honly, hadmitted ▸ hfound, hmics, hlength, ?_, hothers⟩
  simp only [entry, Entry.measure, Entry.gauged]
  rw [Entry.muteStep_eq, Entry.sample_eq]
  exact ⟨rfl, rfl⟩

/-- Settles O16: who gives way is the oldest. -/
theorem fullTable : Obligations.FullTable := by
  unfold Obligations.FullTable
  intro s g rest hT hS hu hi hn hl
  let u : State := { s with intake := rest, inProcessing := none }
  have uTable : TableLaw u := hT.taken hi
  have htaken : exec (.sightingTaken 9) s = .next (u.admitOrEvict 9 g) := by
    rw [← State.sight_new (s := u) hn, ← State.takeSighting_idle hu hi]
    rfl
  rw [htaken]
  refine ⟨fun hall => ?_, fun v hv hgives => ?_⟩
  · have hvictim : victim u.table = none := by
      unfold victim
      rw [oldest_none fun e he => by simpa using (hall e he).1]
      exact oldest_none fun e he => Bool.eq_false_iff.mpr fun hs => (hall e he).2 ((Entry.spent_iff e).mp hs)
    rw [State.admitOrEvict_refused (s := u) hS hl hvictim]
    rfl
  · have hvictim : victim u.table = some v := victim_eq hv (by
      simp only [Entry.older_iff, Entry.spent_iff]
      obtain hcovered | ⟨hnone, hs, hf, hq, hmin⟩ := hgives
      · exact .inl hcovered
      · exact .inr ⟨hnone, ⟨hs, hf, hq⟩, fun e he ⟨hes, hef, heq⟩ => hmin e he hes hef heq⟩)
    rw [State.admitOrEvict_victim (s := u) hS hl hvictim]
    let t := u.removeEntry State.entryFault v.mic
    have follows : u.Follows Entry.place t := State.removeEntry_follows v.mic u
    obtain ⟨told, aloof⟩ := State.removeEntry_spec (s := u) (mic := v.mic) (SoundLaw.dropEntry hS v.mic) State.entryFault
    have hlength : t.table.length + 1 = 96 := (congrArg (· + 1) told.occupancy).trans ((uTable.length_dropEntry hv).trans hl)
    obtain ⟨-, hfound, -, hmore, hothers⟩ := State.addEntry_spec (follows.tableLaw uTable) (follows.sound hS)
      (hT.queuedSeats g (hi ▸ List.mem_cons_self)) (follows.gone hn) (show t.table.length < 96 by omega)
    have hleft : ∀ mic, mic ≠ v.mic → (t.entry? mic).map Entry.untold = (s.entry? mic).map Entry.untold := fun mic hm => by
      rw [told.entry?_untold, State.entry?_dropEntry, if_neg hm]
      rfl
    have hne : v.mic ≠ g.mic := State.entry?_none.mp hn v hv
    refine ⟨t.addEntry 9 g, rfl, ?_, Option.isSome_iff_exists.mpr ⟨_, hfound⟩, hmore.trans hlength, fun mic hg hv => (hothers mic hg).trans (hleft mic hv)⟩
    have hgone : t.entry? v.mic = none := aloof.entry
    exact Option.map_eq_none_iff.mp ((hothers v.mic hne).trans (by rw [hgone]; rfl))

end Sys2Proof.Machine
end

section
/-! Integrity faults (R35, R36, R180, R181): what one does, who finds it, and how each goes on. -/

namespace Sys2Proof.Machine

/-! ## A microphone without an entry through the rest of the operations -/

namespace State.Aloof

variable {mic m : Nat} {o : Option Entry} {s : State}

theorem offerCue (h : s.Aloof mic o) (c : Cue) : (s.offerCue c).Aloof mic o := by
  unfold State.offerCue
  split <;> exact h.frame rfl

/-- A cue selection of another microphone. -/
theorem selectCue (h : s.Aloof mic o) (hm : m ≠ mic) : (s.selectCue m).Aloof mic o := by
  unfold State.selectCue
  split
  · exact h
  · split
    · split
      · exact h
      · exact (h.modEntry hm (by exact fun _ => rfl)).offerCue _
    · exact h.modEntry hm (by exact fun _ => rfl)

/-- Another microphone's entry made FOLLOWER. -/
theorem makeFollower (h : s.Aloof mic o) (hm : m ≠ mic) : (s.makeFollower m).Aloof mic o := by
  unfold State.makeFollower
  split
  · exact h
  · split
    · exact ((((h.modEntry hm (f := fun e => { e with role := .follower }) fun _ => rfl).discardWhere (Frame.warnOf m)).modEntry hm
        (f := Entry.stopRepeats) fun _ => rfl)).selectCue hm
    · exact h.modEntry hm (by exact fun _ => rfl)

/-- The inputs of another microphone. -/
theorem giveInputs (h : s.Aloof mic o) (hm : m ≠ mic) : (s.giveInputs m).Aloof mic o := by
  have one : ∀ {u : State} (k : Kind), u.Aloof mic o → (u.giveInput m k).Aloof mic o := fun k hu => by
    unfold State.giveInput
    split
    · exact hu
    · exact hu.modEntry hm fun x => by simp
  exact one .signal (one .mute (one .battery h))

theorem zoneCause (h : s.Aloof mic o) (cause : ZoneCause) : (s.zoneCause cause).Aloof mic o := by
  unfold State.zoneCause
  extract_lets asked
  have hasked : asked.Aloof mic o := (h.frame (t := { s with zone := .inForce cause }) rfl).requestStation false
  exact (hasked.frame (t := { asked with zoneRepeat := asked.after asked.params.repeatMs }) rfl).zoneHandOff

theorem feedCauseEnds (h : s.Aloof mic o) (hs : SoundLaw s) (fx : Nat → State → State) : (s.feedCauseEnds fx).Aloof mic o := by
  unfold State.feedCauseEnds
  split
  · split
    · exact h.zoneCause _
    · exact h.zoneEnd hs fx
  · exact h

theorem stationHandOff (h : s.Aloof mic o) : s.stationHandOff.Aloof mic o :=
  (h.selectWarningLamps.selectLamp _).frame rfl

end State.Aloof

/-! ## Entries changed in their places, and hand-offs -/

theorem Entry.mic_of_untold {x y : Entry} (h : y.untold = x.untold) : y.mic = x.mic := by
  simpa using congrArg Entry.mic h

theorem State.Told.mem {s t : State} (h : s.Told t) {y : Entry} (hy : y ∈ t.table) : ∃ x ∈ s.table, y.untold = x.untold := by
  obtain ⟨x, hx, hxy⟩ := List.mem_map.mp (h.view ▸ List.mem_map_of_mem hy : y.untold ∈ s.view)
  exact ⟨x, hx, hxy.symm⟩

theorem State.Changed.mem {s t : State} {mic : Nat} {e : Entry} (h : s.Changed t mic e) {y : Entry} (hy : y ∈ t.table) :
    ∃ x ∈ s.table, y.untold = (if x.mic = mic then e else x).untold := by
  obtain ⟨x, hx, hxy⟩ := List.mem_map.mp (h.view ▸ List.mem_map_of_mem hy : y.untold ∈ s.viewWith mic e)
  exact ⟨x, hx, hxy.symm⟩

theorem State.view_mics (s : State) : s.mics = s.view.map Entry.mic := by
  simp only [State.mics, State.view, List.map_map]
  rfl

theorem State.Changed.mics {s t : State} {mic : Nat} {e : Entry} (h : s.Changed t mic e) (he : e.mic = mic) : t.mics = s.mics := by
  rw [State.view_mics, h.view]
  simp only [State.viewWith, State.mics, List.map_map]
  refine List.map_congr_left fun x _ => ?_
  by_cases hx : x.mic = mic <;> simp [hx, he]

/-- Entries have changed in their places, with hand-offs, none of them that of `mic`, which has none; each whose mic ID is not among
`rest` is FOLLOWER. -/
structure State.Settles (mic : Nat) (s : State) (rest : List Nat) (t : State) : Prop where
  only : s.onlyHandOffs t
  mics : t.mics = s.mics
  table : TableLaw t
  sound : SoundLaw t
  aloof : t.Aloof mic none
  quiet : ∀ x ∈ t.table, x.mic ∈ rest ∨ x.role = .follower

namespace State.Settles

variable {mic : Nat} {s t u : State} {rest : List Nat}

theorem told (h : s.Settles mic rest t) (k : t.Told u) (ha : u.Aloof mic none) : s.Settles mic rest u where
  only := State.onlyHandOffs_trans h.only k.only
  mics := k.mics.trans h.mics
  table := k.table h.table
  sound := k.sound h.sound
  aloof := ha
  quiet := fun y hy => by
    obtain ⟨x, hx, hyx⟩ := k.mem hy
    rw [Entry.mic_of_untold hyx, Entry.role_of_untold hyx]
    exact h.quiet x hx

/-- The entry of a visit changes; as a FOLLOWER it is one entry less. -/
theorem changed {m : Nat} {e : Entry} (h : s.Settles mic (m :: rest) t) (k : t.Changed u m e) (hm : e.mic = m)
    (hrole : e.role = .follower) (ha : u.Aloof mic none) : s.Settles mic rest u where
  only := State.onlyHandOffs_trans h.only k.only
  mics := (k.mics hm).trans h.mics
  table := k.table hm h.table
  sound := k.sound h.sound
  aloof := ha
  quiet := fun y hy => by
    obtain ⟨x, hx, hyx⟩ := k.mem hy
    have hymic : y.mic = (if x.mic = m then e else x).mic := Entry.mic_of_untold hyx
    have hyrole : y.role = (if x.mic = m then e else x).role := Entry.role_of_untold hyx
    split at hyrole <;> rename_i hxm
    · exact .inr (hyrole.trans hrole)
    · rw [if_neg hxm] at hymic
      rw [hymic, hyrole]
      exact (h.quiet x hx).imp_left fun hmem => (List.mem_cons.mp hmem).resolve_left hxm

/-- The entry of a visit is not that of `mic`. -/
theorem other {m : Nat} {e : Entry} (h : s.Settles mic rest t) (he : t.entry? m = some e) : m ≠ mic := fun hm => by
  have := h.aloof.entry
  rw [← hm, he] at this
  cases this

/-- With no bad entry to find, a sweep is its visits. -/
theorem sweep {fx act : Nat → State → State} (h : s.Settles mic t.mics t)
    (hact : ∀ m rest u e, u.entry? m = some e → s.Settles mic (m :: rest) u → s.Settles mic rest (act m u)) :
    s.Settles mic [] (t.sweep fx act) := by
  refine State.sweep_remaining (I := fun rest u => s.Settles mic rest u) (fun m rest u hgone hu => ?_)
    (fun m rest u e he hbad hu => ?_) (fun m rest u e he _ hu => hact m rest u e he hu) h
  · refine ⟨hu.only, hu.mics, hu.table, hu.sound, hu.aloof, fun x hx => (hu.quiet x hx).imp_left fun hmem => ?_⟩
    exact (List.mem_cons.mp hmem).resolve_left (State.entry?_none.mp hgone x hx)
  · have := hu.sound e (State.entry?_some he).1
    simp [hbad] at this

/-- A sweep over entries that are all FOLLOWER. -/
theorem settled_sweep {fx act : Nat → State → State} (h : s.Settles mic [] t)
    (hact : ∀ m u e, u.entry? m = some e → s.Settles mic [] u → s.Settles mic [] (act m u)) : s.Settles mic [] (t.sweep fx act) := by
  refine State.sweep_keeps (P := s.Settles mic []) (fun m u e he hbad hu => ?_) (fun m u e he _ hu => hact m u e he hu) h
  have := hu.sound e (State.entry?_some he).1
  simp [hbad] at this

theorem weaken (h : s.Settles mic [] t) (rest : List Nat) : s.Settles mic rest t :=
  ⟨h.only, h.mics, h.table, h.sound, h.aloof, fun x hx => (h.quiet x hx).imp_left fun hmem => by cases hmem⟩

theorem station (h : s.Settles mic rest t) : t.station = s.station := by
  have h1 := h.only
  unfold State.onlyHandOffs at h1
  rw [h1]

theorem follower (h : s.Settles mic [] t) {x : Entry} (hx : x ∈ t.table) : x.role = .follower :=
  (h.quiet x hx).resolve_left (by simp)

/-- One entry of the role sweep (R114). -/
theorem quietEntry {m : Nat} {e : Entry} (h : s.Settles mic (m :: rest) t) (he : t.entry? m = some e) :
    s.Settles mic rest (t.quietEntry m) := by
  have hm := (State.entry?_some he).2
  have stopping : Entry.Unheeding fun x => { x with pendingTimer := .stopped, takeover := .stopped } := fun _ => rfl
  have followed := State.makeFollower_changed h.table he
  have hmic : (if e.role = .reporter then t.recued { e with role := .follower } else { e with role := .follower }).mic = m := by
    split <;> simp [hm]
  have hrole : (if e.role = .reporter then t.recued { e with role := .follower } else { e with role := .follower }).role =
      .follower := by
    split <;> simp
  have quieted := followed.andThen hmic (by simp [he]) stopping fun x hx =>
    State.modEntry_changed (followed.table hmic h.table) hx fun x => { x with pendingTimer := .stopped, takeover := .stopped }
  exact h.changed quieted hmic hrole ((h.aloof.makeFollower (h.other he)).modEntry (h.other he) (by exact fun _ => rfl))

/-- One entry of the resume sweep (R30). -/
theorem resumeEntry {m : Nat} {e : Entry} (h : s.Settles mic [] t) (he : t.entry? m = some e) (fx : Nat → State → State) :
    s.Settles mic [] (t.resumeEntry fx m) := by
  have hm := (State.entry?_some he).2
  have resumed := State.modEntry_changed h.table he (Entry.mapPresence (Timer.resume t.now))
  have given := resumed.giveInputs hm (by simp [he]) h.table
  have aloof := (h.aloof.modEntry (h.other he) (f := Entry.mapPresence (Timer.resume t.now)) fun _ => rfl).giveInputs (h.other he)
  exact (h.weaken [m]).changed (given.told (State.updateLost_told fx (given.sound h.sound))) hm
    (show e.role = .follower from h.follower (State.entry?_some he).1) (aloof.updateLost (given.sound h.sound) fx)

end State.Settles

/-! ## Into LISTEN_ONLY (R181) -/

/-- The report of a station whose hand-offs leave the zone. -/
theorem State.Told.composeStation {s t : State} (h : s.Told t) (hz : t.zone = s.zone) : composeStation t = composeStation s := by
  obtain ⟨-, hst, -, -, hsource, -, -, -, -, -, -, hfault, -⟩ := h.keep
  obtain ⟨-, -, -, hpartial⟩ := h.keep_feed
  simp only [Machine.composeStation, hst, hz, h.occupancy, hsource, hpartial, hfault]

theorem State.stationHandOff_attn_listenOnly {s : State} (h : s.station = .listenOnly) : s.stationHandOff.attn = true := by
  simp [State.stationHandOff, State.selectAllLamps, State.selectWarningLamps, State.attnValue, h]

/-- What a station that enters LISTEN_ONLY with a sound table becomes, `mic` having no entry: every entry FOLLOWER, ATTN asserted
and its STATION frame queued. -/
theorem State.enterListenOnly_spec {s : State} {mic : Nat} (hT : TableLaw s) (hS : SoundLaw s) (ha : s.Aloof mic none)
    (fx : Nat → State → State) : let t := s.enterListenOnly fx
    State.Settles mic { s with station := .listenOnly, joining := .stopped, claimRound := .stopped } [] t ∧ t.attn = true ∧
      (t.tx.filter fun f => f.frame.isStation) = [⟨.station (composeStation t), 0⟩] := by
  unfold State.enterListenOnly
  extract_lets quiet emptied stopped resumed t
  let entered : State := { s with station := .listenOnly, joining := .stopped }
  have start : entered.Settles mic entered.mics entered :=
    ⟨rfl, rfl, ⟨hT.ascending, hT.atMost96, hT.seats, hT.queuedSeats⟩, hS, ha.frame rfl, fun x hx => .inl (List.mem_map_of_mem hx)⟩
  have hquiet : entered.Settles mic [] quiet := start.sweep fun m rest u e he hu => hu.quietEntry he
  let base : State := { entered with claimRound := .stopped }
  have hbase : base.Settles mic [] { quiet with claimRound := .stopped } := by
    refine ⟨?_, hquiet.mics, ?_, hquiet.sound, hquiet.aloof.frame rfl, hquiet.quiet⟩
    · have honly := hquiet.only
      unfold State.onlyHandOffs at honly ⊢
      rw [honly]
    · exact ⟨hquiet.table.ascending, hquiet.table.atMost96, hquiet.table.seats, hquiet.table.queuedSeats⟩
  have hemptied : base.Settles mic [] emptied := hbase.told (State.discardWhere_told _ _) (hbase.aloof.discardWhere _)
  have hstopped : base.Settles mic [] stopped := hemptied.told (u := stopped) ⟨rfl, rfl, id⟩ (hemptied.aloof.frame rfl)
  have hresumed : base.Settles mic [] resumed := by
    unfold resumed
    split
    · have swept : base.Settles mic [] (stopped.resumeSweep fx) :=
        hstopped.settled_sweep fun m u e he hu => hu.resumeEntry he fx
      exact swept.told (State.feedCauseEnds_told fx swept.sound) (swept.aloof.feedCauseEnds swept.sound fx)
    · exact hstopped
  have asked := hresumed.told (State.requestStation_told false resumed) (hresumed.aloof.requestStation false)
  have ended := asked.told (State.stationHandOff_told _) asked.aloof.stationHandOff
  refine ⟨ended, State.stationHandOff_attn_listenOnly asked.station, ?_⟩
  have hsends : resumed.station.sendsStation = true := by rw [hresumed.station]; rfl
  have hreport : composeStation t = composeStation resumed :=
    ((State.requestStation_told false resumed).trans (State.stationHandOff_told _)).composeStation (by simp)
  rw [hreport, State.stationHandOff_tx]
  exact State.requestStation_filter hsends false

/-! ## What a fault does (R36, R180) -/

/-- What hand-offs keep of the station. -/
theorem State.onlyHandOffs_keep {s t : State} (h : s.onlyHandOffs t) : t.station = s.station ∧ t.fault = s.fault ∧
    t.window = s.window ∧ t.source = s.source ∧ t.partialImage = s.partialImage ∧
    t.counters.integrityFaults = s.counters.integrityFaults := by
  unfold State.onlyHandOffs at h
  rw [h]
  exact ⟨rfl, rfl, rfl, rfl, rfl, rfl⟩

theorem State.Told.count_integrityFaults {s t : State} (h : s.Told t) :
    (s.count .integrityFaults).Told (t.count .integrityFaults) := by
  refine ⟨?_, h.view, h.sound⟩
  have h1 := h.only
  unfold State.onlyHandOffs at h1 ⊢
  rw [h1]
  rfl

section
variable {s : State} {mic : Nat} {e : Entry}

/-- The state that a fault leaves but for hand-offs, the fault not yet reported. -/
def State.faulted (mic : Nat) (s : State) : State := (s.dropEntry mic).count .integrityFaults

/-- A fault is the removal, the count and the report; faults its own sweeps would find are one fewer than the entries. -/
theorem State.entryFault_eq (he : s.entry? mic = some e) : ∃ fx : Nat → State → State,
    s.entryFault mic = ((s.removeEntry fx mic).count .integrityFaults).faultReport fx mic := by
  obtain ⟨hmem, -⟩ := State.entry?_some he
  cases hl : s.table.length with
  | zero => simp [List.length_eq_zero_iff.mp hl] at hmem
  | succ n => exact ⟨integrityFault n, by rw [State.entryFault, hl]; rfl⟩

/-- The removal and the count of a fault in a table no other entry of which is damaged. -/
theorem State.removeEntry_counted (hs : SoundLaw (s.dropEntry mic)) (fx : Nat → State → State) :
    (s.faulted mic).Told ((s.removeEntry fx mic).count .integrityFaults) ∧
      ((s.removeEntry fx mic).count .integrityFaults).Aloof mic none := by
  obtain ⟨told, aloof⟩ := State.removeEntry_spec hs fx
  exact ⟨told.count_integrityFaults, aloof.frame rfl⟩

/-- The report of a fault by the state of the station and the window (R180, R181). -/
theorem State.faultReport_first (fx : Nat → State → State) (hst : s.station ≠ .starting ∧ s.station ≠ .listenOnly)
    (hw : s.window.isRunning = false) :
    s.faultReport fx mic = State.requestStation false { s with fault := some (.table mic), window := s.after windowMs } := by
  obtain ⟨hstarting, hlisten⟩ := hst
  unfold State.faultReport
  rw [hw]
  cases hs : s.station
  case starting => exact absurd hs hstarting
  case listenOnly => exact absurd hs hlisten
  all_goals rfl

theorem State.faultReport_second (fx : Nat → State → State) (hst : s.station ≠ .starting ∧ s.station ≠ .listenOnly)
    (hw : s.window.isRunning = true) :
    s.faultReport fx mic = State.enterListenOnly fx { s with fault := some .doubleFault, window := .stopped } := by
  obtain ⟨hstarting, hlisten⟩ := hst
  unfold State.faultReport
  rw [hw]
  cases hs : s.station
  case starting => exact absurd hs hstarting
  case listenOnly => exact absurd hs hlisten
  all_goals rfl

theorem State.faultReport_listenOnly (fx : Nat → State → State) (hst : s.station = .listenOnly) :
    s.faultReport fx mic = s.requestStation false := by
  simp only [State.faultReport, hst]

/-- The first fault, and a fault in LISTEN_ONLY: the record and the window as `fault` and `window` say, and a STATION request. -/
theorem State.requestStation_faulted {c d : State} (told : d.Told c) (aloof : c.Aloof mic none) (fault : Option FaultCause)
    (window : Timer) : let t := State.requestStation false { c with fault := fault, window := window }
    State.Told { d with fault := fault, window := window } t ∧ t.Aloof mic none ∧
      (d.station.sendsStation = true → (t.tx.filter fun f => f.frame.isStation) = [⟨.station (composeStation t), 0⟩]) := by
  intro t
  have reported : State.Told { d with fault := fault, window := window } { c with fault := fault, window := window } := by
    refine ⟨?_, told.view, told.sound⟩
    have h1 := told.only
    unfold State.onlyHandOffs at h1 ⊢
    rw [h1]
  have asked := State.requestStation_told false { c with fault := fault, window := window }
  have listening : State.Aloof mic none { c with fault := fault, window := window } := aloof.frame rfl
  refine ⟨reported.trans asked, listening.requestStation false, fun hsends => ?_⟩
  rw [asked.composeStation (by simp)]
  exact State.requestStation_filter (by rw [← told.keep.2.1] at hsends; exact hsends) false

/-- A fault in a station that reports it and has no window open (R180). -/
theorem State.entryFault_first (he : s.entry? mic = some e) (hs : SoundLaw (s.dropEntry mic))
    (hst : s.station ≠ .starting ∧ s.station ≠ .listenOnly) (hw : s.window.isRunning = false) : let t := s.entryFault mic
    State.Told { s.faulted mic with fault := some (.table mic), window := .running (s.now + 60000) } t ∧ t.Aloof mic none ∧
      (s.station ≠ .joining → (t.tx.filter fun f => f.frame.isStation) = [⟨.station (composeStation t), 0⟩]) := by
  intro t
  obtain ⟨fx, ht⟩ := State.entryFault_eq he
  obtain ⟨told, aloof⟩ := State.removeEntry_counted hs fx
  generalize (s.removeEntry fx mic).count .integrityFaults = c at told aloof ht
  obtain ⟨hnow, hstation, -, -, -, -, -, -, -, -, -, -, hwindow⟩ := told.keep
  have hreport : t = State.requestStation false { c with fault := some (.table mic), window := .running (s.now + 60000) } := by
    have hopen : c.window.isRunning = false := hwindow ▸ hw
    have hafter : c.after windowMs = .running (s.now + 60000) := by rw [State.after, hnow]; rfl
    rw [show t = _ from ht, State.faultReport_first fx (hstation ▸ hst) hopen, hafter]
  obtain ⟨htold, haloof, hfilter⟩ := State.requestStation_faulted told aloof (some (.table mic)) (.running (s.now + 60000))
  rw [hreport]
  refine ⟨htold, haloof, fun hjoining => hfilter ?_⟩
  show s.station.sendsStation = true
  cases hs : s.station
  case starting => exact absurd hs hst.1
  case joining => exact absurd hs hjoining
  all_goals rfl

/-- A fault in LISTEN_ONLY leaves the record and the window (R181). -/
theorem State.entryFault_listenOnly (he : s.entry? mic = some e) (hs : SoundLaw (s.dropEntry mic)) (hst : s.station = .listenOnly) :
    let t := s.entryFault mic
    (s.faulted mic).Told t ∧ t.Aloof mic none ∧
      (t.tx.filter fun f => f.frame.isStation) = [⟨.station (composeStation t), 0⟩] := by
  intro t
  obtain ⟨fx, ht⟩ := State.entryFault_eq he
  obtain ⟨told, aloof⟩ := State.removeEntry_counted hs fx
  generalize (s.removeEntry fx mic).count .integrityFaults = c at told aloof ht
  obtain ⟨-, hstation, -, -, -, -, -, -, -, -, -, hfault, hwindow⟩ := told.keep
  have hkept : ({ c with fault := (s.faulted mic).fault, window := (s.faulted mic).window } : State) = c := by
    rw [← hfault, ← hwindow]
  obtain ⟨htold, haloof, hfilter⟩ := State.requestStation_faulted told aloof (s.faulted mic).fault (s.faulted mic).window
  rw [hkept] at htold haloof hfilter
  rw [show t = _ from ht, State.faultReport_listenOnly fx (hstation.trans hst)]
  refine ⟨htold, haloof, hfilter ?_⟩
  show s.station.sendsStation = true
  rw [hst]
  rfl

/-- A second fault inside the window sends the station into LISTEN_ONLY (R180, R181). -/
theorem State.entryFault_second (hT : TableLaw s) (he : s.entry? mic = some e) (hs : SoundLaw (s.dropEntry mic))
    (hst : s.station ≠ .starting ∧ s.station ≠ .listenOnly) (hw : s.window.isRunning = true) : let t := s.entryFault mic
    State.Settles mic { s.faulted mic with
      fault := some .doubleFault, window := .stopped, station := .listenOnly, joining := .stopped, claimRound := .stopped } [] t ∧
      t.attn = true ∧ (t.tx.filter fun f => f.frame.isStation) = [⟨.station (composeStation t), 0⟩] := by
  intro t
  obtain ⟨fx, ht⟩ := State.entryFault_eq he
  obtain ⟨told, aloof⟩ := State.removeEntry_counted hs fx
  generalize (s.removeEntry fx mic).count .integrityFaults = c at told aloof ht
  obtain ⟨-, hstation, -, -, -, -, -, -, -, -, -, -, hwindow⟩ := told.keep
  have dropped : TableLaw (s.dropEntry mic) := ((State.Follows.refl Entry.place s).dropEntry mic).tableLaw hT
  have cTable : TableLaw c := told.table ⟨dropped.ascending, dropped.atMost96, dropped.seats, dropped.queuedSeats⟩
  let q : State := { c with fault := some .doubleFault, window := .stopped }
  have qTable : TableLaw q := ⟨cTable.ascending, cTable.atMost96, cTable.seats, cTable.queuedSeats⟩
  rw [show t = _ from ht, State.faultReport_second fx (hstation ▸ hst) (hwindow ▸ hw)]
  obtain ⟨settles, hattn, hfilter⟩ := State.enterListenOnly_spec (s := q) qTable (told.sound hs) (aloof.frame rfl) fx
  have entered : State.onlyHandOffs
      { s.faulted mic with
        fault := some .doubleFault, window := .stopped, station := .listenOnly, joining := .stopped, claimRound := .stopped }
      { c with
        fault := some .doubleFault, window := .stopped, station := .listenOnly, joining := .stopped, claimRound := .stopped } := by
    have h1 := told.only
    unfold State.onlyHandOffs at h1 ⊢
    rw [h1]
  exact ⟨⟨State.onlyHandOffs_trans entered settles.only, settles.mics.trans told.mics, settles.table, settles.sound, settles.aloof,
    settles.quiet⟩, hattn, hfilter⟩

end

/-! ## The obligation -/

/-- What a fault does (the first clause of O49), by the state of the station and the window. -/
theorem State.entryFault_effect {s : State} {mic : Nat} {e : Entry} (hT : TableLaw s) (he : s.entry? mic = some e)
    (hgood : ∀ x ∈ s.table, x.mic ≠ mic → x.checkGood = true) (hst : s.station ≠ .starting) : let t := s.entryFault mic
    t.entry? mic = none ∧ t.table.map Entry.mic = (s.table.filter fun x => x.mic ≠ mic).map Entry.mic ∧
      t.counters.integrityFaults = min 65535 (s.counters.integrityFaults + 1) ∧ (∀ f ∈ t.tx, f.frame.warnOf mic = false) ∧
      (s.station ≠ .joining ∨ s.window.isRunning = true → (t.tx.filter fun f => f.frame.isStation) =
        [⟨.station ⟨t.station, t.zone, t.table.length, s.source, s.partialImage, t.fault⟩, 0⟩]) ∧
      (s.station ≠ .listenOnly → s.window.isRunning = false → t.station = s.station ∧ t.fault = some (.table mic) ∧
        t.window = .running (s.now + 60000) ∧
        t.view = (s.table.filter fun x => x.mic ≠ mic).map Entry.untold) ∧
      (s.station ≠ .listenOnly → s.window.isRunning = true → t.station = .listenOnly ∧ t.fault = some .doubleFault ∧
        t.window = .stopped ∧ t.attn = true ∧ ∀ x ∈ t.table, x.role = .follower) ∧
      (s.station = .listenOnly → t.station = .listenOnly ∧ t.fault = s.fault ∧ t.window = s.window) := by
  intro t
  have hs : SoundLaw (s.dropEntry mic) := fun x hx => by
    obtain ⟨hx, hm⟩ := List.mem_filter.mp hx
    exact hgood x hx (by simpa using hm)
  have report : ∀ {d : State}, d.onlyHandOffs t → d.source = s.source → d.partialImage = s.partialImage →
      composeStation t = ⟨t.station, t.zone, t.table.length, s.source, s.partialImage, t.fault⟩ := fun honly hsource hpartial => by
    obtain ⟨-, -, -, htsource, htpartial, -⟩ := State.onlyHandOffs_keep honly
    rw [composeStation, htsource, htpartial, hsource, hpartial]
  by_cases hlisten : s.station = .listenOnly
  · obtain ⟨told, aloof, hfilter⟩ := State.entryFault_listenOnly he hs hlisten
    obtain ⟨hstation, hfault, hwindow, -, -, hcount⟩ := State.onlyHandOffs_keep told.only
    refine ⟨aloof.entry, told.mics, hcount, aloof.no_warn, fun _ => ?_, fun h => absurd hlisten h, fun h => absurd hlisten h,
      fun _ => ⟨hstation.trans hlisten, hfault, hwindow⟩⟩
    rw [hfilter, report told.only rfl rfl]
  · cases hw : s.window.isRunning with
    | false =>
      obtain ⟨told, aloof, hfilter⟩ := State.entryFault_first he hs ⟨hst, hlisten⟩ hw
      obtain ⟨hstation, hfault, hwindow, -, -, hcount⟩ := State.onlyHandOffs_keep told.only
      refine ⟨aloof.entry, told.mics, hcount, aloof.no_warn, fun h => ?_,
        fun _ _ => ⟨hstation, hfault, hwindow, told.view⟩, fun _ h => absurd h (by simp), fun h => absurd h hlisten⟩
      rw [hfilter (h.resolve_right (by simp)), report told.only rfl rfl]
    | true =>
      obtain ⟨settles, hattn, hfilter⟩ := State.entryFault_second hT he hs ⟨hst, hlisten⟩ hw
      obtain ⟨hstation, hfault, hwindow, -, -, hcount⟩ := State.onlyHandOffs_keep settles.only
      refine ⟨settles.aloof.entry, settles.mics, hcount, settles.aloof.no_warn, fun _ => ?_, fun _ h => absurd h (by simp),
        fun _ _ => ⟨hstation, hfault, hwindow, hattn, fun x hx => settles.follower hx⟩, fun h => absurd h hlisten⟩
      rw [hfilter, report settles.only rfl rfl]

end Sys2Proof.Machine
end

section
/-! Who finds an integrity fault and how each goes on (R35, R36), and the end of the integrity window (R180). -/

namespace Sys2Proof.Machine

section
variable {s : State} {mic : Nat} {e : Entry}

/-! ## The finders (R36) -/

theorem State.verified_faulty (he : s.entry? mic = some e) (hbad : e.checkGood = false) (fx : Nat → State → State)
    (act : Entry → State → State) : s.verified fx mic act = fx mic s := by
  simp [State.verified, he, hbad]

/-- A due expiry of a damaged entry ends in its fault. -/
theorem State.expiry_faulty (he : s.entry? mic = some e) (hbad : e.checkGood = false) {timer : Entry → Timer}
    (hd : (timer e).isDue s.now = true) (act : Entry → State → State) : s.expiry mic timer act = s.entryFault mic := by
  simp only [State.expiry, he, hd, if_true]
  exact State.verified_faulty he hbad _ act

/-- A frame taken from the head of the receive queue. -/
theorem State.dispatch_eq {source : Nat} {body : RxBody} {rest : List RxFrame} (hi : s.inDispatch = none)
    (hrx : s.rx = ⟨source, body⟩ :: rest) {act : Nat → RxBody → Option (State → State)} {work : State → State}
    (hact : act source body = some work) :
    s.dispatch act = { work { s with rx := rest, inDispatch := some ⟨source, body⟩ } with inDispatch := none } := by
  simp only [State.dispatch, hi, hrx, hact]

/-- A sweep visits the entries in turn, each verified (R35). -/
theorem State.sweep_eq (fx act : Nat → State → State) (s : State) :
    s.sweep fx act = s.mics.foldl (fun u mic => match u.entry? mic with
      | none => u
      | some e => if e.checkGood then act mic u else fx mic u) s := rfl

/-! ## The floor sweep past a fault (R90) -/

/-- What the floor sweep makes of an entry while the floor is STALE: its candidate recomputed, and the MUTE input UNKNOWN. -/
def Entry.refloored (p : Params) (now : Nat) (floorSet : List Nat) (x : Entry) : Entry :=
  { x with
    muteCand := muteCandidate floorSet x.mic x.mute
    recMute := x.recMute.step p now .mute .unknown }

theorem Entry.refloored_unheeding (p : Params) (now : Nat) (floorSet : List Nat) :
    Entry.Unheeding (Entry.refloored p now floorSet) := fun x => by
  simp only [Entry.refloored, Entry.untold, Record.step_untold]
  rfl

/-- Two changes that agree on the entry of `mic` are one. -/
theorem State.modEntry_congr (s : State) {f g : Entry → Entry} (h : ∀ x, x.mic = mic → ({ f x with checkGood := true } : Entry) = { g x with checkGood := true }) :
    s.modEntry mic f = s.modEntry mic g := by
  unfold State.modEntry State.mapEntry
  congr 1
  refine List.map_congr_left fun x _ => ?_
  split
  · exact h x ‹_›
  · rfl

/-- A visit of the floor sweep is one exact change of its entry. -/
theorem State.floorEntry_eq (hf : s.floor = .stale) (he : s.entry? mic = some e) :
    s.floorEntry mic = s.modEntry mic (Entry.refloored s.params s.now s.floorSet) := by
  have hfound := State.modEntry_found he (fun x => { x with muteCand := muteCandidate s.floorSet mic x.mute }) fun _ => rfl
  have hinput : ∀ x, muteInput s.station s.floor x = .unknown := fun x => if_pos (.inr (.inl hf))
  have hgiven : s.floorEntry mic = (s.modEntry mic fun x => { x with muteCand := muteCandidate s.floorSet mic x.mute }).modRecord mic
      .mute (Record.step s.params s.now .mute .unknown) := by
    rw [State.floorEntry, State.giveInput]
    simp only [hfound]
    rw [← hinput]
    rfl
  rw [hgiven, State.modRecord, State.modEntry_modEntry _ _ (by exact fun _ => rfl)]
  refine State.modEntry_congr s fun x hx => ?_
  subst hx
  rfl

/-- Over entries that are not damaged the visits are made in their places, `done` before them and `rest` behind. -/
theorem State.floorVisits {fx : Nat → State → State} (todo : List Entry) : ∀ {s : State} {done rest : List Entry},
    s.floor = .stale → s.table = done ++ (todo ++ rest) → s.mics.Nodup → (∀ x ∈ todo, x.checkGood = true) →
      (todo.map Entry.mic).foldl (fun u mic => u.verified fx mic fun _ => State.floorEntry mic) s =
        { s with table := done ++ (todo.map (Entry.refloored s.params s.now s.floorSet) ++ rest) } := by
  induction todo with
  | nil =>
    intro s done rest _ htable _ _
    exact congrArg (fun l => { s with table := l }) htable
  | cons x todo ih =>
    intro s done rest hf htable hnodup hgood
    let F := Entry.refloored s.params s.now s.floorSet
    have hsplit : s.table = done ++ x :: (todo ++ rest) := htable
    have hapart := State.apart_of_split hnodup hsplit
    have hx : s.entry? x.mic = some x := State.entry?_middle hsplit fun y hy => hapart y (by simp [hy])
    have hxgood : x.checkGood = true := hgood x (by simp)
    have hvisit : s.verified fx x.mic (fun _ => State.floorEntry x.mic) = s.modEntry x.mic F := by
      rw [← State.floorEntry_eq hf hx]
      simp [State.verified, hx, hxgood]
    have htable' : (s.modEntry x.mic F).table = (done ++ [F x]) ++ (todo ++ rest) := by
      rw [State.modEntry_middle hsplit (fun y hy => hapart y (by simp [hy])) (fun y hy => hapart y (List.mem_append_right _ hy)),
        Entry.checked_eq (show (F x).checkGood = true from hxgood)]
      simp
    have hmics : (s.modEntry x.mic F).mics = s.mics := State.modEntry_mics _ _ _ fun _ => rfl
    rw [List.map_cons, List.foldl_cons, hvisit]
    refine (ih (s := s.modEntry x.mic F) hf htable' (hmics ▸ hnodup) fun y hy => hgood y (by simp [hy])).trans ?_
    simp only [List.append_assoc, List.singleton_append]
    rfl

/-- A floor sweep that finds one damaged entry at the first fault: the entry goes, and the others are visited (R36, R90). -/
theorem State.floorSweep_faulty (hT : TableLaw s) (he : s.entry? mic = some e) (hbad : e.checkGood = false)
    (hgood : ∀ x ∈ s.table, x.mic ≠ mic → x.checkGood = true) (hst : s.station = .running) (hw : s.window.isRunning = false)
    (hf : s.floor = .stale) : let t := s.floorSweep
    t.entry? mic = none ∧ t.fault = some (.table mic) ∧ t.floor = .stale ∧
      t.counters.integrityFaults = min 65535 (s.counters.integrityFaults + 1) ∧
      t.view = (s.dropEntry mic).table.map fun x => (x.refloored s.params s.now s.floorSet).untold := by
  obtain ⟨hmem, rfl⟩ := State.entry?_some he
  obtain ⟨pre, post, hsplit⟩ := List.append_of_mem hmem
  have hapart := State.apart_of_split hT.nodup hsplit
  let F := Entry.refloored s.params s.now s.floorSet
  let visit : State → Nat → State := fun u mic => u.verified State.entryFault mic fun _ => State.floorEntry mic
  let u : State := { s with table := pre.map F ++ e :: post }
  have hfirst : (pre.map Entry.mic).foldl visit s = u :=
    State.floorVisits (done := []) pre hf hsplit hT.nodup fun x hx =>
      hgood x (by simp [hsplit, hx]) (hapart x (by simp [hx]))
  have uMics : u.mics = s.mics := by
    simp only [State.mics, u, hsplit, List.map_append, List.map_map]
    rfl
  have hu : u.entry? e.mic = some e := State.entry?_middle (s := u) rfl fun y hy => by
    obtain ⟨x, hx, rfl⟩ := List.mem_map.mp hy
    exact hapart x (by simp [hx])
  have hdrop : (u.dropEntry e.mic).table = pre.map F ++ post := State.dropEntry_split (uMics ▸ hT.nodup) rfl
  have uSound : SoundLaw (u.dropEntry e.mic) := fun y hy => by
    rcases List.mem_append.mp (hdrop ▸ hy) with hy | hy
    · obtain ⟨x, hx, rfl⟩ := List.mem_map.mp hy
      exact hgood x (by simp [hsplit, hx]) (hapart x (by simp [hx]))
    · exact hgood y (by simp [hsplit, hy]) (hapart y (by simp [hy]))
  obtain ⟨told, aloof, -⟩ := State.entryFault_first hu uSound (by simp [u, hst]) hw
  have hfault : visit u e.mic = u.entryFault e.mic := State.verified_faulty hu hbad _ _
  generalize u.entryFault e.mic = v at told aloof hfault
  obtain ⟨hnow, -, hparams, -, -, -, hfloorSet, hfloor, -, -, -, hreport, -⟩ := told.keep
  obtain ⟨-, -, -, -, -, hcount⟩ := State.onlyHandOffs_keep told.only
  have vView : v.table.map Entry.untold = (pre.map F).map Entry.untold ++ post.map Entry.untold := by
    rw [← List.map_append, ← hdrop]
    exact told.view
  obtain ⟨before, behind, vTable, hbefore, hbehind⟩ := List.map_eq_append_iff.mp vView
  have hmics : behind.map Entry.mic = post.map Entry.mic := by
    simpa [Function.comp_def] using congrArg (List.map Entry.mic) hbehind
  have vNodup : v.mics.Nodup := by
    have dropped : (u.dropEntry e.mic).mics.Nodup := (uMics ▸ hT.nodup).sublist (List.filter_sublist.map _)
    exact told.mics ▸ dropped
  have hlast : (post.map Entry.mic).foldl visit v = { v with table := before ++ (behind.map F ++ []) } := by
    rw [← hmics]
    refine (State.floorVisits behind (hfloor.trans hf) (rest := []) (by simpa using vTable) vNodup
      fun x hx => told.sound uSound x (by simp [vTable, hx])).trans ?_
    rw [hnow, hparams, hfloorSet]
    rfl
  have hsweep : s.floorSweep = { v with table := before ++ (behind.map F ++ []) } := by
    show s.mics.foldl visit s = _
    rw [State.mics, hsplit, List.map_append, List.map_cons, List.foldl_append, List.foldl_cons, hfirst, hfault, hlast]
  have through : ∀ l : List Entry, (l.map F).map Entry.untold = (l.map Entry.untold).map fun x => (F x).untold := fun l => by
    simp only [List.map_map]
    exact List.map_congr_left fun x _ => (Entry.refloored_unheeding _ _ _ x).symm
  have hrefloored : (behind.map F).map Entry.untold = (post.map F).map Entry.untold := by rw [through, hbehind, ← through]
  rw [hsweep]
  refine ⟨State.entry?_none.mpr fun y hy hm => ?_, hreport, hfloor.trans hf, hcount, ?_⟩
  · have hnone := State.entry?_none.mp aloof.entry
    rcases List.mem_append.mp hy with hy | hy
    · exact hnone y (by simp [vTable, hy]) hm
    · obtain ⟨x, hx, rfl⟩ := List.mem_map.mp (List.append_nil _ ▸ hy)
      exact hnone x (by simp [vTable, hx]) hm
  · rw [State.dropEntry_split hT.nodup hsplit]
    show (before ++ (behind.map F ++ [])).map Entry.untold = _
    rw [List.append_nil, List.map_append, hbefore, hrefloored, ← List.map_append, ← List.map_append, List.map_map]
    rfl

end

/-! ## The obligation -/

/-- The taking of a sighting goes on past a damaged entry (R21, R36). -/
theorem State.admitOrEvict_faulty {s : State} {pre post : List Entry} {bad : Entry} (hl : s.table.length = tableMax)
    (hsplit : s.table = pre ++ bad :: post) (hpre : ∀ x ∈ pre, x.checkGood = true) (hbad : bad.checkGood = false) (through : Nat)
    (g : Sighting) : s.admitOrEvict through g = (s.entryFault bad.mic).addEntry through g := by
  have hfind : (s.table.find? fun e => !e.checkGood) = some bad := by
    rw [hsplit, List.find?_append, List.find?_eq_none.mpr fun x hx => by simp [hpre x hx]]
    simp [hbad]
  simp only [State.admitOrEvict, State.evictFor, hl, Nat.lt_irrefl, if_false, hfind]

/-- Settles O49: the fault by the state of the station and the window, then finder by finder. -/
theorem integrityFaultsAndWindow : Obligations.IntegrityFaultsAndWindow := by
  unfold Obligations.IntegrityFaultsAndWindow
  refine ⟨fun s mic e hT he _ hgood hst => State.entryFault_effect hT he hgood hst, fun s mic e he hbad => ?_,
    fun s source mic rest e hi he hbad => ?_, fun s g rest n hu hi => ?_, State.sweep_eq,
    fun s mic bad hT he hbad hgood hst hw hd => ?_, fun s hd => ?_⟩
  · intro ends
    have expires : ∀ {timer : Entry → Timer} (act : Entry → State → State), (timer e).isDue s.now = true →
        Host.Outcome.next (s.expiry mic timer act) = (.next (s.entryFault mic) : Host.Outcome State Fault Refusal) :=
      fun act hd => congrArg _ (State.expiry_faulty he hbad hd act)
    refine ⟨expires _, expires _, expires _, expires (timer := fun e => e.battery.epoch) _,
      expires (timer := fun e => e.battery.stale) _, fun k => ⟨expires (timer := fun e => (e.record k).persist) _, expires (timer := fun e => (e.record k).repeatTimer) _⟩, expires _, expires _, expires _,
      fun n c hc hd => expires (timer := Entry.claimTimer s.params n) _ ?_⟩
    simpa only [Entry.claimTimer, hc, Params.claimFresh] using hd
  · intro met ends
    let taken := fun body : RxBody => ({ s with rx := rest, inDispatch := some ⟨source, body⟩ } : State)
    have htaken : ∀ body, (taken body).entry? mic = some e := fun _ => he
    have finds : ∀ {body : RxBody} {act : Nat → RxBody → Option (State → State)} {work : State → State},
        s.rx = ⟨source, body⟩ :: rest → act source body = some work → work (taken body) = met body →
          (Host.Outcome.next (s.dispatch act) : Host.Outcome State Fault Refusal) = .next { met body with inDispatch := none } :=
      fun hrx hact hwork => by rw [State.dispatch_eq hi hrx hact, hwork]
    refine ⟨fun k l hrx => finds hrx rfl (State.verified_faulty (htaken _) hbad _ _), fun w hw hrx => finds hrx rfl ?_,
      fun q r hsource hrx => finds hrx rfl ?_, fun hst hrx => ?_⟩
    · subst hw
      exact State.verified_faulty (htaken _) hbad _ _
    · exact (if_neg hsource).trans (State.verified_faulty (htaken _) hbad _ _)
    · have hanswers : (taken (.query s.number (.entry mic))).answers s.number = true := by
        rcases hst with hst | hst <;> simp [State.answers, taken, hst, StationState.sendsAll]
      have hrequest : (taken (.query s.number (.entry mic))).answerEntry mic =
          (met (.query s.number (.entry mic))).requestFrame (.entry mic none) := by
        simp only [State.answerEntry, htaken, hbad]
        rfl
      refine congrArg Host.Outcome.next ((State.dispatch_eq hi hrx rfl).trans ?_)
      exact congrArg (fun u : State => { u with inDispatch := none }) ((if_pos hanswers).trans hrequest)
  · intro taken answer
    have hanswer : answer = .next (taken.sight n g) := congrArg _ (State.takeSighting_idle hu hi n)
    have hnew : s.entry? g.mic = none → answer = .next (taken.admitOrEvict n g) := fun hn => by
      rw [hanswer, State.sight_new (s := taken) hn]
    refine ⟨fun e he hbad => ?_, hnew, fun hn hl => ?_, fun pre bad post hn hl hsplit hpre hbad => ?_⟩
    · have hfound : taken.entry? g.mic = some e := he
      rw [hanswer]
      simp only [State.sight, hfound, hbad]
      rfl
    · rw [hnew hn, State.admitOrEvict_room (s := taken) hl]
    · rw [hnew hn, State.admitOrEvict_faulty (s := taken) hl hsplit hpre hbad]
  · let u : State := { s with floor := .stale, floorTimer := .stopped }
    have uTable : TableLaw u := ⟨hT.ascending, hT.atMost96, hT.seats, hT.queuedSeats⟩
    obtain ⟨hgone, hfault, hfloor, hcount, hview⟩ := State.floorSweep_faulty (s := u) uTable he hbad hgood hst hw rfl
    have hexec : exec .floorTimerExpiry s = .next u.floorSweep := congrArg _ (if_pos hd)
    exact ⟨u.floorSweep, hexec, hgone, hfault, hfloor, hcount, hview⟩
  · have hexec : exec .integrityWindowExpiry s =
        .next { s with window := .stopped, fault := faultAfterWindow s.fault } := congrArg _ (if_pos hd)
    refine ⟨fun mic hf => by rw [hexec, hf]; rfl, fun hf => ?_⟩
    have hstays : faultAfterWindow s.fault = s.fault := by
      unfold faultAfterWindow
      split
      · exact absurd ‹_› (hf _)
      · rfl
    rw [hexec, hstays]

end Sys2Proof.Machine
end

section
/-! The battery candidate with its exit margins (R49, R50) and the charge through the curve in use (R43). -/

namespace Sys2Proof.Machine

/-! ## The candidate (R49, R50) -/

section
variable {p : Params} {c : Cell} {minutes : Option Nat} {prev : Level}

theorem criticalMargin_iff : criticalMargin p c minutes = true ↔
    (∀ m, minutes = some m → p.critMinutes + 3 ≤ m) ∧ p.cutoffMV + 50 ≤ c.vf := by
  cases minutes <;> simp [criticalMargin]

theorem lowMargin_iff : lowMargin p c minutes = true ↔
    (∀ m, minutes = some m → p.lowMinutes + 5 ≤ m) ∧ (minutes = none → p.lowPermille + 30 ≤ c.charge) := by
  cases minutes <;> simp [lowMargin]

/-- A raw level at or above the candidate is taken at once. -/
theorem nextCandidate_of_rank_le (h : prev.rank ≤ (rawLevel p c minutes).rank) :
    nextCandidate p c minutes prev = rawLevel p c minutes := by
  unfold nextCandidate
  cases hraw : rawLevel p c minutes with
  | higher => rfl
  | lower => cases prev <;> simp_all [Level.rank]
  | none => cases prev <;> simp_all [Level.rank]

/-- From CRITICAL the candidate falls through the CRITICAL margin, and past LOW through the LOW margin too. -/
theorem nextCandidate_higher : nextCandidate p c minutes .higher =
    if criticalMargin p c minutes = true then
      if rawLevel p c minutes = .none ∧ ¬lowMargin p c minutes = true then .lower else rawLevel p c minutes
    else .higher := by
  unfold nextCandidate
  cases rawLevel p c minutes with
  | higher => simp
  | lower => simp
  | none => by_cases hlow : lowMargin p c minutes = true <;> simp [hlow]

/-- From LOW the candidate falls through the LOW margin. -/
theorem nextCandidate_lower (h : rawLevel p c minutes = .none) :
    nextCandidate p c minutes .lower = if lowMargin p c minutes = true then .none else .lower := by
  simp only [nextCandidate, h]

end

theorem Battery.seed_cand (p : Params) (now v : Nat) (b : Battery) :
    ∃ d, (b.seed p now v).cell = some d ∧ (b.seed p now v).cand = rawLevel p d none := ⟨_, rfl, rfl⟩

/-- A swap re-seeds the block from its last sample (R45). -/
theorem Battery.endEpoch_swap {p : Params} {c : Cell} (h : c.chargeRef + p.swapRise ≤ c.charge) (now : Nat) (b : Battery) :
    b.endEpoch p now c = b.seed p now c.last := if_pos h

/-- Settles O23: clause by clause from the equations of the candidate, the margins spelled. -/
theorem batteryCandidate : Obligations.BatteryCandidate := by
  unfold Obligations.BatteryCandidate
  refine ⟨fun p c m => ⟨rfl, rfl⟩, fun p c minutes prev => ?_, fun p now v b c hc => ?_, fun p now b c hswap => ?_⟩
  · intro raw next leavesCritical leavesLow
    have hcrit : criticalMargin p c minutes = true ↔ leavesCritical := criticalMargin_iff
    have hlow : lowMargin p c minutes = true ↔ leavesLow := lowMargin_iff
    have fromHigher : prev = .higher →
        next = if leavesCritical then if raw = .none ∧ ¬leavesLow then .lower else raw else .higher := by
      rintro rfl
      simp only [next, raw, nextCandidate_higher, hcrit, hlow]
    have fromLower : prev = .lower → raw = .none → next = if leavesLow then .none else .lower := by
      rintro rfl hraw
      simp only [next, nextCandidate_lower hraw, hlow]
    refine ⟨nextCandidate_of_rank_le, ?_, ?_, ?_, ?_, ?_, ?_⟩
    · intro hp _ hstay
      rw [fromHigher hp, if_neg hstay]
    · intro hp hraw hleave
      simp [fromHigher hp, hleave, hraw]
    · intro hp hraw hleave hout
      simp [fromHigher hp, hleave, hraw, hout]
    · intro hp hraw hleave hstay
      simp [fromHigher hp, hleave, hraw, hstay]
    · intro hp hraw hout
      rw [fromLower hp hraw, if_pos hout]
    · intro hp hraw hstay
      rw [fromLower hp hraw, if_neg hstay]
  · obtain ⟨d, hd, hcand⟩ := Battery.seed_cand p now v b
    rwa [Option.some.inj (hc.symm.trans hd)]
  · rw [Battery.endEpoch_swap hswap]
    exact Battery.seed_cand ..

/-! ## The charge curve (R43) -/

/-- The order of two knots of a curve that holds (R186). -/
def KnotBefore (a b : Knot) : Prop := a.mV < b.mV ∧ a.permille ≤ b.permille

/-- The line from knot `a` to knot `b`, rounded down. -/
def segmentCharge (a b : Knot) (vf : Nat) : Nat := a.permille + (vf - a.mV) * (b.permille - a.permille) / (b.mV - a.mV)

/-- Before `b` the line lies between the two knots. -/
theorem segmentCharge_between {a b : Knot} {vf : Nat} (h : a.permille ≤ b.permille) (hb : vf < b.mV) :
    a.permille ≤ segmentCharge a b vf ∧ segmentCharge a b vf ≤ b.permille := by
  have hrise : (vf - a.mV) * (b.permille - a.permille) / (b.mV - a.mV) ≤ b.permille - a.permille :=
    Nat.div_le_of_le_mul (Nat.mul_le_mul_right _ (by omega))
  exact ⟨Nat.le_add_right .., (Nat.add_le_add_left hrise _).trans_eq (Nat.add_sub_of_le h)⟩

/-- In a curve that rises every knot is before all that follow it. -/
theorem curveRises_pairwise {curve : List Knot} (h : curveRises curve = true) : curve.Pairwise KnotBefore := by
  have trans : ∀ {a b c : Knot}, KnotBefore a b → KnotBefore b c → KnotBefore a c :=
    fun hab hbc => ⟨hab.1.trans hbc.1, hab.2.trans hbc.2⟩
  induction curve with
  | nil => exact .nil
  | cons a rest ih =>
    cases rest with
    | nil => exact List.pairwise_singleton _ a
    | cons b rest =>
      simp only [curveRises, Bool.and_eq_true, decide_eq_true_eq] at h
      obtain ⟨⟨hmV, hpermille⟩, hrest⟩ := h
      have hpair := ih hrest
      refine List.pairwise_cons.mpr ⟨fun x hx => ?_, hpair⟩
      rcases List.mem_cons.mp hx with rfl | hx
      · exact ⟨hmV, hpermille⟩
      · exact trans ⟨hmV, hpermille⟩ (List.rel_of_pairwise_cons hpair hx)

theorem chargeFrom_before {a b : Knot} {rest : List Knot} {vf : Nat} (h : vf < b.mV) :
    chargeFrom (a :: b :: rest) vf = segmentCharge a b vf := if_pos h

theorem chargeFrom_past {a b : Knot} {rest : List Knot} {vf : Nat} (h : b.mV ≤ vf) :
    chargeFrom (a :: b :: rest) vf = chargeFrom (b :: rest) vf := if_neg (Nat.not_lt.mpr h)

/-- Past every knot the charge is full. -/
theorem chargeFrom_full {curve : List Knot} {vf : Nat} (h : ∀ k ∈ curve, k.mV ≤ vf) : chargeFrom curve vf = 1000 := by
  induction curve with
  | nil => rfl
  | cons a rest ih =>
    cases rest with
    | nil => rfl
    | cons b rest =>
      rw [chargeFrom_past (h b (by simp))]
      exact ih fun k hk => h k (List.mem_cons_of_mem _ hk)

/-- Between two neighbouring knots the charge is on the line between them, whatever knots stand before. -/
theorem chargeFrom_segment {pre post : List Knot} {a b : Knot} {vf : Nat}
    (h : (pre ++ a :: b :: post).Pairwise KnotBefore) (ha : a.mV ≤ vf) (hb : vf < b.mV) :
    chargeFrom (pre ++ a :: b :: post) vf = segmentCharge a b vf := by
  induction pre with
  | nil => exact chargeFrom_before hb
  | cons x pre ih =>
    have hrest := ih h.of_cons
    cases pre with
    | nil => exact (chargeFrom_past ha).trans hrest
    | cons y pre =>
      have hya : KnotBefore y a := List.rel_of_pairwise_cons h.of_cons (by simp)
      exact (chargeFrom_past (hya.1.le.trans ha)).trans hrest

theorem chargeFrom_le {curve : List Knot} {vf : Nat} (h : curve.Pairwise KnotBefore)
    (hfull : ∀ k ∈ curve, k.permille ≤ 1000) : chargeFrom curve vf ≤ 1000 := by
  induction curve with
  | nil => exact le_rfl
  | cons a rest ih =>
    cases rest with
    | nil => exact le_rfl
    | cons b rest =>
      have hab : KnotBefore a b := List.rel_of_pairwise_cons h (by simp)
      rcases Nat.lt_or_ge vf b.mV with hb | hb
      · rw [chargeFrom_before hb]
        exact (segmentCharge_between hab.2 hb).2.trans (hfull b (by simp))
      · rw [chargeFrom_past hb]
        exact ih h.of_cons fun k hk => hfull k (List.mem_cons_of_mem _ hk)

theorem chargeOf_below {k : Knot} {rest : List Knot} {vf : Nat} (h : vf < k.mV) : chargeOf (k :: rest) vf = 0 := if_pos h

theorem chargeOf_above {k : Knot} {rest : List Knot} {vf : Nat} (h : k.mV ≤ vf) :
    chargeOf (k :: rest) vf = chargeFrom (k :: rest) vf := if_neg (Nat.not_lt.mpr h)

/-- The last knot of an ordered curve bounds every knot. -/
theorem knot_le_last {curve : List Knot} {k last : Knot} (h : curve.Pairwise KnotBefore)
    (hlast : curve.getLast? = some last) (hk : k ∈ curve) : k.mV ≤ last.mV ∧ k.permille ≤ last.permille := by
  obtain ⟨pre, rfl⟩ := List.getLast?_eq_some_iff.mp hlast
  rcases List.mem_append.mp hk with hk | hk
  · obtain ⟨hmV, hpermille⟩ := (List.pairwise_append.mp h).2.2 k hk last (by simp)
    exact ⟨hmV.le, hpermille⟩
  · obtain rfl := List.mem_singleton.mp hk
    exact ⟨le_rfl, le_rfl⟩

/-- Settles O22: the parts of the curve, each by induction along the knots. -/
theorem chargeCurve : Obligations.ChargeCurve := by
  unfold Obligations.ChargeCurve
  intro curve vf hholds
  simp only [curveHolds, Bool.and_eq_true, decide_eq_true_eq, Option.map_eq_some_iff] at hholds
  obtain ⟨⟨hrises, first, hfirst, -⟩, last, hlast, hfull⟩ := hholds
  have hpair := curveRises_pairwise hrises
  obtain ⟨rest, rfl⟩ := List.head?_eq_some_iff.mp hfirst
  refine ⟨fun k hk hlt => ?_, fun k hk hle => ?_, fun pre a b post hsplit ha hb => ?_, ?_⟩
  · obtain rfl := Option.some.inj hk
    exact chargeOf_below hlt
  · have hpast : ∀ x ∈ first :: rest, x.mV ≤ vf := fun x hx => (knot_le_last hpair hk hx).1.trans hle
    rw [chargeOf_above (hpast first (by simp)), chargeFrom_full hpast]
  · have hline : chargeOf (first :: rest) vf = segmentCharge a b vf := by
      have hfirstLe : first.mV ≤ a.mV := by
        cases pre with
        | nil => exact (List.cons.inj hsplit).1 ▸ le_rfl
        | cons x pre =>
          obtain ⟨rfl, rfl⟩ := List.cons.inj hsplit
          exact (List.rel_of_pairwise_cons (a' := a) hpair (by simp)).1.le
      rw [chargeOf_above (hfirstLe.trans ha), hsplit]
      exact chargeFrom_segment (hsplit ▸ hpair) ha hb
    have hab : KnotBefore a b :=
      List.rel_of_pairwise_cons (List.pairwise_append.mp (hsplit ▸ hpair)).2.1 (by simp)
    obtain ⟨hlo, hhi⟩ := segmentCharge_between hab.2 hb
    exact ⟨hline, hline ▸ hlo, hline ▸ hhi⟩
  · rcases Nat.lt_or_ge vf first.mV with hlt | hle
    · rw [chargeOf_below hlt]
      exact Nat.zero_le _
    · rw [chargeOf_above hle]
      exact chargeFrom_le hpair fun k hk => hfull ▸ (knot_le_last hpair hlast hk).2

end Sys2Proof.Machine
end

section
/-! Samples and epoch ends on the battery block (R39 to R41, R45 to R48), and the expiries of its two timers (R42, R44, R53). -/

namespace Sys2Proof.Machine

/-! ## The filters (R41, R46) -/

/-- A filter step lands between the old value and the new one, whatever its divisor, since the division truncates toward zero. -/
theorem truncStep_within (old new : Int) {d : Int} (hd : 0 ≤ d) :
    min old new ≤ truncStep old new d ∧ truncStep old new d ≤ max old new := by
  unfold truncStep
  rcases le_total old new with h | h
  · have hnonneg : 0 ≤ (new - old).tdiv d := Int.tdiv_nonneg (by omega) hd
    have hle : (new - old).tdiv d ≤ new - old := Int.tdiv_le_self d (by omega)
    omega
  · have hneg : (new - old).tdiv d = -((old - new).tdiv d) := by rw [← Int.neg_tdiv, neg_sub]
    have hnonneg : 0 ≤ (old - new).tdiv d := Int.tdiv_nonneg (by omega) hd
    have hle : (old - new).tdiv d ≤ old - new := Int.tdiv_le_self d (by omega)
    omega

/-- A filter step of values that are not negative is not negative. -/
theorem truncStep_toNat {old new d : Int} (ho : 0 ≤ old) (hn : 0 ≤ new) (hd : 0 ≤ d) :
    ((truncStep old new d).toNat : Int) = truncStep old new d :=
  Int.toNat_of_nonneg ((le_min ho hn).trans (truncStep_within old new hd).1)

theorem clampNat_eq {x lo hi : Nat} (h : lo ≤ hi) : clampNat x lo hi = max lo (min hi x) := by
  unfold clampNat
  split
  · omega
  · split <;> omega

/-- The rate after a drop, in whole numbers (R46). -/
theorem nextRate_eq {p : Params} (h : p.rateMin ≤ 4000) (rate drop : Nat) : (nextRate p rate drop : Int) =
    max (p.rateMin : Int) (min 4000 (rate + (16 * (drop : Int) - rate).tdiv 4)) := by
  have hstep : ((truncStep rate (16 * (drop : Int)) 4).toNat : Int) = rate + (16 * (drop : Int) - rate).tdiv 4 :=
    truncStep_toNat (by omega) (by omega) (by omega)
  rw [nextRate, clampNat_eq h]
  push_cast
  rw [hstep]

/-! ## The block (R39 to R41, R45 to R48) -/

section
variable {p : Params} {now : Nat} {c : Cell} {b : Battery}

theorem Battery.sample_unseeded (h : b.cell = none) (code : Nat) :
    b.sample p now code = { b.seed p now (2900 + 10 * code) with stale := .running (now + p.staleMs) } := by
  simp only [Battery.sample, h]

theorem Battery.sample_seeded (h : b.cell = some c) (code : Nat) :
    b.sample p now code = { b.filter p (2900 + 10 * code) c with stale := .running (now + p.staleMs) } := by
  simp only [Battery.sample, h]

/-- The end of an epoch without a swap (R46 to R48). -/
theorem Battery.endEpoch_noSwap (h : c.charge < c.chargeRef + p.swapRise) :
    let cell : Cell := { c with rate := nextRate p c.rate (c.chargeRef - c.charge), chargeRef := c.charge }
    let epochCount := min 15 (b.epochCount + 1)
    let minutes :=
      if b.minutes.isSome ∨ p.settleEpochs ≤ epochCount then some (minutesOf cell.charge cell.rate) else none
    b.endEpoch p now c = { b with
      cell := some cell
      epochCount := epochCount
      minutes := minutes
      epoch := .running (now + p.epochMs)
      sampled := false
      cand := nextCandidate p cell minutes b.cand } := if_neg (Nat.not_le.mpr h)

/-- An ended epoch leaves a seeded block, and its stale timer keeps its course (R45). -/
theorem Battery.endEpoch_keeps (p : Params) (now : Nat) (c : Cell) (b : Battery) :
    (b.endEpoch p now c).cell ≠ none ∧ (b.endEpoch p now c).stale = b.stale := by
  rcases Nat.lt_or_ge c.charge (c.chargeRef + p.swapRise) with h | h
  · rw [Battery.endEpoch_noSwap h]
    simp
  · rw [Battery.endEpoch_swap h]
    simp [Battery.seed]

end

/-- Settles O21: the seed, the filter, the swap and the epoch end, each from its equation. -/
theorem batterySamplesAndEpochs : Obligations.BatterySamplesAndEpochs := by
  unfold Obligations.BatterySamplesAndEpochs
  refine ⟨fun p now code b => ?_, fun p now c b => ?_⟩
  · intro v t epoch stale
    refine ⟨Battery.sample_unseeded (code := code), fun c hc => ?_⟩
    obtain ⟨hlo, hhi⟩ := truncStep_within c.vf v (d := 8) (by decide)
    have hvf : ((truncStep c.vf v 8).toNat : Int) = truncStep c.vf v 8 := truncStep_toNat (by omega) (by omega) (by decide)
    exact ⟨(truncStep c.vf v 8).toNat, hvf, by omega, by omega, Battery.sample_seeded hc code⟩
  · intro t epoch
    refine ⟨fun hswap => Battery.endEpoch_swap hswap now b, fun hnoSwap hmin => ?_⟩
    have hdrop : ((c.chargeRef - c.charge : Nat) : Int) = max 0 ((c.chargeRef : Int) - c.charge) := by omega
    exact ⟨_, hdrop ▸ nextRate_eq hmin c.rate (c.chargeRef - c.charge), Battery.endEpoch_noSwap hnoSwap⟩

/-! ## The expiries (R42, R44, R53) -/

section
variable {s : State} {mic : Nat} {e : Entry}

/-- In a lawful and sound table a change of one entry puts what it makes of that entry, check word apart, in its place. -/
theorem State.modEntry_exact (hT : TableLaw s) (hS : SoundLaw s) (he : s.entry? mic = some e) {f : Entry → Entry} {y : Entry}
    (hf : ({ f e with checkGood := true } : Entry) = { y with checkGood := true }) (hy : y.checkGood = e.checkGood) :
    s.modEntry mic f = { s with table := s.table.map fun x => if x.mic = mic then y else x } := by
  rw [State.modEntry_unique (g := fun _ => y) hT he hf, State.modEntry_const (hy.trans (hS e (State.entry?_some he).1))]

/-- A change of the battery block followed by the BATTERY input puts both in the entry. -/
theorem State.battery_given (hT : TableLaw s) (hS : SoundLaw s) (he : s.entry? mic = some e) (f : Battery → Battery) :
    (s.modEntry mic fun x => { x with battery := f x.battery }).giveInput mic .battery =
      { s with table := s.table.map fun x => if x.mic = mic then
        { e with
          battery := f e.battery
          recBattery := e.recBattery.step s.params s.now .battery (batteryInput s.station { e with battery := f e.battery }) }
        else x } := by
  have hfound := State.modEntry_found he (fun x => { x with battery := f x.battery }) fun _ => rfl
  simp only [State.giveInput, hfound, State.modRecord]
  rw [State.modEntry_modEntry s mic (by exact fun _ => rfl)]
  exact State.modEntry_exact hT hS he rfl rfl

/-- The BATTERY input of a seeded block (R52). -/
theorem batteryInput_seeded {st : StationState} (h : e.battery.cell ≠ none) : batteryInput st e =
    if st = .feedDown ∨ e.presence ≠ .heard ∨ e.battery.stale = .expired then .unknown else .level e.battery.cand := by
  simp [batteryInput, h]

theorem batteryInput_stale {st : StationState} (h : e.battery.stale = .expired) : batteryInput st e = .unknown := by
  simp [batteryInput, h]

end

/-- Settles O20: each due expiry is its visit, and the visit is one exact change of the entry. -/
theorem batteryTimersExpire : Obligations.BatteryTimersExpire := by
  unfold Obligations.BatteryTimersExpire
  intro s mic e hT hS he given
  refine ⟨fun hdue hskip => ?_, fun c hdue hsampled hcell => ?_, fun hdue => ?_⟩
  · have hnone : e.battery.epochSample = none := by simp [Battery.epochSample, hskip]
    refine congrArg Host.Outcome.next ((State.expiry_due hS he hdue _).trans ?_)
    simp only [hnone]
    exact State.modEntry_exact hT hS he rfl rfl
  · have hsome : e.battery.epochSample = some c := by simp [Battery.epochSample, hsampled, hcell]
    obtain ⟨hseeded, hstale⟩ := Battery.endEpoch_keeps s.params s.now c e.battery
    refine congrArg Host.Outcome.next ((State.expiry_due hS he hdue _).trans ?_)
    simp only [hsome]
    rw [State.battery_given hT hS he fun b => b.endEpoch s.params s.now c, batteryInput_seeded hseeded, hstale]
  · refine congrArg Host.Outcome.next ((State.expiry_due hS he hdue _).trans ?_)
    rw [State.battery_given hT hS he fun b => { b with stale := .expired }, batteryInput_stale rfl]

end Sys2Proof.Machine
end

section
/-! The warning records through every operation (sections 4.1 and 4.5). The laws of section 4.1 and the rule of the repeat timers (R76)
are one statement, `RecordsObey`, with the law of a record and the repeat timers that it speaks of left open: each operation is shown
to keep it, in the order of the model's files. Between a change of level or role and the treatment of the repeat timers that follows it,
the statement leaves out those timers. -/

namespace Sys2Proof.Machine

/-! ## One record -/

/-- A law of records that every move of a record keeps (R57 to R72), and that does not speak of what the chamber was told or of the
repeat timer. -/
structure Record.MoveLaw (A : Record → Prop) : Prop where
  fresh : A Record.fresh
  untold : ∀ {r r' : Record}, r'.untold = r.untold → A r → A r'
  step : ∀ {r : Record} (p : Params) (now : Nat) (k : Kind) (i : Input), A r → A (r.step p now k i)
  raised : ∀ {r : Record} (now : Nat), r.state = .qualifying → A r → A (r.raised now)
  shifted : ∀ {r : Record}, r.state = .shifting → A r → A r.shifted
  released : ∀ {r : Record} (now : Nat), A r → A (r.released now)
  acknowledge : ∀ {r : Record}, r.level ≠ .none → A r → A r.acknowledge
  absorb : ∀ {r : Record} (w : Warn), A r → A (r.absorb w)

/-- The laws of section 4.1 are such a law. -/
theorem Record.lawful_moveLaw : Record.MoveLaw Record.Lawful where
  fresh := Record.fresh_lawful
  untold := fun h hr => Record.Lawful.untold_iff.mp (h ▸ Record.Lawful.untold_iff.mpr hr)
  step := fun p now k i hr => hr.step p now k i
  raised := fun now hst hr => hr.raised hst now
  shifted := fun hst hr => hr.shifted hst
  released := fun now _ => Record.Lawful.released now
  acknowledge := fun hn hr => hr.acknowledge hn
  absorb := fun w hr => hr.absorb w

theorem Record.true_moveLaw : Record.MoveLaw fun _ => True := by
  constructor <;> intros <;> trivial

/-- R76 for one record: its repeat timer runs exactly while the conditions hold. -/
def Record.RepeatsRight (role : Role) (r : Record) : Prop := r.repeatTimer.isRunning = r.repeats role

namespace Record.RepeatsRight

variable {role : Role} {r : Record}

theorem fresh (role : Role) : Record.fresh.RepeatsRight role := by
  simp [Record.RepeatsRight, Record.fresh, Record.repeats, Timer.isRunning]

theorem step (h : r.RepeatsRight role) (p : Params) (now : Nat) (k : Kind) (i : Input) :
    (r.step p now k i).RepeatsRight role := by
  unfold Record.RepeatsRight
  rw [Record.step_repeatTimer, Record.step_repeats]
  exact h

theorem acknowledge (role : Role) (r : Record) : r.acknowledge.RepeatsRight role := by
  simp [Record.RepeatsRight, Record.acknowledge, Record.repeats, Timer.isRunning]

/-- A peer's WARN stops the timer with the acknowledgement it brings, or leaves both (R72). -/
theorem absorb (h : r.RepeatsRight role) (w : Warn) : (r.absorb w).RepeatsRight role := by
  unfold Record.absorb
  dsimp only
  split
  · simp [Record.RepeatsRight, Record.repeats, Timer.isRunning]
  · exact h

/-- A stopped timer is right for a role other than REPORTER. -/
theorem stopped (h : role ≠ .reporter) (r : Record) : Record.RepeatsRight role { r with repeatTimer := .stopped } := by
  rw [Record.RepeatsRight, Record.repeats_of_ne h]
  rfl

/-- Roles other than REPORTER are alike. -/
theorem of_ne (h : r.RepeatsRight role) {role' : Role} (hr : role ≠ .reporter) (hr' : role' ≠ .reporter) :
    r.RepeatsRight role' := by
  rw [Record.RepeatsRight, Record.repeats_of_ne hr'] at *
  rwa [Record.repeats_of_ne hr] at h

end Record.RepeatsRight

/-! ## One entry -/

/-- The records of an entry keep `A`, and R76 holds of those that are in `T`, named by microphone and kind. -/
def Entry.Obeys (A : Record → Prop) (T : Set (Nat × Kind)) (e : Entry) : Prop :=
  ∀ k, A (e.record k) ∧ ((e.mic, k) ∈ T → (e.record k).RepeatsRight e.role)

/-- What `Entry.Obeys` reads of an entry. -/
def Entry.reports (e : Entry) : Nat × Role × Record × Record × Record := (e.mic, e.role, e.recBattery, e.recMute, e.recSignal)

namespace Entry.Obeys

variable {A : Record → Prop} {T T' : Set (Nat × Kind)} {e f : Entry}

theorem mono (h : e.Obeys A T) (hT : T' ⊆ T) : e.Obeys A T' := fun k => ⟨(h k).1, fun hk => (h k).2 (hT hk)⟩

theorem congr (h : e.Obeys A T) (hf : f.reports = e.reports) : f.Obeys A T := by
  obtain ⟨hmic, hrole, hb, hm, hs⟩ : f.mic = e.mic ∧ f.role = e.role ∧ f.recBattery = e.recBattery ∧ f.recMute = e.recMute ∧
      f.recSignal = e.recSignal := by simpa [Entry.reports] using hf
  have hrec : ∀ k, f.record k = e.record k := fun k => by cases k <;> assumption
  intro k
  rw [hrec, hmic, hrole]
  exact h k

/-- One record replaced. -/
theorem setRecord (h : e.Obeys A T) {k : Kind} {r : Record} (hr : A r) (ht : (e.mic, k) ∈ T' → r.RepeatsRight e.role)
    (hT : ∀ j, j ≠ k → (e.mic, j) ∈ T' → (e.mic, j) ∈ T) : (e.setRecord k r).Obeys A T' := by
  intro j
  rw [Entry.setRecord_mic, Entry.setRecord_role]
  by_cases hj : j = k
  · subst hj
    rw [Entry.record_setRecord_same]
    exact ⟨hr, ht⟩
  · rw [Entry.record_setRecord_other _ _ _ _ hj]
    exact ⟨(h j).1, fun hjT => (h j).2 (hT j hj hjT)⟩

end Entry.Obeys

/-! ## The state -/

/-- Every record keeps `A`, and every one in `T` the rule of its repeat timer; the mic IDs are distinct. -/
structure RecordsObey (A : Record → Prop) (T : Set (Nat × Kind)) (s : State) : Prop where
  moves : Record.MoveLaw A
  distinct : s.mics.Nodup
  entries : ∀ e ∈ s.table, e.Obeys A T

theorem recordLaw_iff {s : State} (hT : TableLaw s) : RecordLaw s ↔ RecordsObey Record.Lawful ∅ s :=
  ⟨fun h => ⟨Record.lawful_moveLaw, hT.nodup, fun e he k => ⟨h e he k, fun hk => absurd hk (Set.notMem_empty _)⟩⟩,
    fun h e he k => (h.entries e he k).1⟩

theorem repeatLaw_iff {s : State} (hT : TableLaw s) : RepeatLaw s ↔ RecordsObey (fun _ => True) Set.univ s :=
  ⟨fun h => ⟨Record.true_moveLaw, hT.nodup, fun e he k => ⟨trivial, fun _ => h e he k⟩⟩,
    fun h e he k => (h.entries e he k).2 (Set.mem_univ _)⟩

namespace RecordsObey

variable {A : Record → Prop} {T T' : Set (Nat × Kind)} {s t : State} {mic : Nat}

theorem mono (h : RecordsObey A T s) (hT : T' ⊆ T) : RecordsObey A T' s :=
  ⟨h.moves, h.distinct, fun e he => (h.entries e he).mono hT⟩

/-- A state with the same table. -/
theorem frame (h : RecordsObey A T s) (ht : t.table = s.table) : RecordsObey A T t :=
  ⟨h.moves, by rw [State.mics, ht]; exact h.distinct, ht ▸ h.entries⟩

theorem found (h : RecordsObey A T s) {e : Entry} (he : e ∈ s.table) : s.entry? e.mic = some e := by
  cases hf : s.entry? e.mic with
  | none => exact absurd rfl (State.entry?_none.mp hf e he)
  | some f =>
    obtain ⟨hmem, hmic⟩ := State.entry?_some hf
    rw [List.inj_on_of_nodup_map h.distinct hmem he hmic]

/-- A change of one entry, after which `T'` may speak of other records of it than `T` did. -/
theorem mapEntry (h : RecordsObey A T s) {f : Entry → Entry} (hmic : ∀ e, (f e).mic = e.mic)
    (hT : ∀ m k, m ≠ mic → (m, k) ∈ T' → (m, k) ∈ T)
    (hf : ∀ e, s.entry? mic = some e → e.Obeys A T → (f e).Obeys A T') : RecordsObey A T' (s.mapEntry mic f) := by
  refine ⟨h.moves, by rw [State.mapEntry_mics _ _ _ hmic]; exact h.distinct, fun e he => ?_⟩
  obtain ⟨x, hx, rfl⟩ := State.mem_mapEntry he
  split
  · exact hf x (‹x.mic = mic› ▸ h.found hx) (h.entries x hx)
  · exact fun k => ⟨(h.entries x hx k).1, fun hk => (h.entries x hx k).2 (hT _ k ‹_› hk)⟩

theorem modEntry (h : RecordsObey A T s) {f : Entry → Entry} (hmic : ∀ e, (f e).mic = e.mic)
    (hT : ∀ m k, m ≠ mic → (m, k) ∈ T' → (m, k) ∈ T)
    (hf : ∀ e, s.entry? mic = some e → e.Obeys A T → (f e).Obeys A T') : RecordsObey A T' (s.modEntry mic f) :=
  h.mapEntry (by exact hmic) hT fun e he ho => (hf e he ho).congr rfl

/-- A change of an entry beside its mic ID, its role and its records. -/
theorem modOther (h : RecordsObey A T s) (mic : Nat) {f : Entry → Entry} (hf : ∀ e, (f e).reports = e.reports) :
    RecordsObey A T (s.modEntry mic f) :=
  h.modEntry (fun e => congrArg Prod.fst (hf e)) (fun _ _ _ => id) fun e _ ho => ho.congr (hf e)

/-- A change of one record that leaves its repeat timer right. -/
theorem modRecord (h : RecordsObey A T s) {k : Kind} {f : Record → Record}
    (hA : ∀ e, s.entry? mic = some e → A (e.record k) → A (f (e.record k)))
    (ht : ∀ e, s.entry? mic = some e → (mic, k) ∈ T → (e.record k).RepeatsRight e.role → (f (e.record k)).RepeatsRight e.role) :
    RecordsObey A T (s.modRecord mic k f) :=
  h.modEntry (fun e => by simp) (fun _ _ _ => id) fun e he ho => ho.setRecord (hA e he (ho k).1)
    (fun hk => ht e he ((State.entry?_some he).2 ▸ hk) ((ho k).2 hk)) fun _ _ => id

/-- A change of one record whose repeat timer is to be treated. -/
theorem moveRecord (h : RecordsObey A T s) {k : Kind} {f : Record → Record}
    (hA : ∀ e, s.entry? mic = some e → A (e.record k) → A (f (e.record k))) :
    RecordsObey A (T \ {(mic, k)}) (s.modRecord mic k f) :=
  h.modEntry (fun e => by simp) (fun _ _ _ => fun hk => hk.1) fun e he ho => ho.setRecord (hA e he (ho k).1)
    (fun hk => absurd (by rw [(State.entry?_some he).2]; rfl) hk.2) fun _ _ hj => hj.1

/-- A change of what the chamber was told. -/
theorem tellRecord (h : RecordsObey A T s) {k : Kind} {f : Record → Record}
    (hf : ∀ r : Record, (f r).untold = r.untold ∧ (f r).repeatTimer = r.repeatTimer) : RecordsObey A T (s.modRecord mic k f) :=
  h.modRecord (fun _ _ => h.moves.untold (hf _).1) fun e _ _ hr => by
    have hrep : (f (e.record k)).repeats e.role = (e.record k).repeats e.role :=
      congrArg (fun r => r.repeats e.role) (hf (e.record k)).1
    rw [Record.RepeatsRight, (hf _).2, hrep]
    exact hr

theorem dropEntry (h : RecordsObey A T s) (mic : Nat) : RecordsObey A T (s.dropEntry mic) :=
  ⟨h.moves, h.distinct.sublist (List.filter_sublist.map _), fun e he => h.entries e (List.mem_of_mem_filter he)⟩

theorem verified (h : RecordsObey A T s) {fx : Nat → State → State} (hfx : ∀ mic s, RecordsObey A T s → RecordsObey A T (fx mic s))
    (mic : Nat) {act : Entry → State → State} (hact : ∀ e, s.entry? mic = some e → RecordsObey A T (act e s)) :
    RecordsObey A T (s.verified fx mic act) := by
  rcases State.verified_cases fx mic act s with hv | ⟨-, -, -, hv⟩ | ⟨e, he, -, hv⟩ <;> rw [hv]
  · exact h
  · exact hfx mic s h
  · exact hact e he

theorem sweep (h : RecordsObey A T s) {fx act : Nat → State → State} (hfx : ∀ mic s, RecordsObey A T s → RecordsObey A T (fx mic s))
    (hact : ∀ mic s, RecordsObey A T s → RecordsObey A T (act mic s)) : RecordsObey A T (s.sweep fx act) :=
  State.sweep_keeps (P := RecordsObey A T) (fun mic s _ _ _ hs => hfx mic s hs) (fun mic s _ _ _ hs => hact mic s hs) h

/-! ## The transmit queue (R73, R74, R76) -/

theorem forgetChamber (h : RecordsObey A T s) (mic : Nat) (k : Kind) : RecordsObey A T (s.forgetChamber mic k) := by
  refine h.mapEntry (fun e => by split <;> simp) (fun _ _ _ => id) fun e _ ho => ?_
  dsimp only
  split
  · exact ho
  · refine Entry.Obeys.congr (e := e.setRecord k (e.record k).forgotten) ?_ rfl
    exact ho.setRecord (h.moves.untold (r := e.record k) rfl (ho k).1) (ho k).2 fun _ _ => id

theorem discardFrame (h : RecordsObey A T s) (f : Frame) : RecordsObey A T (s.discardFrame f) := by
  rcases State.discardFrame_cases f s with hd | ⟨w, -, hd⟩ <;> rw [hd]
  · exact h
  · exact h.forgetChamber ..

theorem discardWhere (h : RecordsObey A T s) (drop : Frame → Bool) : RecordsObey A T (s.discardWhere drop) :=
  State.discardWhere_keeps (P := RecordsObey A T) (fun f _ hs => hs.discardFrame f) drop (h.frame rfl)

theorem submit (h : RecordsObey A T s) (f : Frame) : RecordsObey A T (s.submit f).1 := by
  rcases State.submit_cases f s with ⟨-, hs⟩ | ⟨-, v, rest, -, hs⟩ | ⟨-, -, hs⟩ <;> rw [hs]
  · exact h.frame rfl
  · exact (h.frame (t := ({ s with tx := placeTx ⟨f, 0⟩ rest }).count .framesDropped) rfl).discardFrame v.frame
  · exact h.frame rfl

theorem requestWarn (h : RecordsObey A T s) (mic : Nat) (k : Kind) (reason : Reason) :
    RecordsObey A T (s.requestWarn mic k reason) := by
  unfold State.requestWarn
  split
  · exact h
  · split
    · have placed := fun f => (h.frame (t := s.removeWhere (Frame.warnFor mic k)) rfl).submit f
      dsimp only
      split
      · exact (placed _).tellRecord fun _ => ⟨rfl, rfl⟩
      · exact placed _
    · exact h

/-- An announcement treats the repeat timer of its record, whatever it was (R76). -/
theorem announce {k : Kind} (h : RecordsObey A (T \ {(mic, k)}) s) (reason : Reason) :
    RecordsObey A T (s.announce mic k reason) :=
  (h.requestWarn mic k reason).modEntry (fun e => by simp)
    (fun m j hm hj => ⟨hj, fun hmj => hm (congrArg Prod.fst hmj)⟩) fun e _ ho =>
      ho.setRecord (h.moves.untold (r := e.record k) rfl (ho k).1) (fun _ => Record.treatRepeat_isRunning ..)
        fun j hj hT => ⟨hT, fun hjk => hj (congrArg Prod.snd hjk)⟩

theorem requestStation (h : RecordsObey A T s) (start : Bool) : RecordsObey A T (s.requestStation start) := by
  unfold State.requestStation
  split
  · have placed := fun f => (h.frame (t := s.removeWhere Frame.isStation) rfl).submit f
    dsimp only
    split
    · exact (placed _).frame rfl
    · exact placed _
  · exact h

theorem requestFrame (h : RecordsObey A T s) (f : Frame) : RecordsObey A T (s.requestFrame f) := by
  unfold State.requestFrame
  split
  · exact h.submit f
  · exact h

theorem dropReturning (h : RecordsObey A T s) (f : Frame) : RecordsObey A T (s.dropReturning f) :=
  (h.frame (t := s.count .framesDropped) rfl).discardFrame f

theorem recheck (h : RecordsObey A T s) (f : TxFrame) : RecordsObey A T (s.recheck f) := by
  rcases State.recheck_cases f s with hr | ⟨-, hr⟩ | ⟨-, -, -, hr⟩ | ⟨-, -, v, rest, -, hr⟩ <;> rw [hr]
  · exact h.dropReturning _
  · exact h
  · exact h.frame rfl
  · exact (h.frame (t := State.count .framesDropped (State.placeHead f { s with tx := rest })) rfl).discardFrame _

/-! ## Lamps, cues and inputs -/

theorem selectLamp (h : RecordsObey A T s) (l : Lamp) : RecordsObey A T (s.selectLamp l) := h.frame (by simp)

theorem selectWarningLamps (h : RecordsObey A T s) : RecordsObey A T s.selectWarningLamps :=
  h.frame (by simp [State.selectWarningLamps])

theorem zoneHandOff (h : RecordsObey A T s) : RecordsObey A T s.zoneHandOff := h.frame (by simp [State.zoneHandOff])

theorem stationHandOff (h : RecordsObey A T s) : RecordsObey A T s.stationHandOff :=
  h.frame (by simp [State.stationHandOff, State.selectAllLamps, State.selectWarningLamps])

theorem offerCue (h : RecordsObey A T s) (c : Cue) : RecordsObey A T (s.offerCue c) := by
  unfold State.offerCue
  split <;> exact h.frame rfl

theorem selectCue (h : RecordsObey A T s) (mic : Nat) : RecordsObey A T (s.selectCue mic) := by
  unfold State.selectCue
  split
  · exact h
  · split
    · split
      · exact h
      · exact (h.modOther mic (by exact fun _ => rfl)).offerCue _
    · exact h.modOther mic (by exact fun _ => rfl)

theorem giveInput (h : RecordsObey A T s) (mic : Nat) (k : Kind) : RecordsObey A T (s.giveInput mic k) := by
  unfold State.giveInput
  split
  · exact h
  · exact h.modRecord (fun _ _ => h.moves.step _ _ _ _) fun _ _ _ hr => hr.step ..

theorem giveInputs (h : RecordsObey A T s) (mic : Nat) : RecordsObey A T (s.giveInputs mic) :=
  ((h.giveInput mic _).giveInput mic _).giveInput mic _

/-! ## The reporter role (R113, R117, R118) -/

theorem adopt (h : RecordsObey A T s) (mic : Nat) (k : Kind) : RecordsObey A T (s.adopt mic k) := by
  unfold State.adopt
  split
  · exact h
  · split
    · exact (h.mono Set.sdiff_subset).announce _
    · exact h

theorem adoptAll (h : RecordsObey A T s) (mic : Nat) : RecordsObey A T (s.adoptAll mic) :=
  ((h.adopt mic _).adopt mic _).adopt mic _

/-- The statement without the repeat timers of one microphone, whose role changes. -/
theorem changeRole (h : RecordsObey A T s) (mic : Nat) {f : Entry → Entry}
    (hf : ∀ e, { f e with role := e.role }.reports = e.reports) :
    RecordsObey A (T \ {p | p.1 = mic}) (s.modEntry mic f) :=
  h.modEntry (fun e => congrArg Prod.fst (hf e)) (fun _ _ _ hk => hk.1) fun e he ho k => by
    have hrec : (f e).record k = e.record k := by
      have := hf e
      simp only [Entry.reports, Prod.mk.injEq] at this
      cases k <;> tauto
    have hmic : (f e).mic = mic := (congrArg Prod.fst (hf e)).trans (State.entry?_some he).2
    exact ⟨hrec ▸ (ho k).1, fun hk => absurd hmic hk.2⟩

/-- The repeat timers of one microphone treated after its role has changed. -/
theorem treatRole (h : RecordsObey A (T \ {p | p.1 = mic}) s) {f : Entry → Entry} (hmic : ∀ e, (f e).mic = e.mic)
    (hu : ∀ e k, ((f e).record k).untold = (e.record k).untold)
    (ht : ∀ e, s.entry? mic = some e → ∀ k, ((f e).record k).RepeatsRight (f e).role) : RecordsObey A T (s.modEntry mic f) :=
  h.modEntry hmic (fun _ _ hm hk => ⟨hk, hm⟩) fun e he ho k => ⟨h.moves.untold (hu e k) (ho k).1, fun _ => ht e he k⟩

theorem gainReporter (h : RecordsObey A T s) (mic : Nat) : RecordsObey A T (s.gainReporter mic) := by
  refine (((h.changeRole mic (by exact fun _ => rfl)).adoptAll mic).treatRole (by exact fun _ => rfl) (fun e k => ?_)
    fun e _ k => ?_).selectCue mic
  · rw [Entry.treatRepeats_record]; rfl
  · rw [Entry.treatRepeats_record]
    exact Record.treatRepeat_isRunning ..

theorem loseReporter (h : RecordsObey A T s) (mic : Nat) : RecordsObey A T (s.loseReporter mic) := by
  let lost := s.modEntry mic fun e => { e with role := .follower }
  have follower : ∀ e, (lost.discardWhere (Frame.warnOf mic)).entry? mic = some e → e.role = .follower := fun e he => by
    have hview := (State.discardWhere_told (Frame.warnOf mic) lost).entry?_untold mic
    rw [he, State.entry?_modEntry s mic mic (fun e => { e with role := .follower }) fun _ => rfl, Option.map_map] at hview
    obtain ⟨x, -, hx⟩ := Option.map_eq_some_iff.mp hview.symm
    rw [Function.comp_apply, if_pos rfl] at hx
    exact Entry.role_of_untold hx.symm
  refine (((h.changeRole mic (by exact fun _ => rfl)).discardWhere _).treatRole (by exact fun _ => rfl) (fun e k => ?_)
    fun e he k => ?_).selectCue mic
  · rw [Entry.stopRepeats_record]; rfl
  · rw [Entry.stopRepeats_record]
    exact Record.RepeatsRight.stopped (fun hr => absurd ((follower e he).symm.trans hr) (by decide)) _

/-- An entry that is not reported becomes FOLLOWER. -/
theorem modFollower (h : RecordsObey A T s) {e : Entry} (he : s.entry? mic = some e) (hr : e.role ≠ .reporter) {f : Entry → Entry}
    (hf : ∀ e, (f e).reports = { e with role := .follower }.reports) : RecordsObey A T (s.modEntry mic f) := by
  refine h.modEntry (fun e => congrArg Prod.fst (hf e)) (fun _ _ _ => id) fun x hx ho => ?_
  obtain rfl : e = x := Option.some.inj (he.symm.trans hx)
  refine Entry.Obeys.congr (fun k => ?_) (hf e)
  have hrec : ({ e with role := .follower } : Entry).record k = e.record k := by cases k <;> rfl
  rw [hrec]
  exact ⟨(ho k).1, fun hk => ((ho k).2 hk).of_ne hr (fun hf => Role.noConfusion hf)⟩

theorem makeFollower (h : RecordsObey A T s) (mic : Nat) : RecordsObey A T (s.makeFollower mic) := by
  unfold State.makeFollower
  split
  · exact h
  · split
    · exact h.loseReporter mic
    · exact h.modFollower ‹_› ‹_› (by exact fun _ => rfl)

theorem decideRole (h : RecordsObey A T s) (mic own : Nat) : RecordsObey A T (s.decideRole mic own) := by
  unfold State.decideRole
  split
  · exact h
  · split
    · split
      · exact h
      · exact h.gainReporter mic
    · exact h.makeFollower mic

theorem computeRole (h : RecordsObey A T s) (mic : Nat) : RecordsObey A T (s.computeRole mic) := by
  unfold State.computeRole
  split
  · exact h
  · split
    · exact h.decideRole ..
    · exact h

end RecordsObey

end Sys2Proof.Machine
end

section
/-! The warning records through removals, faults and the changes of presence, claims and station state (sections 2, 6, 7 and 11), and
through the expiries of an entry's timers. -/

namespace Sys2Proof.Machine

namespace RecordsObey

variable {A : Record → Prop} {T : Set (Nat × Kind)} {s : State} {mic : Nat}

/-! ## The zone, removal and faults

What a failed verification does is first any `fx` that keeps the records; `integrityFault` is one, by induction on its fuel. -/

theorem zoneEnter (h : RecordsObey A T s) (cause : ZoneCause) : RecordsObey A T (s.zoneEnter cause) := by
  unfold State.zoneEnter
  extract_lets cleared asked
  have hasked : RecordsObey A T asked :=
    ((h.discardWhere Frame.lostWarn).frame (t := { cleared with zone := .inForce cause }) rfl).requestStation false
  exact (hasked.frame (t := { asked with zoneRepeat := asked.after asked.params.repeatMs }) rfl).zoneHandOff

theorem zoneCause (h : RecordsObey A T s) (cause : ZoneCause) : RecordsObey A T (s.zoneCause cause) := by
  unfold State.zoneCause
  extract_lets asked
  have hasked : RecordsObey A T asked := (h.frame (t := { s with zone := .inForce cause }) rfl).requestStation false
  exact (hasked.frame (t := { asked with zoneRepeat := asked.after asked.params.repeatMs }) rfl).zoneHandOff

theorem reannounce (h : RecordsObey A T s) (mic : Nat) : RecordsObey A T (s.reannounce mic) := by
  unfold State.reannounce
  split
  · exact h
  · split
    · exact (h.mono Set.sdiff_subset).announce _
    · exact h

section
variable {fx : Nat → State → State} (hfx : ∀ mic s, RecordsObey A T s → RecordsObey A T (fx mic s))
include hfx

theorem zoneEnd (h : RecordsObey A T s) : RecordsObey A T (s.zoneEnd fx) := by
  have ended : RecordsObey A T { s with zone := .notInForce, zoneRepeat := .stopped } := h.frame rfl
  exact ((ended.requestStation false).sweep hfx fun mic _ hs => hs.reannounce mic).zoneHandOff

theorem updateLost (h : RecordsObey A T s) : RecordsObey A T (s.updateLost fx) := by
  have counted : RecordsObey A T { s with lostCount := lostOf s.table } := h.frame rfl
  rcases State.updateLost_cases fx s with hu | ⟨-, hu⟩ | ⟨-, hu⟩ <;> rw [hu]
  · exact counted
  · exact counted.zoneEnter _
  · exact counted.zoneEnd hfx

theorem feedCauseEnds (h : RecordsObey A T s) : RecordsObey A T (s.feedCauseEnds fx) := by
  unfold State.feedCauseEnds
  split
  · split
    · exact h.zoneCause _
    · exact h.zoneEnd hfx
  · exact h

theorem pauseEntry (h : RecordsObey A T s) (fromJoining : Bool) (mic : Nat) :
    RecordsObey A T (s.pauseEntry fx fromJoining mic) := by
  have paused : RecordsObey A T (if s.station = .feedDown then s.modEntry mic (Entry.mapPresence (Timer.pause s.now)) else s) := by
    split
    · exact h.modOther mic fun _ => rfl
    · exact h
  have given := (paused.giveInputs mic).updateLost hfx
  unfold State.pauseEntry
  dsimp only
  split
  · exact given.selectCue mic
  · exact given

theorem resumeSweep (h : RecordsObey A T s) : RecordsObey A T (s.resumeSweep fx) :=
  h.sweep hfx fun mic _ hs => ((hs.modOther mic (by exact fun _ => rfl)).giveInputs mic).updateLost hfx

theorem removeEntry (h : RecordsObey A T s) (mic : Nat) : RecordsObey A T (s.removeEntry fx mic) :=
  (((h.dropEntry mic).frame (t := (s.dropEntry mic).removeWhere (Frame.warnOf mic)) rfl).updateLost hfx).selectWarningLamps

theorem enterListenOnly (h : RecordsObey A T s) : RecordsObey A T (s.enterListenOnly fx) := by
  unfold State.enterListenOnly
  extract_lets quiet emptied stopped resumed
  have hquiet : RecordsObey A T quiet :=
    (h.frame (t := { s with station := .listenOnly, joining := .stopped }) rfl).sweep hfx fun mic _ hs =>
      (hs.makeFollower mic).modOther mic (by exact fun _ => rfl)
  have hemptied : RecordsObey A T emptied := (hquiet.frame (t := { quiet with claimRound := .stopped }) rfl).discardWhere _
  have hstopped : RecordsObey A T stopped := hemptied.frame rfl
  have hresumed : RecordsObey A T resumed := by
    unfold resumed
    split
    · exact (hstopped.resumeSweep hfx).feedCauseEnds hfx
    · exact hstopped
  exact (hresumed.requestStation false).stationHandOff

theorem faultReport (h : RecordsObey A T s) (mic : Nat) : RecordsObey A T (s.faultReport fx mic) := by
  have reported : RecordsObey A T (if s.window.isRunning then
      ({ s with fault := some .doubleFault, window := .stopped }).enterListenOnly fx
    else ({ s with fault := some (.table mic), window := s.after windowMs }).requestStation false) := by
    split
    · exact (h.frame (t := { s with fault := some .doubleFault, window := .stopped }) rfl).enterListenOnly hfx
    · exact (h.frame (t := { s with fault := some (.table mic), window := s.after windowMs }) rfl).requestStation false
  unfold State.faultReport
  split
  · exact h
  · exact h.requestStation false
  · exact reported
  · exact reported
  · exact reported

end

theorem integrityFault (fuel mic : Nat) (s : State) (h : RecordsObey A T s) : RecordsObey A T (integrityFault fuel mic s) := by
  induction fuel generalizing mic s with
  | zero => exact h
  | succ fuel ih =>
    exact ((h.removeEntry ih mic).frame (t := (s.removeEntry (Machine.integrityFault fuel) mic).count .integrityFaults)
      rfl).faultReport ih mic

theorem entryFault (mic : Nat) (s : State) (h : RecordsObey A T s) : RecordsObey A T (s.entryFault mic) :=
  integrityFault _ mic s h

/-! ## Presence and claims -/

theorem presenceRole (h : RecordsObey A T s) (mic : Nat) : RecordsObey A T (s.presenceRole mic) := by
  unfold State.presenceRole
  split
  · exact h
  · split
    · exact h
    · exact (h.makeFollower mic).modOther mic (by exact fun _ => rfl)
    · split
      · exact h
      · exact h.modFollower ‹_› ‹_› (by exact fun _ => rfl)

theorem presenceHandOff (h : RecordsObey A T s) (mic : Nat) : RecordsObey A T (s.presenceHandOff mic) :=
  ((((h.presenceRole mic).giveInputs mic).updateLost entryFault).selectCue mic).selectWarningLamps

theorem becomeCovered (h : RecordsObey A T s) (mic : Nat) : RecordsObey A T (s.becomeCovered mic) := by
  have moved := h.modOther mic (f := fun e => { e with presence := .covered, loss := .stopped, lostForget := .stopped })
    fun _ => rfl
  unfold State.becomeCovered
  dsimp only
  split
  · exact h
  · split
    · exact moved.removeEntry entryFault mic
    · exact moved.presenceHandOff mic

theorem becomeSilent (h : RecordsObey A T s) (mic : Nat) : RecordsObey A T (s.becomeSilent mic) :=
  (h.modOther mic (by exact fun _ => rfl)).presenceHandOff mic

theorem claimsChanged (h : RecordsObey A T s) (mic : Nat) : RecordsObey A T (s.claimsChanged mic) := by
  unfold State.claimsChanged
  split
  · exact h
  · dsimp only
    split
    · exact (h.becomeCovered mic).computeRole mic
    · split
      · exact (h.becomeSilent mic).computeRole mic
      · exact h.computeRole mic

theorem enterClaimFor (h : RecordsObey A T s) (mic : Nat) (c : Claim) : RecordsObey A T (s.enterClaimFor mic c) := by
  rcases State.enterClaimFor_cases mic c s with hc | ⟨e, l, -, -, -, hc⟩ <;> rw [hc]
  · exact h
  · exact (h.modOther mic (by exact fun _ => rfl)).claimsChanged mic

theorem removeClaim (h : RecordsObey A T s) (mic station : Nat) : RecordsObey A T (s.removeClaim mic station) := by
  unfold State.removeClaim
  split
  · exact h
  · split
    · exact (h.modOther mic (by exact fun _ => rfl)).claimsChanged mic
    · exact h

/-! ## Station states -/

theorem adoptionEntry (h : RecordsObey A T s) (mic : Nat) : RecordsObey A T (s.adoptionEntry mic) := by
  unfold State.adoptionEntry
  split
  · exact h
  · split
    · exact (h.adoptAll mic).selectCue mic
    · exact h

theorem runningWork (h : RecordsObey A T s) : RecordsObey A T s.runningWork := by
  unfold State.runningWork
  extract_lets asked timed
  have hasked : RecordsObey A T asked := h.requestStation true
  have htimed : RecordsObey A T timed := by
    unfold timed
    split
    · exact hasked.frame rfl
    · exact hasked
  exact htimed.sweep entryFault fun mic _ hs => hs.adoptionEntry mic

theorem enterRunning (h : RecordsObey A T s) : RecordsObey A T s.enterRunning :=
  (h.frame (t := { s with station := .running }) rfl).runningWork.stationHandOff

theorem enterFeedDown (h : RecordsObey A T s) (fromJoining : Bool) : RecordsObey A T (s.enterFeedDown fromJoining) := by
  have entered : RecordsObey A T { s with station := .feedDown, claimRound := .stopped } := h.frame rfl
  have zoned : RecordsObey A T ({ s with station := .feedDown, claimRound := .stopped } : State).zoneFeed := by
    unfold State.zoneFeed
    split
    · exact entered.zoneEnter _
    · exact entered.zoneCause _
  have paused := zoned.sweep entryFault fun mic _ hs => hs.pauseEntry entryFault fromJoining mic
  exact (paused.requestStation fromJoining).stationHandOff

theorem leaveFeedDown (h : RecordsObey A T s) : RecordsObey A T s.leaveFeedDown :=
  (((h.frame (t := { s with station := .running }) rfl).resumeSweep entryFault).feedCauseEnds entryFault).runningWork.stationHandOff

/-! ## The expiries of an entry's timers -/

theorem expiry (h : RecordsObey A T s) (mic : Nat) (timer : Entry → Timer) {act : Entry → State → State}
    (hact : ∀ e, s.entry? mic = some e → (timer e).isDue s.now = true → RecordsObey A T (act e s)) :
    RecordsObey A T (s.expiry mic timer act) := by
  rcases State.expiry_cases mic timer act s with hx | ⟨-, -, -, -, hx⟩ | ⟨e, he, hd, -, hx⟩ <;> rw [hx]
  · exact h
  · exact entryFault mic s h
  · exact hact e he hd

theorem lossExpiry (h : RecordsObey A T s) (mic : Nat) : RecordsObey A T (s.lossExpiry mic) :=
  h.expiry mic _ fun e _ _ => by
    split
    · exact h.becomeSilent mic
    · exact h.becomeCovered mic

theorem forgetExpiry (h : RecordsObey A T s) (mic : Nat) : RecordsObey A T (s.forgetExpiry mic) :=
  h.expiry mic _ fun e _ _ => by
    split
    · exact h.removeEntry entryFault mic
    · exact h.modOther mic (by exact fun _ => rfl)

theorem lostForgetExpiry (h : RecordsObey A T s) (mic : Nat) : RecordsObey A T (s.lostForgetExpiry mic) :=
  h.expiry mic _ fun e _ _ => by
    split
    · exact h.removeEntry entryFault mic
    · exact h.modOther mic (by exact fun _ => rfl)

theorem epochExpiry (h : RecordsObey A T s) (mic : Nat) : RecordsObey A T (s.epochExpiry mic) :=
  h.expiry mic _ fun e _ _ => by
    split
    · exact h.modOther mic (by exact fun _ => rfl)
    · exact (h.modOther mic (by exact fun _ => rfl)).giveInput mic _

theorem staleExpiry (h : RecordsObey A T s) (mic : Nat) : RecordsObey A T (s.staleExpiry mic) :=
  h.expiry mic _ fun _ _ _ => (h.modOther mic (by exact fun _ => rfl)).giveInput mic _

theorem levelHandOff (h : RecordsObey A T s) (mic : Nat) (k : Kind) : RecordsObey A T (s.levelHandOff mic k) := by
  rcases State.levelHandOff_cases mic k s with ⟨-, hl⟩ | ⟨e, -, ⟨-, -, hl⟩ | ⟨-, hl⟩⟩ <;> rw [hl]
  · exact h
  · exact h.removeEntry entryFault mic
  · split
    · exact ((h.updateLost entryFault).selectCue mic).selectLamp _
    · exact (h.selectCue mic).selectLamp _

/-- RAISE, SHIFT and CLEAR are moves of the record, and the announcement treats its repeat timer (R62, R65, R67, R76). -/
theorem persistenceExpiry (h : RecordsObey A T s) (mic : Nat) (k : Kind) : RecordsObey A T (s.persistenceExpiry mic k) :=
  h.expiry mic _ fun e he _ => by
    have moved : ∀ (f : Record → Record) (reason : Reason), (A (e.record k) → A (f (e.record k))) →
        RecordsObey A T (((s.modRecord mic k f).announce mic k reason).levelHandOff mic k) := fun f reason hf =>
      ((h.moveRecord fun x hx => by
        obtain rfl : e = x := Option.some.inj (he.symm.trans hx)
        exact hf).announce reason).levelHandOff mic k
    unfold State.persistenceEnds
    cases hst : (e.record k).state with
    | quiet => exact h
    | qualifying => exact moved _ _ (h.moves.raised _ hst)
    | active => exact h
    | shifting => exact moved _ _ (h.moves.shifted hst)
    | releasing => exact moved _ _ (h.moves.released _)

/-- A due repeat timer is that of a record that repeats, so it may be reloaded; the request leaves the level, the flag and the role
(R77). -/
theorem repeatExpiry (h : RecordsObey A T s) (mic : Nat) (k : Kind) : RecordsObey A T (s.repeatExpiry mic k) :=
  h.expiry mic _ fun e he hd => by
    obtain ⟨hmem, hmic⟩ := State.entry?_some he
    refine (h.requestWarn mic k .repeated).modRecord (fun x _ => h.moves.untold rfl) fun x hx hk _ => ?_
    have repeats : (e.record k).repeats e.role = true :=
      ((h.entries e hmem k).2 (hmic ▸ hk)).symm.trans (Timer.isRunning_of_isDue hd)
    have hview := (State.requestWarn_told mic k .repeated s).entry?_untold mic
    rw [hx, he] at hview
    have huntold : x.untold = e.untold := Option.some.inj hview
    have hrecord : (x.record k).untold = (e.record k).untold := by rw [← Entry.untold_record, huntold, Entry.untold_record]
    have hsame : (x.record k).repeats x.role = (e.record k).repeats e.role := by
      rw [Entry.role_of_untold huntold]
      exact congrArg (fun r => r.repeats e.role) hrecord
    exact (hsame.trans repeats).symm

theorem claimExpires (h : RecordsObey A T s) (mic station : Nat) : RecordsObey A T (s.claimExpires mic station) :=
  h.expiry mic _ fun _ _ _ => h.removeClaim mic station

theorem pendingExpiry (h : RecordsObey A T s) (mic : Nat) : RecordsObey A T (s.pendingExpiry mic) :=
  h.expiry mic _ fun e _ _ => by
    have stopped := h.modOther mic (f := fun e => { e with pendingTimer := .stopped }) fun _ => rfl
    dsimp only
    split
    · exact stopped.decideRole mic _
    · exact stopped

theorem takeoverExpiry (h : RecordsObey A T s) (mic : Nat) : RecordsObey A T (s.takeoverExpiry mic) :=
  h.expiry mic _ fun e _ _ => by
    have stopped := h.modOther mic (f := fun e => { e with takeover := .stopped }) fun _ => rfl
    dsimp only
    split
    · exact stopped
    · exact stopped.gainReporter mic

theorem refreshExpiry (h : RecordsObey A T s) (mic : Nat) : RecordsObey A T (s.refreshExpiry mic) :=
  h.expiry mic _ fun _ _ _ => (h.offerCue _).modOther mic (by exact fun _ => rfl)

end RecordsObey

end Sys2Proof.Machine
end

section
/-! The warning records through sightings, the load, the station's timers, the frames taken and the line; through every command and
every step (R57 to R67, R76 to R79). -/

namespace Sys2Proof.Machine

/-! ## Operations that do not reach the table -/

theorem insertEntry_perm (e : Entry) (l : List Entry) : (insertEntry e l).Perm (e :: l) := by
  induction l with
  | nil => exact .refl _
  | cons x rest ih =>
    simp only [insertEntry]
    split
    · exact (ih.cons x).trans (.swap e x rest)
    · exact .refl _

section
variable (s : State)

theorem State.beginLoad_table (straps : BitVec 4) : (s.beginLoad straps).table = s.table := by
  unfold State.beginLoad
  split <;> rfl

theorem State.windowEnds_table : s.windowEnds.table = s.table := by
  unfold State.windowEnds
  split <;> rfl

theorem State.startTransfer_table (crdy : Bool) : (s.startTransfer crdy).table = s.table := by
  unfold State.startTransfer
  split
  · split <;> rfl
  · rfl

theorem State.endTransfer_table : s.endTransfer.table = s.table := by
  unfold State.endTransfer
  split <;> rfl

theorem State.phaseExpiry_table (l : Lamp) : (s.phaseExpiry l).table = s.table := by
  unfold State.phaseExpiry
  split
  · cases l <;> rfl
  · rfl

theorem State.lineQuiet_table : s.lineQuiet.table = s.table := by
  unfold State.lineQuiet
  split <;> rfl

theorem State.lineStart_table : s.lineStart.table = s.table := by
  unfold State.lineStart
  split
  · dsimp only
    split <;> rfl
  all_goals rfl

theorem State.slotEnds_table : s.slotEnds.table = s.table := by
  unfold State.slotEnds
  split
  · split
    · split <;> rfl
    · rfl
  all_goals rfl

theorem State.sendDone_table : s.sendDone.table = s.table := by
  unfold State.sendDone
  split <;> rfl

theorem State.acceptFrame_table (source : Nat) (body : Option RxBody) : (s.acceptFrame source body).table = s.table := by
  unfold State.acceptFrame State.offerRx
  split
  · split
    · split <;> rfl
    · rfl
  · rfl

end

namespace RecordsObey

variable {A : Record → Prop} {T : Set (Nat × Kind)} {s t : State}

/-! ## The feed and sightings -/

theorem feedReturn (h : RecordsObey A T s) : RecordsObey A T s.feedReturn := by
  unfold State.feedReturn
  extract_lets live marked queued
  have hmarked : RecordsObey A T marked :=
    (h.frame (t := live) rfl).sweep entryFault fun mic _ hs => hs.modOther mic (by exact fun _ => rfl)
  have hqueued : RecordsObey A T queued := hmarked.frame rfl
  split
  · exact hqueued.leaveFeedDown
  · exact hqueued

theorem recordDone (h : RecordsObey A T s) (bits : List Bool) : RecordsObey A T (s.recordDone bits) := by
  have offered : ∀ (u : State) (g : Sighting), RecordsObey A T u → RecordsObey A T (u.offerSighting g) := fun u g hu => by
    unfold State.offerSighting
    split <;> exact hu.frame rfl
  have accepted : ∀ (u : State) (b : List Bool), RecordsObey A T u → RecordsObey A T (u.acceptRecord b) := fun u b hu => by
    unfold State.acceptRecord
    dsimp only
    split
    · exact offered _ _ (hu.frame (t := u.count .feedAccepted) rfl).feedReturn
    · exact offered _ _ (hu.frame rfl)
  unfold State.recordDone
  dsimp only
  split
  · exact h.frame rfl
  · split
    · unfold State.validateRecord
      split
      · exact h.frame rfl
      · exact h.frame rfl
      · exact h.frame rfl
      · exact accepted _ _ (h.frame rfl)
    · exact h
    · exact h.frame rfl

theorem feedSilence (h : RecordsObey A T s) : RecordsObey A T s.feedSilence := by
  unfold State.feedSilence
  dsimp only
  split
  · split
    · exact (h.frame (t := { s with feed := .silent, feedTimer := .stopped }) rfl).enterFeedDown false
    · exact h.frame rfl
  · exact h

theorem processStep (h : RecordsObey A T s) (creating : Bool) (g : Sighting) (n : Nat) :
    RecordsObey A T (s.processStep creating g n) := by
  unfold State.processStep
  split
  · exact h.modOther g.mic fun _ => rfl
  · exact h.modOther g.mic fun e => by rw [Entry.sample_eq]; rfl
  · exact h.modOther g.mic fun e => by rw [Entry.muteStep_eq]; rfl
  · exact ((h.modOther g.mic (by exact fun _ => rfl)).giveInputs g.mic).updateLost entryFault
  · exact h.computeRole g.mic
  · exact h.selectCue g.mic
  · exact h.selectWarningLamps
  · exact h

theorem proceed (h : RecordsObey A T s) (through : Nat) (p : Processing) : RecordsObey A T (s.proceed through p) := by
  suffices ∀ (count first : Nat) (u : State), RecordsObey A T u → RecordsObey A T (u.workThrough p first count) from
    (this _ _ s h).frame rfl
  intro count
  induction count with
  | zero => exact fun _ _ hu => hu
  | succ n ih =>
    refine fun first u hu => ih _ _ ?_
    unfold State.workOn
    split
    · exact hu
    · exact hu.processStep ..

/-- A new entry's records are at their starting values, and it is not reported (R20, R57). -/
theorem addEntry (h : RecordsObey A T s) {g : Sighting} (hn : s.entry? g.mic = none) (through : Nat) :
    RecordsObey A T (s.addEntry through g) := by
  refine RecordsObey.proceed ⟨h.moves, ?_, fun e he => ?_⟩ through _
  · have hperm := ((insertEntry_perm (s.newEntry g) s.table).map Entry.mic).nodup_iff
    rw [List.map_cons, List.nodup_cons] at hperm
    refine hperm.mpr ⟨fun hmem => ?_, h.distinct⟩
    obtain ⟨x, hx, hxm⟩ := List.mem_map.mp hmem
    exact State.entry?_none.mp hn x hx hxm
  · rcases mem_insertEntry.mp he with rfl | he
    · exact fun k => by cases k <;> exact ⟨h.moves.fresh, fun _ => Record.RepeatsRight.fresh _⟩
    · exact h.entries e he

theorem admitOrEvict (h : RecordsObey A T s) {g : Sighting} (hn : s.entry? g.mic = none) (through : Nat) :
    RecordsObey A T (s.admitOrEvict through g) := by
  have gone : ∀ {t : State}, s.Follows Entry.place t → t.entry? g.mic = none := fun hst => hst.gone hn
  unfold State.admitOrEvict
  split
  · exact h.addEntry hn through
  · unfold State.evictFor
    split
    · exact (entryFault _ s h).addEntry (gone ((State.Follows.refl _ s).entryFault _)) through
    · split
      · exact (h.removeEntry entryFault _).addEntry (gone (State.removeEntry_follows _ s)) through
      · exact h.frame rfl

theorem takeSighting (h : RecordsObey A T s) (through : Nat) : RecordsObey A T (s.takeSighting through) := by
  unfold State.takeSighting
  split
  · exact h.proceed through _
  · split
    · rename_i g rest _
      have taken : RecordsObey A T { s with intake := rest, inProcessing := none } := h.frame rfl
      unfold State.sight
      split
      · split
        · exact (taken.modOther g.mic (by exact fun _ => rfl)).proceed through _
        · exact (entryFault g.mic _ taken).admitOrEvict (State.entryFault_gone ‹_›) through
      · exact taken.admitOrEvict ‹_› through
    · exact h

/-! ## The load, JOINING and RESTART -/

theorem completeLoad (h : RecordsObey A T s) (src : Source) (im : Image) : RecordsObey A T (s.completeLoad src im) := by
  unfold State.completeLoad
  dsimp only
  split
  · exact (h.frame (t := { s.withImage src im with fault := _ }) rfl).enterListenOnly entryFault
  · exact (h.frame (t := { s.withImage src im with station := _, joining := _ }) rfl).stationHandOff

theorem badArea (h : RecordsObey A T s) (area : Area) : RecordsObey A T (s.badArea area) := by
  cases area with
  | site => exact h.frame rfl
  | factory => exact h.completeLoad _ _

theorem areaRead (h : RecordsObey A T s) (answer : Option (List Byte)) : RecordsObey A T (s.areaRead answer) := by
  unfold State.areaRead
  split
  · split
    · exact h.completeLoad _ _
    · exact h.badArea _
  · exact h
  · exact h

theorem areaTimeout (h : RecordsObey A T s) : RecordsObey A T s.areaTimeout := by
  unfold State.areaTimeout
  split
  · split
    · exact h.badArea _
    · exact h
  · exact h
  · exact h

theorem joiningEnds (h : RecordsObey A T s) : RecordsObey A T s.joiningEnds := by
  have stopped : RecordsObey A T { s with joining := .stopped } := h.frame rfl
  unfold State.joiningEnds
  split
  · split
    · exact stopped.enterRunning
    · exact stopped.enterFeedDown true
  · exact h

theorem empty (h : RecordsObey A T s) (ht : t.table = []) : RecordsObey A T t :=
  ⟨h.moves, by simp [State.mics, ht], by simp [ht]⟩

theorem restarted (h : RecordsObey A T s) : RecordsObey A T s.restarted := by
  have cleared : RecordsObey A T s.cleared := h.empty rfl
  have rejoined : RecordsObey A T s.cleared.rejoin := by
    unfold State.rejoin
    split
    · exact cleared.requestStation false
    · exact cleared.frame rfl
  exact (rejoined.selectLamp .station).frame rfl

/-! ## The station's timers -/

theorem zoneRepeatExpiry (h : RecordsObey A T s) : RecordsObey A T s.zoneRepeatExpiry := by
  unfold State.zoneRepeatExpiry
  split
  · exact (h.requestStation false).frame rfl
  · exact h

theorem stationRepeatExpiry (h : RecordsObey A T s) : RecordsObey A T s.stationRepeatExpiry := by
  unfold State.stationRepeatExpiry
  split
  · exact (h.requestStation false).frame rfl
  · exact h

theorem floorSweep (h : RecordsObey A T s) : RecordsObey A T s.floorSweep :=
  h.sweep entryFault fun mic _ hs => (hs.modOther mic (by exact fun _ => rfl)).giveInput mic _

theorem floorExpiry (h : RecordsObey A T s) : RecordsObey A T s.floorExpiry := by
  unfold State.floorExpiry
  split
  · exact (h.frame (t := { s with floor := .stale, floorTimer := .stopped }) rfl).floorSweep
  · exact h

theorem absenceExpiry (h : RecordsObey A T s) (n : Nat) : RecordsObey A T (s.absenceExpiry n) := by
  unfold State.absenceExpiry
  split
  · exact (h.frame (t := { s with roster := s.roster.set n .absent }) rfl).sweep entryFault fun mic _ hs => hs.removeClaim mic n
  · exact h

theorem visit {r : Round} (h : RecordsObey A T r.state) (mic : Nat) : RecordsObey A T (r.visit mic).state := by
  unfold Round.visit
  split
  · exact h
  · split
    · exact entryFault mic _ h
    · split
      · exact h
      · split
        · exact h
        · exact h.requestFrame _

theorem makeRound (h : RecordsObey A T s) : RecordsObey A T s.makeRound := by
  have visits : ∀ (mics : List Nat) (r : Round), RecordsObey A T r.state → RecordsObey A T (mics.foldl Round.visit r).state := by
    intro mics
    induction mics with
    | nil => exact fun _ hr => hr
    | cons mic rest ih => exact fun r hr => ih _ (hr.visit mic)
  unfold State.makeRound
  extract_lets fresh visited
  have hvisited : RecordsObey A T visited.state := visits _ ⟨fresh, []⟩ (h.frame rfl)
  split
  · exact hvisited
  · exact hvisited.requestFrame _

theorem claimRoundExpiry (h : RecordsObey A T s) : RecordsObey A T s.claimRoundExpiry := by
  unfold State.claimRoundExpiry
  dsimp only
  split
  · split
    · exact h.makeRound.frame rfl
    · exact h.makeRound
  · exact h

/-! ## The frames taken -/

/-- A dispatch keeps the records when the work of every frame does. -/
theorem dispatch (h : RecordsObey A T s) {act : Nat → RxBody → Option (State → State)}
    (hact : ∀ source body work, act source body = some work → ∀ u, RecordsObey A T u → RecordsObey A T (work u)) :
    RecordsObey A T (s.dispatch act) := by
  unfold State.dispatch
  split
  · rename_i f rest _ _
    split
    · exact (hact _ _ _ ‹_› _ (h.frame (t := { s with rx := rest, inDispatch := some f }) rfl)).frame rfl
    · exact h
  · exact h

theorem takeClaims (h : RecordsObey A T s) (source : Nat) (pairs : List Pair) : RecordsObey A T (s.takeClaims source pairs) := by
  unfold State.takeClaims
  induction pairs generalizing s with
  | nil => exact h
  | cons p rest ih =>
    rw [List.foldl_cons]
    refine ih ?_
    unfold State.takeClaim
    split
    · exact h
    · exact h.verified entryFault p.mic fun _ _ => h.enterClaimFor p.mic _

theorem ackHandOff (h : RecordsObey A T s) (mic : Nat) (k : Kind) : RecordsObey A T (s.ackHandOff mic k) := by
  unfold State.ackHandOff
  split
  · exact h
  · split
    · exact h.removeEntry entryFault mic
    · exact h.selectLamp _

/-- A matching ACK is of the record's level, which is not NONE (R70). -/
theorem acknowledge (h : RecordsObey A T s) {mic : Nat} {e : Entry} (he : s.entry? mic = some e) (k : Kind) (l : Level) :
    RecordsObey A T (s.acknowledge mic k l e) := by
  unfold State.acknowledge
  split
  · rename_i hl
    have acked : RecordsObey A T (s.modRecord mic k Record.acknowledge) :=
      h.modRecord (fun x hx => by
        obtain rfl : e = x := Option.some.inj (he.symm.trans hx)
        exact h.moves.acknowledge fun hn => hl.2 (hl.1.symm.trans hn)) fun _ _ _ _ => Record.RepeatsRight.acknowledge ..
    exact (acked.frame (t := (s.modRecord mic k Record.acknowledge).ackQueued mic k l) rfl).ackHandOff mic k
  · exact h.frame rfl

theorem absorbWarn (h : RecordsObey A T s) (w : Warn) (e : Entry) : RecordsObey A T (s.absorbWarn w e) := by
  have told : RecordsObey A T (s.modRecord w.mic w.kind (Record.absorb w)) :=
    h.modRecord (fun _ _ => h.moves.absorb w) fun _ _ _ hr => hr.absorb w
  unfold State.absorbWarn
  dsimp only
  split
  · exact (told.frame (t := (s.modRecord w.mic w.kind (Record.absorb w)).ackQueued w.mic w.kind w.level) rfl).ackHandOff ..
  · exact told

theorem applyWarn (h : RecordsObey A T s) (source : Nat) (w : Warn) (e : Entry) : RecordsObey A T (s.applyWarn source w e) := by
  have claimed : RecordsObey A T ((s.absorbWarn w e).warnClaim source w) := by
    unfold State.warnClaim
    split
    · exact (h.absorbWarn w e).enterClaimFor ..
    · exact h.absorbWarn w e
  have yielded : RecordsObey A T (((s.absorbWarn w e).warnClaim source w).yieldTo source w) := by
    unfold State.yieldTo
    split
    · exact claimed
    · split
      · exact (claimed.loseReporter w.mic).modOther w.mic (by exact fun _ => rfl)
      · exact claimed
  unfold State.applyWarn State.cancelTakeover
  split
  · exact yielded
  · split
    · exact yielded.modOther w.mic (by exact fun _ => rfl)
    · exact yielded

theorem answerEntry (h : RecordsObey A T s) (mic : Nat) : RecordsObey A T (s.answerEntry mic) := by
  unfold State.answerEntry
  split
  · exact h.requestFrame _
  · split
    · exact h.requestFrame _
    · exact (entryFault mic s h).requestFrame _

theorem claimTaken (h : RecordsObey A T s) : RecordsObey A T (s.dispatch claimWork) :=
  h.dispatch fun source body work hw u hu => by
    cases body <;> cases hw
    exact hu.takeClaims source _

theorem ackTaken (h : RecordsObey A T s) : RecordsObey A T (s.dispatch ackWork) :=
  h.dispatch fun _ body work hw u hu => by
    cases body <;> cases hw
    exact hu.verified entryFault _ fun e he => hu.acknowledge he _ _

theorem warnTaken (h : RecordsObey A T s) : RecordsObey A T (s.dispatch warnWork) :=
  h.dispatch fun source body work hw u hu => by
    cases body <;> cases hw
    exact hu.verified entryFault _ fun e _ => hu.applyWarn source _ e

theorem floorTaken (h : RecordsObey A T s) : RecordsObey A T (s.dispatch floorWork) :=
  h.dispatch fun _ body work hw u hu => by
    cases body <;> cases hw
    rename_i mics
    exact (hu.frame (t := { u with floorSet := floorSetOf mics, floor := .fresh, floorTimer := u.after u.params.floorMs })
      rfl).floorSweep

theorem entryQuery (h : RecordsObey A T s) : RecordsObey A T (s.dispatch entryQueryWork) :=
  h.dispatch fun _ body work hw u hu => by
    unfold entryQueryWork at hw
    split at hw <;> cases hw
    dsimp only
    split
    · exact hu.answerEntry _
    · exact hu

theorem statsQuery (h : RecordsObey A T s) : RecordsObey A T (s.dispatch statsQueryWork) :=
  h.dispatch fun _ body work hw u hu => by
    unfold statsQueryWork at hw
    split at hw <;> cases hw
    dsimp only
    split
    · exact hu.requestFrame _
    · exact hu

theorem restart (h : RecordsObey A T s) : RecordsObey A T (s.dispatch restartWork) :=
  h.dispatch fun _ body work hw u hu => by
    cases body <;> cases hw
    exact hu.restarted

theorem peerReportTaken (h : RecordsObey A T s) : RecordsObey A T (s.dispatch reportWork) :=
  h.dispatch fun _ body work hw u hu => by
    cases body <;> cases hw
    exact hu

/-! ## The line -/

theorem collide (h : RecordsObey A T s) : RecordsObey A T s.collide := by
  unfold State.collide
  split
  · have freed : RecordsObey A T (({ s with access := .busy, inFlight := none }).count .collisions) := h.frame rfl
    unfold State.handBack
    split
    · exact freed.dropReturning _
    · exact freed.recheck _
  · exact h

theorem duplicateNumber (h : RecordsObey A T s) : RecordsObey A T s.duplicateNumber := by
  have entered := (h.frame (t := { s with fault := some .duplicateId }) rfl).enterListenOnly entryFault
  unfold State.duplicateNumber
  split
  · exact h
  · exact h
  · exact entered
  · exact entered
  · exact entered

theorem receive (h : RecordsObey A T s) (bytes : List Byte) (framing : Bool) : RecordsObey A T (s.receive bytes framing) := by
  unfold State.receive
  extract_lets cleared
  have hcleared : RecordsObey A T cleared := h.frame rfl
  split
  · exact hcleared.frame rfl
  · split
    · exact hcleared.duplicateNumber
    · exact hcleared.frame (State.acceptFrame_table ..)

theorem frameDone (h : RecordsObey A T s) (bits : List Bool) (gap : Nat) (headMissed : Bool) :
    RecordsObey A T (s.frameDone bits gap headMissed) := by
  unfold State.frameDone
  split
  · exact h
  · split
    · exact h.frame rfl
    · exact h.receive _ _

/-! ## Commands and steps -/

/-- Every command keeps the records and their repeat timers. -/
theorem exec (h : RecordsObey A T s) {i : Instr} (hx : exec i s = .next t) : RecordsObey A T t := by
  cases i with
  | start cause => cases hx; exact h.empty rfl
  | loadBegin straps => cases hx; exact h.frame (State.beginLoad_table ..)
  | areaReadComplete answer => cases hx; exact h.areaRead answer
  | areaReadTimeout => cases hx; exact h.areaTimeout
  | strobeAsserted => cases hx; exact h.frame rfl
  | recordCompletion bits => cases hx; exact h.recordDone bits
  | feedSilenceExpiry => cases hx; exact h.feedSilence
  | sightingTaken through => cases hx; exact h.takeSighting through
  | lossTimerExpiry mic => cases hx; exact h.lossExpiry mic
  | forgetTimerExpiry mic => cases hx; exact h.forgetExpiry mic
  | lostForgetExpiry mic => cases hx; exact h.lostForgetExpiry mic
  | epochTimerExpiry mic => cases hx; exact h.epochExpiry mic
  | staleTimerExpiry mic => cases hx; exact h.staleExpiry mic
  | persistenceTimerExpiry mic kind => cases hx; exact h.persistenceExpiry mic kind
  | repeatTimerExpiry mic kind => cases hx; exact h.repeatExpiry mic kind
  | zoneRepeatTimerExpiry => cases hx; exact h.zoneRepeatExpiry
  | stationRepeatTimerExpiry => cases hx; exact h.stationRepeatExpiry
  | floorTimerExpiry => cases hx; exact h.floorExpiry
  | absenceTimerExpiry station => cases hx; exact h.absenceExpiry station
  | claimExpiry mic station => cases hx; exact h.claimExpires mic station
  | pendingTimerExpiry mic => cases hx; exact h.pendingExpiry mic
  | takeoverTimerExpiry mic => cases hx; exact h.takeoverExpiry mic
  | claimRoundTimerExpiry => cases hx; exact h.claimRoundExpiry
  | cueRefreshExpiry mic => cases hx; exact h.refreshExpiry mic
  | cueTransferStart crdy => cases hx; exact h.frame (State.startTransfer_table ..)
  | cueTransferComplete => cases hx; exact h.frame (State.endTransfer_table ..)
  | phaseTimerExpiry lamp => cases hx; exact h.frame (State.phaseExpiry_table ..)
  | joiningTimerExpiry => cases hx; exact h.joiningEnds
  | integrityWindowExpiry => cases hx; exact h.frame (State.windowEnds_table ..)
  | lineIdle => cases hx; exact h.frame (State.lineQuiet_table ..)
  | lineActivity => cases hx; exact h.frame (State.lineStart_table ..)
  | slotBoundary => cases hx; exact h.frame (State.slotEnds_table ..)
  | frameSent => cases hx; exact h.frame (State.sendDone_table ..)
  | collision => cases hx; exact h.collide
  | frameCompletion bits gap headMissed => cases hx; exact h.frameDone bits gap headMissed
  | claimTaken => cases hx; exact h.claimTaken
  | warnTaken => cases hx; exact h.warnTaken
  | floorTaken => cases hx; exact h.floorTaken
  | ackTaken => cases hx; exact h.ackTaken
  | entryQuery => cases hx; exact h.entryQuery
  | statsQuery => cases hx; exact h.statsQuery
  | restart => cases hx; exact h.restart
  | peerReportTaken => cases hx; exact h.peerReportTaken

theorem step (h : RecordsObey A T s) (hstep : step s = .next t) : RecordsObey A T t := by
  rcases step_cases hstep with ⟨c, rest, -, hx⟩ | ⟨-, p, -, hx⟩ | ⟨-, -, rfl⟩
  · exact (h.frame (t := { s with pending := rest }) rfl).exec hx
  · exact h.exec hx
  · exact h.frame rfl

end RecordsObey

/-- Settles O55: the laws of section 4.1 are kept by every operation, whatever the repeat timers. -/
theorem stepKeepsTheRecords : Obligations.StepKeepsTheRecords := by
  unfold Obligations.StepKeepsTheRecords
  intro s t hT h hstep
  exact (recordLaw_iff ((step_keeps hstep).table hT)).mpr (((recordLaw_iff hT).mp h).step hstep)

/-- Settles O56: R76 is kept of every record, whatever else the records are. -/
theorem stepKeepsTheRepeats : Obligations.StepKeepsTheRepeats := by
  unfold Obligations.StepKeepsTheRepeats
  intro s t hT h hstep
  exact (repeatLaw_iff ((step_keeps hstep).table hT)).mpr (((repeatLaw_iff hT).mp h).step hstep)

end Sys2Proof.Machine
end

section
/-! The persistence machine on a condition input, row by row (section 4.3). -/

namespace Sys2Proof.Machine

section
variable {r : Record}

/-- A record that has raised has a level (section 4.1). -/
theorem Record.Lawful.level_ne (h : r.Lawful) (hst : r.state = .active ∨ r.state = .shifting ∨ r.state = .releasing) :
    r.level ≠ .none := fun hn => by
  rcases h.level.mp hn with hq | hq <;> simp [hq] at hst

/-- A level that a record waits for is not NONE and not its own. -/
theorem Record.Lawful.pending_ne (h : r.Lawful) {l : Level} (hl : l = .none ∨ l = r.level) : r.pending ≠ some l := fun hp =>
  hl.elim (h.toward l hp).1 (h.toward l hp).2

end

/-- Settles O24: by the state of the record, each row being a branch of `Record.step` that the record's laws single out. -/
theorem persistenceMachine : Obligations.PersistenceMachine := by
  unfold Obligations.PersistenceMachine
  refine ⟨fun p => ⟨rfl, rfl, rfl, rfl, rfl, rfl, rfl, rfl, rfl⟩, fun p now k r h => ?_⟩
  intro on wait rest toward
  refine ⟨fun hst => ?_, fun hst => ?_, fun hst => ?_, fun hst => ?_, fun hst => ?_⟩ <;>
    simp only [on, Record.step, hst, if_true]
  · exact ⟨trivial, trivial, fun l hl => if_neg hl⟩
  · refine ⟨rfl, rfl, fun l hl => ?_, fun l hl hp => ?_⟩
    · rw [if_neg (h.toward l hl).1, if_pos hl]
    · rw [if_neg hl, if_neg hp]; rfl
  · have hn := h.level_ne (.inl hst)
    refine ⟨if_neg hn, trivial, rfl, fun l hl hne => ?_⟩
    rw [if_neg hl, if_neg hne]; rfl
  · have hn := h.level_ne (.inr (.inl hst))
    refine ⟨rfl, rfl, fun l hl => ?_, ?_, fun l hl hne hp => ?_⟩
    · rw [if_neg (h.toward l hl).2, if_pos hl]
    · rw [if_neg hn.symm, if_neg (h.pending_ne (.inl rfl))]; rfl
    · rw [if_neg hne, if_neg hp, if_neg hl]; rfl
  · have hn := h.level_ne (.inr (.inr hst))
    refine ⟨trivial, if_neg hn, rfl, fun l hl hne => ?_⟩
    rw [if_neg hl, if_neg hne]; rfl

end Sys2Proof.Machine
end

section
/-! Frames that stay queued: a WARN request with room (R75), and what a request does to the frames before it (R147). -/

namespace Sys2Proof.Machine

section
variable {s : State} {mic : Nat} {e : Entry} {k : Kind}

/-- A submission removes no frame as urgent as its own, and with room none at all. -/
theorem State.mem_submit {f : Frame} {g : TxFrame} (hg : g ∈ s.tx) (h : s.tx.length < txMax ∨ g.frame.cls ≤ f.cls) :
    g ∈ (s.submit f).1.tx := by
  rcases State.submit_cases f s with ⟨-, hs⟩ | ⟨hfull, v, rest, hv, hs⟩ | ⟨-, -, hs⟩ <;> rw [hs]
  · exact mem_placeTx.mpr (.inr hg)
  · obtain ⟨hcls, -, pre, post, hq, rfl, -⟩ := victimFor_some hv
    have hne : g ≠ v := fun hgv => by
      rcases h with h | h
      · omega
      · rw [hgv] at h; omega
    rw [State.discardFrame_eq]
    refine mem_placeTx.mpr (.inr ?_)
    rw [hq] at hg
    simp only [List.mem_append, List.mem_cons] at hg ⊢
    tauto
  · exact hg

/-- A WARN request that passes the gates is queued when the queue has room (R75, R144). -/
theorem State.requestWarn_queued (he : s.entry? mic = some e) (hg : s.warnGate e k = true) (hl : s.tx.length < txMax)
    (reason : Reason) : ⟨.warn (composeWarn s.now e k reason), 0⟩ ∈ (s.requestWarn mic k reason).tx := by
  have hroom : (s.removeWhere (Frame.warnFor mic k)).tx.length < txMax := (List.length_filter_le ..).trans_lt hl
  have hsubmit : (s.removeWhere (Frame.warnFor mic k)).submit (.warn (composeWarn s.now e k reason)) =
      ({ s.removeWhere (Frame.warnFor mic k) with
        tx := placeTx ⟨.warn (composeWarn s.now e k reason), 0⟩ (s.removeWhere (Frame.warnFor mic k)).tx }, true) := if_pos hroom
  simp only [State.requestWarn, he, hg, if_true, hsubmit]
  exact mem_placeTx.mpr (.inl rfl)

/-- A request leaves at most one frame more. -/
theorem State.requestWarn_length (mic : Nat) (k : Kind) (reason : Reason) (s : State) :
    (s.requestWarn mic k reason).tx.length ≤ s.tx.length + 1 := by
  have placed : ∀ f, ((s.removeWhere (Frame.warnFor mic k)).submit f).1.tx.length ≤ s.tx.length + 1 := fun f => by
    have hlen : (s.removeWhere (Frame.warnFor mic k)).tx.length ≤ s.tx.length := List.length_filter_le ..
    rcases State.submit_cases f (s.removeWhere (Frame.warnFor mic k)) with ⟨-, hs⟩ | ⟨-, v, rest, hv, hs⟩ | ⟨-, -, hs⟩ <;> rw [hs]
    · simp only [length_placeTx]; omega
    · obtain ⟨-, -, pre, post, hq, rfl, -⟩ := victimFor_some hv
      have := congrArg List.length hq
      rw [State.discardFrame_eq]
      simp only [State.count_tx, length_placeTx, List.length_append, List.length_cons] at this ⊢
      omega
    · rw [State.count_tx]; omega
  unfold State.requestWarn
  split
  · omega
  · split
    · dsimp only
      split
      · exact placed _
      · exact placed _
    · omega

/-- Settles O26: a due expiry of a sound table is the request and one change of the repeat timer. -/
theorem repeatExpires : Obligations.RepeatExpires := by
  unfold Obligations.RepeatExpires
  intro s mic k e hT hS he hdue again
  have hexec : exec (.repeatTimerExpiry mic k) s = .next ((s.requestWarn mic k .repeated).modRecord mic k fun r =>
      { r with repeatTimer := again }) := congrArg _ (State.expiry_due hS he hdue _)
  rw [hexec]
  refine ⟨fun hgate => ?_, fun hgate => ⟨_, rfl, ?_⟩⟩
  · have hblocked : s.requestWarn mic k .repeated = s := by simp [State.requestWarn, he, hgate]
    rw [hblocked]
    exact congrArg _ (State.modEntry_exact hT hS he rfl (by simp))
  · have requested := State.requestWarn_told mic k .repeated s
    have told := requested.trans (State.modRecord_told (mic := mic) (k := k)
      (f := fun r => { r with repeatTimer := again }) fun _ => rfl)
    refine ⟨told.only, told.view, fun f hf => ?_, fun hroom =>
      ⟨⟨.warn (composeWarn s.now e k .repeated), 0⟩, State.requestWarn_queued he hgate hroom .repeated, rfl⟩⟩
    rw [State.entry?_modRecord] at hf
    obtain ⟨x, -, rfl⟩ := Option.map_eq_some_iff.mp hf
    rw [if_pos rfl, Entry.record_checked, Entry.record_setRecord_same]

end

end Sys2Proof.Machine
end

section
/-! Acknowledgements by the console (R70, R71, R29, R149). -/

namespace Sys2Proof.Machine

/-! ## The queued WARN (R149) -/

theorem markAcked_match {mic : Nat} {k : Kind} {l : Level} {x : TxFrame} {w : Warn} (hx : x.frame = .warn w)
    (h : w.mic = mic ∧ w.kind = k ∧ w.level = l) : markAcked mic k l x = { x with frame := .warn { w with acked := true } } := by
  simp only [markAcked, hx, if_pos h]

theorem markAcked_other {mic : Nat} {k : Kind} {l : Level} {x : TxFrame}
    (h : ∀ w, x.frame = .warn w → ¬(w.mic = mic ∧ w.kind = k ∧ w.level = l)) : markAcked mic k l x = x := by
  unfold markAcked
  split
  · exact if_neg (h _ ‹_›)
  · rfl

section
variable {s : State} {mic : Nat} {k : Kind} {l : Level} {e : Entry}

/-! ## The taking -/

theorem State.verified_entry (hS : SoundLaw s) (he : s.entry? mic = some e) (fx : Nat → State → State)
    (act : Entry → State → State) : s.verified fx mic act = act e s := by
  simp only [State.verified, he, hS e (State.entry?_some he).1, if_true]

/-- Hand-offs within a dispatch, seen from outside it. -/
theorem State.onlyHandOffs_dispatched {u : State} {f : Option RxFrame} (hi : s.inDispatch = none)
    (h : State.onlyHandOffs { s with inDispatch := f } u) : s.onlyHandOffs { u with inDispatch := none } := by
  unfold State.onlyHandOffs at *
  rw [h, ← hi]

/-- A held SILENT entry whose SIGNAL record has just been acknowledged is let go (R29). -/
theorem Entry.letGo_iff (e : Entry) :
    e.letGo = true ↔ e.presence = .silent ∧ e.lostForget = .expired ∧ e.recSignal.acked = true := by
  simp [Entry.letGo, and_assoc]

/-- The record that a matching ACK leaves, in its entry (R70). -/
def Entry.acknowledged (k : Kind) (e : Entry) : Entry := e.setRecord k (e.record k).acknowledge

/-- An acknowledged entry is let go when it is held and the ACK was of its SIGNAL record (R29). -/
theorem Entry.acknowledged_letGo (k : Kind) (e : Entry) :
    (k = .signal ∧ (e.acknowledged k).letGo = true) ↔ k = .signal ∧ e.presence = .silent ∧ e.lostForget = .expired := by
  refine and_congr_right fun hk => ?_
  subst hk
  rw [Entry.letGo_iff]
  exact ⟨fun ⟨hp, hf, _⟩ => ⟨hp, hf⟩, fun ⟨hp, hf⟩ => ⟨hp, hf, rfl⟩⟩

/-- The mark of a matching ACK in the table and the queue: one exact change (R70, R149). -/
theorem State.acknowledge_marked (hT : TableLaw s) (hS : SoundLaw s) (he : s.entry? mic = some e) (k : Kind) (l : Level) :
    (s.modRecord mic k Record.acknowledge).ackQueued mic k l = { s with
      table := s.table.map fun x => if x.mic = mic then e.acknowledged k else x
      tx := s.tx.map (markAcked mic k l) } := by
  have hmark : s.modRecord mic k Record.acknowledge =
      { s with table := s.table.map fun x => if x.mic = mic then e.acknowledged k else x } :=
    State.modEntry_exact hT hS he rfl (by simp [Entry.acknowledged])
  rw [hmark]
  rfl

/-- The hand-offs of a matching ACK: the entry is let go, or its lamp is selected (R71, R29). -/
theorem State.acknowledge_eq (he : s.entry? mic = some e) (hS : SoundLaw s) (hl : (e.record k).level = l) (hn : l ≠ .none) :
    s.acknowledge mic k l e =
      if k = .signal ∧ e.presence = .silent ∧ e.lostForget = .expired then
        ((s.modRecord mic k Record.acknowledge).ackQueued mic k l).removeEntry State.entryFault mic
      else ((s.modRecord mic k Record.acknowledge).ackQueued mic k l).selectLamp (lampOf k) := by
  have hfound : ((s.modRecord mic k Record.acknowledge).ackQueued mic k l).entry? mic = some (e.acknowledged k) := by
    refine (State.modEntry_found he _ fun x => by simp).trans (congrArg some (Entry.checked_eq ?_))
    rw [Entry.setRecord_checkGood]
    exact hS e (State.entry?_some he).1
  rw [State.acknowledge, if_pos ⟨hl, hn⟩, State.ackHandOff]
  simp only [hfound, Entry.acknowledged_letGo]

end

/-- Settles O45: the dispatch is the visit to the entry, which counts the ACK stale, or marks and hands on. -/
theorem ackTaken : Obligations.AckTaken := by
  unfold Obligations.AckTaken
  refine ⟨fun mic k l x => ⟨fun w hx h => markAcked_match hx h, markAcked_other⟩, ?_⟩
  intro s source mic k l rest hT hS hi hrx taken
  let met : State := { taken with inDispatch := some ⟨source, .ack mic k l⟩ }
  have hdone : { met with inDispatch := none } = taken := by rw [← hi]
  have hexec : ∀ u, met.verified State.entryFault mic (State.acknowledge mic k l) = u →
      exec .ackTaken s = .next { u with inDispatch := none } := fun u hu => by
    rw [← hu]
    exact congrArg _ (State.dispatch_eq hi hrx rfl)
  have hmetT : TableLaw met := ⟨hT.ascending, hT.atMost96, hT.seats, hT.queuedSeats⟩
  refine ⟨fun hnone => ?_, fun e he => ?_⟩
  · have hnone' : met.entry? mic = none := hnone
    rw [hexec met (by simp only [State.verified, hnone']), hdone]
  · have hmet : met.entry? mic = some e := he
    have hverified := State.verified_entry (s := met) hS hmet State.entryFault (State.acknowledge mic k l)
    intro held
    refine ⟨fun hstale => ?_, fun hl hn hheld => ?_, fun hl hn hheld => ?_⟩
    · have hother : ¬((e.record k).level = l ∧ l ≠ .none) := fun ⟨hl, hn⟩ => hstale.elim (· hl) hn
      rw [hexec _ (hverified.trans (if_neg hother)), ← hdone]
      rfl
    · rw [hexec _ (hverified.trans ((State.acknowledge_eq hmet hS hl hn).trans (if_neg hheld))),
        State.acknowledge_marked hmetT hS hmet, ← hdone]
      subst hl
      cases k <;> rfl
    · refine ⟨_, hexec _ (hverified.trans ((State.acknowledge_eq hmet hS hl hn).trans (if_pos hheld))), ?_⟩
      have marked : met.onlyHandOffs ((met.modRecord mic k Record.acknowledge).ackQueued mic k l) := rfl
      have sound : SoundLaw ((met.modRecord mic k Record.acknowledge).ackQueued mic k l) := SoundLaw.modEntry hS mic _
      obtain ⟨only, gone, view, -⟩ := State.removeEntry_leaves sound mic
      refine ⟨State.onlyHandOffs_dispatched (f := met.inDispatch) hi (State.onlyHandOffs_trans marked only), gone, view.trans ?_⟩
      exact congrArg _ (State.modEntry_filter mic (fun x => by simp) met)

end Sys2Proof.Machine
end

section
/-! A repeat timer and a WARN through the hand-offs that follow an announcement (R76, R80, R97 to R101): the timer stays as the
announcement has treated it, and the frame stays queued. -/

namespace Sys2Proof.Machine

/-! ## The repeat timer -/

/-- The repeat timer of the record of `k` is as a treatment at `due` leaves it (R76). -/
def Entry.TreatedAt (k : Kind) (due : Nat) (e : Entry) : Prop :=
  (e.record k).repeatTimer = ((e.record k).treatRepeat e.role due).repeatTimer

namespace Entry.TreatedAt

variable {k : Kind} {due : Nat} {e f : Entry}

theorem congr (h : e.TreatedAt k due) (hr : f.record k = e.record k) (hrole : f.role = e.role) : f.TreatedAt k due := by
  unfold Entry.TreatedAt
  rw [hr, hrole]
  exact h

/-- A record replaced by one that differs in what the chamber was told. -/
theorem tell (h : e.TreatedAt k due) (j : Kind) {r : Record} (hr : r.untold = (e.record j).untold)
    (ht : r.repeatTimer = (e.record j).repeatTimer) : (e.setRecord j r).TreatedAt k due := by
  by_cases hj : k = j
  · subst hj
    have hrep : r.repeats e.role = (e.record k).repeats e.role := congrArg (fun r => r.repeats e.role) hr
    unfold Entry.TreatedAt at h ⊢
    rw [Entry.record_setRecord_same, Entry.setRecord_role, ht, h]
    simp only [Record.treatRepeat, hrep]
  · exact h.congr (Entry.record_setRecord_other _ _ _ _ hj) (by simp)

/-- A record treated at the same time. -/
theorem treat (h : e.TreatedAt k due) (j : Kind) : (e.setRecord j ((e.record j).treatRepeat e.role due)).TreatedAt k due := by
  by_cases hj : k = j
  · subst hj
    unfold Entry.TreatedAt
    rw [Entry.record_setRecord_same, Entry.setRecord_role]
    rfl
  · exact h.congr (Entry.record_setRecord_other _ _ _ _ hj) (by simp)

end Entry.TreatedAt

/-- The repeat timer of a record is as a treatment now would leave it: due at `due`, or stopped. -/
structure State.Treated (mic : Nat) (k : Kind) (due : Nat) (s : State) : Prop where
  loads : s.now + s.params.repeatMs = due
  entries : ∀ e ∈ s.table, e.mic = mic → e.TreatedAt k due

namespace State.Treated

variable {mic : Nat} {k : Kind} {due : Nat} {s t : State}

theorem frame (h : s.Treated mic k due) (ht : (t.table, t.now, t.params) = (s.table, s.now, s.params)) : t.Treated mic k due := by
  obtain ⟨htable, hnow, hparams⟩ : t.table = s.table ∧ t.now = s.now ∧ t.params = s.params := by simpa using ht
  exact ⟨by rw [hnow, hparams]; exact h.loads, htable ▸ h.entries⟩

theorem mapEntry (h : s.Treated mic k due) (m : Nat) {f : Entry → Entry} (hmic : ∀ e, (f e).mic = e.mic)
    (hf : ∀ e, e.TreatedAt k due → (f e).TreatedAt k due) : (s.mapEntry m f).Treated mic k due := by
  refine ⟨h.loads, fun e he hm => ?_⟩
  obtain ⟨x, hx, rfl⟩ := State.mem_mapEntry he
  split at hm
  · rw [if_pos ‹_›]
    exact hf x (h.entries x hx ((hmic x).symm.trans hm))
  · rw [if_neg ‹_›]
    exact h.entries x hx hm

theorem modEntry (h : s.Treated mic k due) (m : Nat) {f : Entry → Entry} (hmic : ∀ e, (f e).mic = e.mic)
    (hf : ∀ e, e.TreatedAt k due → (f e).TreatedAt k due) : (s.modEntry m f).Treated mic k due :=
  h.mapEntry m (by exact hmic) fun e he => (hf e he).congr (Entry.record_checked ..) rfl

theorem discardFrame (h : s.Treated mic k due) (f : Frame) : (s.discardFrame f).Treated mic k due := by
  rcases State.discardFrame_cases f s with hd | ⟨w, -, hd⟩ <;> rw [hd]
  · exact h
  · refine h.mapEntry w.mic (fun e => by split <;> simp) fun e he => ?_
    dsimp only
    split
    · exact he
    · exact (he.tell w.kind (r := (e.record w.kind).forgotten) rfl rfl).congr (Entry.record_checked ..) rfl

theorem discardWhere (h : s.Treated mic k due) (drop : Frame → Bool) : (s.discardWhere drop).Treated mic k due :=
  State.discardWhere_keeps (P := State.Treated mic k due) (fun f _ hs => hs.discardFrame f) drop (h.frame rfl)

theorem submit (h : s.Treated mic k due) (f : Frame) : (s.submit f).1.Treated mic k due := by
  rcases State.submit_cases f s with ⟨-, hs⟩ | ⟨-, v, rest, -, hs⟩ | ⟨-, -, hs⟩ <;> rw [hs]
  · exact h.frame rfl
  · exact (h.frame (t := ({ s with tx := placeTx ⟨f, 0⟩ rest }).count .framesDropped) rfl).discardFrame v.frame
  · exact h.frame rfl

theorem announce (h : s.Treated mic k due) (m : Nat) (j : Kind) (reason : Reason) : (s.announce m j reason).Treated mic k due := by
  have requested : (s.requestWarn m j reason).Treated mic k due := by
    have placed := fun f => (h.frame (t := s.removeWhere (Frame.warnFor m j)) rfl).submit f
    unfold State.requestWarn
    split
    · exact h
    · split
      · dsimp only
        split
        · exact (placed _).modEntry m (fun e => by simp) fun e he => he.tell j rfl rfl
        · exact placed _
      · exact h
  refine requested.modEntry m (fun e => by simp) fun e he => ?_
  rw [h.loads]
  exact he.treat j

theorem requestStation (h : s.Treated mic k due) (start : Bool) : (s.requestStation start).Treated mic k due := by
  unfold State.requestStation
  split
  · have placed := fun f => (h.frame (t := s.removeWhere Frame.isStation) rfl).submit f
    dsimp only
    split
    · exact (placed _).frame rfl
    · exact placed _
  · exact h

theorem zoneHandOff (h : s.Treated mic k due) : s.zoneHandOff.Treated mic k due := h.frame (by simp [State.zoneHandOff])

theorem zoneEnter (h : s.Treated mic k due) (cause : ZoneCause) : (s.zoneEnter cause).Treated mic k due := by
  unfold State.zoneEnter
  extract_lets cleared asked
  have hasked : asked.Treated mic k due :=
    ((h.discardWhere Frame.lostWarn).frame (t := { cleared with zone := .inForce cause }) rfl).requestStation false
  exact (hasked.frame (t := { asked with zoneRepeat := asked.after asked.params.repeatMs }) rfl).zoneHandOff

theorem zoneEnd (h : s.Treated mic k due) (hS : SoundLaw s) (fx : Nat → State → State) : (s.zoneEnd fx).Treated mic k due := by
  let ended : State := { s with zone := .notInForce, zoneRepeat := .stopped }
  have asked : (ended.requestStation false).Treated mic k due := (h.frame (t := ended) rfl).requestStation false
  have sound : SoundLaw (ended.requestStation false) := (State.requestStation_told false ended).sound hS
  refine (State.sweep_keeps (P := fun u => u.Treated mic k due ∧ SoundLaw u) (fun m u e he hc hu => ?_)
    (fun m u _ _ _ hu => ⟨?_, (State.reannounce_told m u).sound hu.2⟩) ⟨asked, sound⟩).1.zoneHandOff
  · exact absurd (hu.2 e (State.entry?_some he).1) (by simp [hc])
  · unfold State.reannounce
    split
    · exact hu.1
    · split
      · exact hu.1.announce ..
      · exact hu.1

theorem updateLost (h : s.Treated mic k due) (hS : SoundLaw s) (fx : Nat → State → State) :
    (s.updateLost fx).Treated mic k due := by
  have counted : State.Treated mic k due { s with lostCount := lostOf s.table } := h.frame rfl
  rcases State.updateLost_cases fx s with hu | ⟨-, hu⟩ | ⟨-, hu⟩ <;> rw [hu]
  · exact counted
  · exact counted.zoneEnter _
  · exact counted.zoneEnd hS fx

theorem selectCue (h : s.Treated mic k due) (m : Nat) : (s.selectCue m).Treated mic k due := by
  have same : ∀ {f : Entry → Entry}, (∀ e, (f e).reports = e.reports) → (s.modEntry m f).Treated mic k due := fun {f} hf => by
    refine h.modEntry m (fun e => congrArg Prod.fst (hf e)) fun e he => ?_
    have := hf e
    simp only [Entry.reports, Prod.mk.injEq] at this
    refine he.congr ?_ this.2.1
    cases k <;> tauto
  have offer : ∀ (c : Cue) (u : State), u.Treated mic k due → (u.offerCue c).Treated mic k due := fun c u hu => by
    unfold State.offerCue
    split <;> exact hu.frame rfl
  unfold State.selectCue
  split
  · exact h
  · split
    · split
      · exact h
      · exact offer _ _ (same (by exact fun _ => rfl))
    · exact same (by exact fun _ => rfl)

end State.Treated

/-- An announcement treats the repeat timer of its record (R76). -/
theorem State.announce_treated (mic : Nat) (k : Kind) (reason : Reason) (s : State) :
    (s.announce mic k reason).Treated mic k (s.now + s.params.repeatMs) := by
  obtain ⟨hnow, -, hparams, -⟩ := (State.announce_told mic k reason s).keep
  refine ⟨by rw [hnow, hparams], fun e he hm => ?_⟩
  obtain ⟨x, -, rfl⟩ := State.mem_modEntry he
  split at hm
  · rw [if_pos ‹_›]
    refine Entry.TreatedAt.congr (e := x.setRecord k ((x.record k).treatRepeat x.role (s.now + s.params.repeatMs))) ?_
      (Entry.record_checked ..) rfl
    unfold Entry.TreatedAt
    rw [Entry.record_setRecord_same, Entry.setRecord_role]
    rfl
  · exact absurd hm ‹_›

/-! ## The queued WARN -/

section
variable {s : State} {g : TxFrame}

/-- A WARN request leaves the frames of other records, with room or as urgent as its own. -/
theorem State.mem_requestWarn {mic : Nat} {k : Kind} {reason : Reason} (hg : g ∈ s.tx) (hfor : g.frame.warnFor mic k = false)
    (h : ∀ w : Warn, w.reason = reason → g.frame.cls ≤ (Frame.warn w).cls) : g ∈ (s.requestWarn mic k reason).tx := by
  have placed : ∀ w : Warn, w.reason = reason → g ∈ ((s.removeWhere (Frame.warnFor mic k)).submit (.warn w)).1.tx :=
    fun w hw => State.mem_submit (List.mem_filter.mpr ⟨hg, by simp [hfor]⟩) (.inr (h w hw))
  unfold State.requestWarn
  split
  · exact hg
  · split
    · dsimp only
      split
      · exact placed _ rfl
      · exact placed _ rfl
    · exact hg

/-- A STATION request leaves the other frames when the queue has room. -/
theorem State.requestStation_leaves (hg : g ∈ s.tx) (hst : g.frame.isStation = false) (hroom : s.tx.length < txMax) (start : Bool) :
    g ∈ (s.requestStation start).tx := by
  have placed : ∀ f, g ∈ ((s.removeWhere Frame.isStation).submit f).1.tx := fun f =>
    State.mem_submit (List.mem_filter.mpr ⟨hg, by simp [hst]⟩) (.inl ((List.length_filter_le ..).trans_lt hroom))
  unfold State.requestStation
  split
  · dsimp only
    split
    · exact placed _
    · exact placed _
  · exact hg

@[simp] theorem State.zoneHandOff_tx (s : State) : s.zoneHandOff.tx = s.tx := by simp [State.zoneHandOff]

/-- A zone that comes into force leaves a WARN that is not of LOST when the queue has room (R98). -/
theorem State.zoneEnter_leaves {w : Warn} (hw : g.frame = .warn w) (hg : g ∈ s.tx) (hlost : g.frame.lostWarn = false)
    (hroom : s.tx.length < txMax) (cause : ZoneCause) : g ∈ (s.zoneEnter cause).tx := by
  unfold State.zoneEnter
  extract_lets cleared asked
  have hcleared : cleared.tx = s.tx.filter fun t => !t.frame.lostWarn := State.discardWhere_tx ..
  rw [State.zoneHandOff_tx]
  refine State.requestStation_leaves (s := { cleared with zone := .inForce cause }) ?_ (by rw [hw]; rfl) ?_ false
  · exact hcleared ▸ List.mem_filter.mpr ⟨hg, by simp [hlost]⟩
  · exact hcleared ▸ (List.length_filter_le ..).trans_lt hroom

/-- A zone that ends leaves a WARN that is not of LOST when the queue has room: the ADOPT frames of LOST are less urgent or of other
records (R101). -/
theorem State.zoneEnd_leaves {w : Warn} (hw : g.frame = .warn w) (hg : g ∈ s.tx) (hlost : g.frame.lostWarn = false)
    (hroom : s.tx.length < txMax) (hS : SoundLaw s)
    (hlevel : w.kind = .signal → ∀ e ∈ s.table, e.mic = w.mic → e.recSignal.level = w.level) (fx : Nat → State → State) :
    g ∈ (s.zoneEnd fx).tx := by
  let ended : State := { s with zone := .notInForce, zoneRepeat := .stopped }
  have told := State.requestStation_told false ended
  have asked : g ∈ (ended.requestStation false).tx := State.requestStation_leaves (s := ended) hg (by rw [hw]; rfl) hroom false
  have adopts : ∀ v : Warn, v.reason = .adopt → g.frame.cls ≤ (Frame.warn v).cls := fun v hv => by
    have hcls : (Frame.warn v).cls = 2 := by simp only [Frame.cls, hv]
    rw [hcls, hw]
    exact Frame.cls_warn_le w
  have swept : g ∈ ((ended.requestStation false).sweep fx State.reannounce).tx := by
    refine (State.sweep_keeps (P := fun u => ended.Told u ∧ g ∈ u.tx) (fun m u e he hc hu => ?_)
      (fun m u _ _ _ hu => ⟨hu.1.trans (State.reannounce_told m u), ?_⟩) ⟨told, asked⟩).2
    · exact absurd (hu.1.sound hS e (State.entry?_some he).1) (by simp [hc])
    · unfold State.reannounce
      split
      · exact hu.2
      · split
        · rename_i x hx hlostRecord
          obtain ⟨hmem, hmic⟩ := State.entry?_some hx
          refine State.mem_requestWarn hu.2 (Bool.eq_false_of_not_eq_true fun hfor => ?_) adopts
          rw [hw] at hfor hlost
          obtain ⟨hwm, hwk⟩ : w.mic = m ∧ w.kind = .signal := by simpa [Frame.warnFor] using hfor
          obtain ⟨y, hy, hxy⟩ := hu.1.mem hmem
          have hym : y.mic = w.mic := (Entry.mic_of_untold hxy).symm.trans (hmic.trans hwm.symm)
          have hyl : y.recSignal.level = x.recSignal.level := (congrArg (fun e => e.recSignal.level) hxy).symm
          have hhigher : w.level = .higher := (hlevel hwk y hy hym).symm.trans (hyl.trans hlostRecord.2.1)
          simp [Frame.lostWarn, hwk, hhigher] at hlost
        · exact hu.2
  unfold State.zoneEnd
  rw [State.zoneHandOff_tx]
  exact swept

/-- An update of the lost count leaves a WARN that the zone does not hold back when the queue has room. -/
theorem State.updateLost_leaves {w : Warn} (hw : g.frame = .warn w) (hg : g ∈ s.tx) (hroom : s.tx.length < txMax) (hS : SoundLaw s)
    (hlevel : w.kind = .signal → ∀ e ∈ s.table, e.mic = w.mic → e.recSignal.level = w.level) (fx : Nat → State → State)
    (hzone : g.frame.lostWarn = false ∨ s.zone = .notInForce ∧ (s.updateLost fx).zone = .notInForce) :
    g ∈ (s.updateLost fx).tx := by
  rcases State.updateLost_cases fx s with hu | ⟨-, hu⟩ | ⟨hz, hu⟩ <;> rw [hu] at hzone ⊢
  · exact hg
  · refine State.zoneEnter_leaves (s := { s with lostCount := lostOf s.table }) hw hg (hzone.resolve_right fun h => ?_) hroom _
    rw [(State.zoneEnter_spec ..).1] at h
    exact absurd h.2 (by decide)
  · refine State.zoneEnd_leaves (s := { s with lostCount := lostOf s.table }) hw hg (hzone.resolve_right fun h => ?_) hroom hS hlevel fx
    rw [hz] at h
    exact absurd h.1 (by decide)

end

end Sys2Proof.Machine
end

section
/-! A level that changes at a persistence expiry, announced and handed on (R62, R65, R67, R80): what becomes of the entry, of the lost
count, of the repeat timer and of the queued WARN. -/

namespace Sys2Proof.Machine

/-- A change of one entry leaves the view of the others. -/
theorem State.Changed.filter {s t : State} {mic : Nat} {x : Entry} (h : s.Changed t mic x) (hx : x.mic = mic) :
    (t.table.filter fun y => y.mic ≠ mic).map Entry.untold = (s.table.filter fun y => y.mic ≠ mic).map Entry.untold := by
  have hothers : ∀ y : Entry, ((if y.mic = mic then x else y).mic ≠ mic) ↔ y.mic ≠ mic := fun y => by split <;> simp_all
  calc (t.table.filter fun y => y.mic ≠ mic).map Entry.untold
      = t.view.filter fun y => y.mic ≠ mic := by
        simp only [State.view, List.filter_map]
        rfl
    _ = (s.viewWith mic x).filter fun y => y.mic ≠ mic := by rw [h.view]
    _ = (s.table.filter fun y => y.mic ≠ mic).map fun y => (if y.mic = mic then x else y).untold := by
        simp only [State.viewWith, List.filter_map, Function.comp_def, Entry.untold_mic, hothers]
    _ = (s.table.filter fun y => y.mic ≠ mic).map Entry.untold :=
        List.map_congr_left fun y hy => by rw [if_neg (by simpa using (List.mem_filter.mp hy).2)]

theorem State.recued_record (s : State) (e : Entry) (k : Kind) : (s.recued e).record k = e.record k := by
  unfold State.recued
  split
  · split
    · rfl
    · cases k <;> rfl
  · cases k <;> rfl

/-- A removal sets the lost count to the number of entries that count (R34, R97). -/
theorem State.removeEntry_lostCount {s : State} (hs : SoundLaw s) (mic : Nat) (fx : Nat → State → State) :
    (s.removeEntry fx mic).lostCount = lostOf (s.removeEntry fx mic).table := by
  have sound : SoundLaw ((s.dropEntry mic).removeWhere (Frame.warnOf mic)) :=
    (State.removeWhere_told _ _).sound (hs.dropEntry mic)
  have counted := State.updateLost_lostCount (fx := fx) sound
  simpa [State.removeEntry, State.selectWarningLamps] using counted

/-- The record of `k` moved by `f` and its announcement asked for (R75). -/
def State.announcedMove (mic : Nat) (k : Kind) (f : Record → Record) (reason : Reason) (s : State) : State :=
  (s.modRecord mic k f).announce mic k reason

/-- That, with the lost count updated for a SIGNAL record (R80). -/
def State.countedMove (mic : Nat) (k : Kind) (f : Record → Record) (reason : Reason) (s : State) : State :=
  if k = .signal then (s.announcedMove mic k f reason).updateLost State.entryFault else s.announcedMove mic k f reason

section
variable {s : State} {mic : Nat} {k : Kind} {e : Entry}

/-! ## The announced move -/

theorem State.announcedMove_changed (hT : TableLaw s) (he : s.entry? mic = some e) (f : Record → Record) (reason : Reason) :
    s.Changed (s.announcedMove mic k f reason) mic (e.setRecord k (f (e.record k))) :=
  (State.modEntry_changed hT he fun e => e.setRecord k (f (e.record k))).told (State.announce_told ..)

theorem State.announcedMove_onlyQueues (f : Record → Record) (reason : Reason) (s : State) :
    s.onlyQueues (s.announcedMove mic k f reason) := ((State.onlyQueues.refl s).modEntry mic _).announce ..

theorem State.announcedMove_treated (f : Record → Record) (reason : Reason) (s : State) :
    (s.announcedMove mic k f reason).Treated mic k (s.now + s.params.repeatMs) :=
  State.announce_treated mic k reason (s.modRecord mic k f)

theorem State.announcedMove_length (f : Record → Record) (reason : Reason) (s : State) :
    (s.announcedMove mic k f reason).tx.length ≤ s.tx.length + 1 :=
  State.requestWarn_length mic k reason (s.modRecord mic k f)

/-- The announcement of a reported entry is queued when the zone does not hold it back and the queue has room (R143, R144). -/
theorem State.announcedMove_queued (he : s.entry? mic = some e) (hst : s.station = .running ∨ s.station = .feedDown)
    (hrole : e.role = .reporter) (f : Record → Record) (hroom : s.tx.length < txMax)
    (hzone : k ≠ .signal ∨ (f (e.record k)).level ≠ .higher ∨ s.zone = .notInForce) (reason : Reason) :
    ⟨.warn (composeWarn s.now (e.setRecord k (f (e.record k))) k reason), 0⟩ ∈ (s.announcedMove mic k f reason).tx := by
  have hfound := State.modEntry_found he (fun e => e.setRecord k (f (e.record k))) fun x => by simp
  have hgate : (s.modRecord mic k f).warnGate { e.setRecord k (f (e.record k)) with checkGood := true } k = true := by
    refine (State.warnGate_reporter (by simpa using hrole)).mpr ⟨hst, ?_⟩
    rw [Entry.record_checked, Entry.record_setRecord_same]
    have hz : (s.modRecord mic k f).zone = s.zone := rfl
    simp only [State.holdsBack, hz]
    simp
    tauto
  have hwarn : composeWarn s.now { e.setRecord k (f (e.record k)) with checkGood := true } k reason =
      composeWarn s.now (e.setRecord k (f (e.record k))) k reason := composeWarn_congr rfl ..
  rw [← hwarn]
  exact State.requestWarn_queued hfound hgate hroom reason

/-- A RAISE is an announced move, handed on (R62). -/
theorem State.persistenceEnds_raised (h : (e.record k).state = .qualifying) :
    s.persistenceEnds mic k e = (s.announcedMove mic k (Record.raised s.now) .raise).levelHandOff mic k := by
  simp only [State.persistenceEnds, h, State.announcedMove]

/-- So is a SHIFT (R65). -/
theorem State.persistenceEnds_shifted (h : (e.record k).state = .shifting) :
    s.persistenceEnds mic k e = (s.announcedMove mic k Record.shifted .shift).levelHandOff mic k := by
  simp only [State.persistenceEnds, h, State.announcedMove]

/-- And a CLEAR (R67). -/
theorem State.persistenceEnds_released (h : (e.record k).state = .releasing) :
    s.persistenceEnds mic k e = (s.announcedMove mic k (Record.released s.now) .clear).levelHandOff mic k := by
  simp only [State.persistenceEnds, h, State.announcedMove]

/-! ## The lost count -/

theorem State.countedMove_changed (hT : TableLaw s) (hS : SoundLaw s) (he : s.entry? mic = some e) (f : Record → Record)
    (reason : Reason) : s.Changed (s.countedMove mic k f reason) mic (e.setRecord k (f (e.record k))) := by
  have moved := State.announcedMove_changed (k := k) hT he f reason
  unfold State.countedMove
  split
  · exact moved.told (State.updateLost_told State.entryFault (moved.sound hS))
  · exact moved

theorem State.countedMove_lostCount (hT : TableLaw s) (hS : SoundLaw s) (he : s.entry? mic = some e) (f : Record → Record)
    (reason : Reason) (hk : k = .signal) :
    (s.countedMove mic k f reason).lostCount = lostOf (s.countedMove mic k f reason).table := by
  rw [State.countedMove, if_pos hk]
  exact State.updateLost_lostCount ((State.announcedMove_changed hT he f reason).sound hS)

theorem State.countedMove_treated (hT : TableLaw s) (hS : SoundLaw s) (he : s.entry? mic = some e) (f : Record → Record)
    (reason : Reason) : (s.countedMove mic k f reason).Treated mic k (s.now + s.params.repeatMs) := by
  unfold State.countedMove
  split
  · exact (State.announcedMove_treated f reason s).updateLost ((State.announcedMove_changed hT he f reason).sound hS) _
  · exact State.announcedMove_treated f reason s

/-- The announcement stays queued through an update of the lost count where the zone does not hold it back (R98, R101). -/
theorem State.countedMove_queued (hT : TableLaw s) (hS : SoundLaw s) (he : s.entry? mic = some e)
    (hst : s.station = .running ∨ s.station = .feedDown) (hrole : e.role = .reporter) (f : Record → Record) (reason : Reason)
    (hroom : s.tx.length + 2 ≤ txMax) (hzone : k ≠ .signal ∨ (f (e.record k)).level ≠ .higher ∨
      s.zone = .notInForce ∧ (s.countedMove mic k f reason).zone = .notInForce) :
    ⟨.warn (composeWarn s.now (e.setRecord k (f (e.record k))) k reason), 0⟩ ∈ (s.countedMove mic k f reason).tx := by
  have queued := State.announcedMove_queued he hst hrole f (by omega) (by tauto) reason
  have moved := State.announcedMove_changed (k := k) hT he f reason
  have hmic : e.mic = mic := (State.entry?_some he).2
  unfold State.countedMove at hzone ⊢
  split
  · rename_i hk
    rw [if_pos hk] at hzone
    refine State.updateLost_leaves rfl queued ?_ (moved.sound hS) (fun _ y hy hm => ?_) _ ?_
    · have := State.announcedMove_length (mic := mic) (k := k) f reason s
      omega
    · obtain ⟨x, -, hyx⟩ := moved.mem hy
      have hym : y.mic = mic := hm.trans (by simpa [composeWarn] using hmic)
      have hx : x.mic = mic := by
        by_contra hne
        rw [if_neg hne] at hyx
        exact hne ((Entry.mic_of_untold hyx).symm.trans hym)
      rw [if_pos hx] at hyx
      subst hk
      exact congrArg (fun e => e.recSignal.level) hyx
    · rw [(State.announcedMove_onlyQueues f reason s).keep.1]
      simp only [Frame.lostWarn, composeWarn, Entry.record_setRecord_same, Bool.and_eq_false_iff, decide_eq_false_iff_not]
      tauto
  · exact queued

/-! ## The hand-offs -/

/-- A moved record lets its entry go when the entry is held and its LOST is acknowledged (R29). -/
def Entry.goesAt (k : Kind) (r : Record) (e : Entry) : Prop :=
  k = .signal ∧ e.presence = .silent ∧ e.lostForget = .expired ∧ r.acked = true

theorem Entry.setRecord_letGo (k : Kind) (r : Record) (e : Entry) :
    (k = .signal ∧ (e.setRecord k r).letGo = true) ↔ e.goesAt k r :=
  and_congr_right fun hk => by subst hk; exact Entry.letGo_iff _

/-- The hand-offs of a moved record: its entry is let go, or the lost count, the cue and the lamp follow. -/
theorem State.announcedMove_levelHandOff (hT : TableLaw s) (he : s.entry? mic = some e) (f : Record → Record) (reason : Reason) :
    let moved := s.announcedMove mic k f reason
    (e.goesAt k (f (e.record k)) → moved.levelHandOff mic k = moved.removeEntry State.entryFault mic) ∧
    (¬e.goesAt k (f (e.record k)) →
      moved.levelHandOff mic k = ((s.countedMove mic k f reason).selectCue mic).selectLamp (lampOf k)) := by
  intro moved
  obtain ⟨y, hy, hyx⟩ := (State.announcedMove_changed (k := k) hT he f reason).found (by simpa using (State.entry?_some he).2)
    (by simp [he])
  have hgoes : (k = .signal ∧ y.letGo = true) ↔ e.goesAt k (f (e.record k)) := by
    rw [← Entry.setRecord_letGo]
    have hlet : y.letGo = (e.setRecord k (f (e.record k))).letGo := show y.untold.letGo = _ from hyx ▸ rfl
    rw [hlet]
  rw [State.levelHandOff, hy]
  exact ⟨fun h => if_pos (hgoes.mpr h), fun h => if_neg (mt hgoes.mp h)⟩

/-- An entry that its moved record lets go is removed (R29). -/
theorem State.levelHandOff_gone (hT : TableLaw s) (hS : SoundLaw s) (he : s.entry? mic = some e) {f : Record → Record}
    (hgone : e.goesAt k (f (e.record k))) (reason : Reason) : let t := (s.announcedMove mic k f reason).levelHandOff mic k
    s.onlyHandOffs t ∧ t.lostCount = lostOf t.table ∧ t.entry? mic = none ∧
      t.view = (s.table.filter fun x => x.mic ≠ mic).map Entry.untold := by
  have moved := State.announcedMove_changed (k := k) hT he f reason
  have sound := moved.sound hS
  obtain ⟨only, gone, view, -⟩ := State.removeEntry_leaves sound mic
  rw [(State.announcedMove_levelHandOff hT he f reason).1 hgone]
  exact ⟨State.onlyHandOffs_trans moved.only only, State.removeEntry_lostCount sound mic _, gone,
    view.trans (moved.filter (by simpa using (State.entry?_some he).2))⟩

/-- The repeat timer of a record as R76 treats it, read from an entry that differs in what the chamber was told. -/
theorem Entry.TreatedAt.repeatTimer {due : Nat} {y x : Entry} (h : y.TreatedAt k due) (hyx : y.untold = x.untold) :
    (y.record k).repeatTimer =
      if x.role = .reporter ∧ (x.record k).level ≠ .none ∧ (x.record k).acked = false then .running due else .stopped := by
  have hrole : y.role = x.role := Entry.role_of_untold hyx
  have hrecord : (y.record k).untold = (x.record k).untold := by rw [← Entry.untold_record, hyx, Entry.untold_record]
  have hrep : (y.record k).repeats y.role = (x.record k).repeats x.role := by
    rw [hrole]
    exact congrArg (fun r => r.repeats x.role) hrecord
  have hiff : (x.record k).repeats x.role = true ↔
      x.role = .reporter ∧ (x.record k).level ≠ .none ∧ (x.record k).acked = false := by simp [Record.repeats, and_assoc]
  rw [show _ = _ from h, Record.treatRepeat, hrep]
  simp only [hiff]

/-- An entry that stays is recued, and all else is hand-offs. -/
theorem State.levelHandOff_stays (hT : TableLaw s) (hS : SoundLaw s) (he : s.entry? mic = some e) {f : Record → Record}
    (hstays : ¬e.goesAt k (f (e.record k))) (reason : Reason) : let t := (s.announcedMove mic k f reason).levelHandOff mic k
    let r := f (e.record k)
    s.Changed t mic (s.recued (e.setRecord k r)) ∧ (k = .signal → t.lostCount = lostOf t.table) ∧
      (∀ y, t.entry? mic = some y → (y.record k).repeatTimer =
        if e.role = .reporter ∧ r.level ≠ .none ∧ r.acked = false then .running (s.now + s.params.repeatMs) else .stopped) ∧
      t.tx = (s.countedMove mic k f reason).tx ∧ t.zone = (s.countedMove mic k f reason).zone := by
  intro t r
  have ht : t = ((s.countedMove mic k f reason).selectCue mic).selectLamp (lampOf k) :=
    (State.announcedMove_levelHandOff hT he f reason).2 hstays
  have hm : (e.setRecord k r).mic = mic := by simpa using (State.entry?_some he).2
  have hsome : (s.entry? mic).isSome := by simp [he]
  have counted := State.countedMove_changed (k := k) hT hS he f reason
  obtain ⟨y, hy, -⟩ := counted.found hm hsome
  have changed : s.Changed t mic (s.recued (e.setRecord k r)) := by
    rw [ht]
    exact (counted.selectCue hm hsome hT).told (State.selectLamp_told ..)
  refine ⟨changed, fun hk => ?_, fun y hy => ?_, by simp [ht], ?_⟩
  · rw [ht, State.selectLamp_lostCount, State.selectLamp_table]
    exact State.selectCue_counted (counted.table hm hT) hy (State.countedMove_lostCount hT hS he f reason hk)
  · have treated : t.Treated mic k (s.now + s.params.repeatMs) := by
      rw [ht]
      exact ((State.countedMove_treated hT hS he f reason).selectCue mic).frame (by simp)
    obtain ⟨hmem, hmic⟩ := State.entry?_some hy
    obtain ⟨z, hz, hzx⟩ := changed.found (by simpa using hm) hsome
    obtain rfl : z = y := Option.some.inj (hz.symm.trans hy)
    simpa [State.recued_record] using (treated.entries z hmem hmic).repeatTimer hzx
  · rw [ht, State.selectLamp_zone]
    exact ((State.onlyQueues.refl _).selectCue mic).keep.1

end

/-- Settles O25: each of the three expiries is one move of the record, announced and handed on. -/
theorem persistenceExpires : Obligations.PersistenceExpires := by
  unfold Obligations.PersistenceExpires
  intro s mic k e hT hS _ he hdue r handed at_
  have moved : ∀ (f : Record → Record) (reason : Reason),
      s.persistenceEnds mic k e = (s.announcedMove mic k f reason).levelHandOff mic k → handed (f r) reason := by
    intro f reason hends
    have hexec : exec (.persistenceTimerExpiry mic k) s = .next ((s.announcedMove mic k f reason).levelHandOff mic k) :=
      congrArg _ ((State.expiry_due hS he hdue _).trans hends)
    by_cases hgone : e.goesAt k (f r)
    · obtain ⟨only, count, gone, view⟩ := State.levelHandOff_gone hT hS he hgone reason
      exact ⟨_, hexec, only, fun _ => count, fun _ => ⟨gone, view⟩, fun h => absurd hgone h⟩
    · obtain ⟨changed, count, timer, htx, hzone⟩ := State.levelHandOff_stays hT hS he hgone reason
      refine ⟨_, hexec, changed.only, count, fun h => absurd h hgone, fun _ => ⟨changed.view, timer, fun hst hrole hroom hz => ?_⟩⟩
      rw [htx]
      exact ⟨_, State.countedMove_queued hT hS he hst hrole f reason hroom (hzone ▸ hz), rfl⟩
  refine ⟨fun l hstate hpending => ?_, fun l hstate hpending => ?_, fun t0 hstate hstart => ?_⟩
  · have htarget : r.target = l := by simp [Record.target, hpending]
    have hraised : r.raised s.now = { at_ l with spellStart := some s.now, raiseCount := min 255 (r.raiseCount + 1) } := by
      simp only [Record.raised, htarget]
      rfl
    exact hraised ▸ moved (Record.raised s.now) .raise (State.persistenceEnds_raised hstate)
  · have htarget : r.target = l := by simp [Record.target, hpending]
    have hshifted : r.shifted = at_ l := by
      simp only [Record.shifted, htarget]
      rfl
    exact hshifted ▸ moved Record.shifted .shift (State.persistenceEnds_shifted hstate)
  · have hresidency : r.residency s.now = min 65535 (r.residencyBase + (s.now - t0) / 1000) := by
      simp only [Record.residency, hstart]
      rfl
    rw [← hresidency]
    exact moved (Record.released s.now) .clear (State.persistenceEnds_released hstate)

end Sys2Proof.Machine
end

section
/-! The floor sweep of a sound table (R87, R88, R90), the floor timer's expiry (R84), and a FLOOR frame taken, with the floor set
that it builds (R82, R83). -/

namespace Sys2Proof.Machine

/-! ## The floor set of a frame's list -/

/-- The three tests of R82 in turn: behind the fields kept so far come the first distinct seat numbers not among them, up to 8. -/
theorem foldl_keepField (fields : List Nat) : ∀ kept : List Nat, kept.length ≤ floorMax →
    fields.foldl keepField kept =
      (kept ++ (fields.filter fun n => decide (1 ≤ n ∧ n ≤ micMax) && decide (n ∉ kept)).eraseDups).take floorMax := by
  induction fields with
  | nil => exact fun kept h => by simp [List.take_of_length_le h]
  | cons n rest ih =>
    intro kept h
    rw [List.foldl_cons]
    by_cases hseat : n = 0 ∨ micMax < n
    · have hskip : ¬(1 ≤ n ∧ n ≤ micMax) := by omega
      rw [keepField, if_pos hseat, ih kept h]
      simp [hskip]
    have hin : 1 ≤ n ∧ n ≤ micMax := by omega
    by_cases hold : n ∈ kept
    · rw [keepField, if_neg hseat, if_pos hold, ih kept h]
      simp [hold]
    rw [keepField, if_neg hseat, if_neg hold]
    by_cases hfull : floorMax ≤ kept.length
    · have hlen : kept.length = floorMax := Nat.le_antisymm h hfull
      rw [if_pos hfull, ih kept h, List.take_left' hlen, List.take_left' hlen]
    · have hroom : (kept ++ [n]).length ≤ floorMax := by simpa using hfull
      rw [if_neg hfull, ih _ hroom]
      simp only [List.filter_cons, hin, hold, not_false_eq_true, and_self, decide_true, Bool.and_self, if_true,
        List.eraseDups_cons, List.filter_filter, List.append_assoc, List.singleton_append]
      congr 5
      funext x
      by_cases hx : x = n <;> simp [hx]

theorem mem_floorSetOf {fields : List Nat} {n : Nat} :
    n ∈ floorSetOf fields ↔ n ∈ (fields.filter fun n => decide (1 ≤ n ∧ n ≤ micMax)).eraseDups.take floorMax := by
  have hkept := foldl_keepField fields [] (Nat.zero_le _)
  have hfields : KeptFields (fields.foldl keepField []) := KeptFields.foldl ⟨by simp, by simp, by simp⟩
  obtain ⟨-, hmem, -⟩ := foldr_insertAsc hfields.nodup
  rw [floorSetOf, hmem, hkept]
  simp

/-! ## The sweep -/

/-- What the floor sweep makes of an entry (R90): its candidate recomputed (R87), and its MUTE record stepped on the input that the
new candidate gives (R88). -/
def State.floorSwept (s : State) (e : Entry) : Entry :=
  let recomputed := { e with muteCand := muteCandidate s.floorSet e.mic e.mute }
  { recomputed with recMute := e.recMute.step s.params s.now .mute (muteInput s.station s.floor recomputed) }

/-- A visit of the floor sweep changes its entry so. -/
theorem State.floorEntry_swept {s : State} (hT : TableLaw s) (mic : Nat) : s.floorEntry mic = s.modEntry mic s.floorSwept := by
  let recompute : Entry → Entry := fun e => { e with muteCand := muteCandidate s.floorSet mic e.mute }
  show (s.modEntry mic recompute).giveInput mic .mute = _
  cases he : s.entry? mic with
  | none =>
    rw [State.modEntry_absent he, State.modEntry_absent he]
    simp only [State.giveInput, he]
  | some e =>
    have hfound : (s.modEntry mic recompute).entry? mic = some { recompute e with checkGood := true } :=
      State.modEntry_found he recompute fun _ => rfl
    simp only [State.giveInput, hfound, State.modRecord]
    rw [State.modEntry_modEntry s mic (f := recompute) fun _ => rfl]
    refine State.modEntry_unique hT he ?_
    obtain ⟨-, rfl⟩ := State.entry?_some he
    rfl

/-- The floor sweep of a sound table changes every entry so, and nothing else. -/
theorem State.floorSweep_eq {s : State} (hT : TableLaw s) (hS : SoundLaw s) :
    s.floorSweep = { s with table := s.table.map s.floorSwept } := by
  obtain ⟨⟨hframe, -⟩, htable⟩ := State.sweep_maps (P := fun u => u = { s with table := u.table } ∧ TableLaw u)
    (fx := State.entryFault) (act := State.floorEntry) (f := s.floorSwept) (fun _ => rfl)
    (fun mic u ⟨hu, huT⟩ => by
      have hswept : u.floorSwept = s.floorSwept := by rw [hu]; rfl
      have hvisit : State.floorEntry mic u = u.modEntry mic s.floorSwept := hswept ▸ State.floorEntry_swept huT mic
      rw [hvisit]
      exact ⟨⟨by rw [hu]; rfl, huT.modEntry mic _ fun _ => rfl⟩, rfl⟩) hT.nodup hS ⟨rfl, hT⟩
  rw [State.floorSweep, hframe, htable]
  congr 1
  exact List.map_congr_left fun e he => Entry.checked_eq (show (s.floorSwept e).checkGood = true from hS e he)

/-! ## The two commands -/

/-- FLOOR_TIMER_EXPIRY (R84). -/
theorem State.floorExpiry_eq {s : State} (hT : TableLaw s) (hS : SoundLaw s) (hd : s.floorTimer.isDue s.now = true) :
    let stale : State := { s with floor := .stale, floorTimer := .stopped }
    s.floorExpiry = { stale with table := s.table.map stale.floorSwept } := by
  intro stale
  have staleTable : TableLaw stale := ⟨hT.ascending, hT.atMost96, hT.seats, hT.queuedSeats⟩
  exact (if_pos hd).trans (State.floorSweep_eq staleTable hS)

/-- FLOOR_TAKEN of a FLOOR frame (R82, R83). -/
theorem State.floorTaken_eq {s : State} (hT : TableLaw s) (hS : SoundLaw s) {source : Nat} {mics : List Nat} {rest : List RxFrame}
    (hi : s.inDispatch = none) (hrx : s.rx = ⟨source, .floor mics⟩ :: rest) :
    let fresh : State := { s with
      rx := rest, floorSet := floorSetOf mics, floor := .fresh, floorTimer := s.after s.params.floorMs }
    s.dispatch floorWork = { fresh with table := s.table.map fresh.floorSwept } := by
  intro fresh
  let taken : State := { fresh with inDispatch := some ⟨source, .floor mics⟩ }
  have takenTable : TableLaw taken := ⟨hT.ascending, hT.atMost96, hT.seats, hT.queuedSeats⟩
  have hsweep : taken.floorSweep = { taken with table := s.table.map fresh.floorSwept } := State.floorSweep_eq takenTable hS
  rw [State.dispatch_eq hi hrx (work := State.takeFloor mics) rfl]
  show { taken.floorSweep with inDispatch := none } = _
  rw [hsweep, ← hi]

/-- Settles O29: both commands end in a floor sweep, which changes every entry as `State.floorSwept` says. -/
theorem floorSweeps : Obligations.FloorSweeps := by
  unfold Obligations.FloorSweeps
  refine ⟨fun s hT hS => ?_, fun mics => ?_⟩
  · intro swept
    have agrees : ∀ (u : State) (known : Bool), u.station = s.station → u.params = s.params → u.now = s.now →
        (u.floor = .stale ↔ known = false) → u.floorSwept = swept u.floorSet known := by
      intro u known hstation hparams hnow hknown
      funext e
      simp only [State.floorSwept, swept, muteInput, hstation, hparams, hnow, hknown]
      cases e.mute <;> rfl
    refine ⟨fun hd => ?_, fun source mics rest hi hrx => ?_⟩
    · have hswept : ({ s with floor := .stale, floorTimer := .stopped } : State).floorSwept = swept s.floorSet false :=
        agrees _ false rfl rfl rfl (by simp)
      rw [← hswept]
      exact congrArg Host.Outcome.next (State.floorExpiry_eq hT hS hd)
    · have hswept : ({ s with
          rx := rest, floorSet := floorSetOf mics, floor := .fresh, floorTimer := s.after s.params.floorMs } : State).floorSwept =
          swept (floorSetOf mics) true := agrees _ true rfl rfl rfl (by simp)
      rw [← hswept]
      exact congrArg Host.Outcome.next (State.floorTaken_eq hT hS hi hrx)
  · exact ⟨(floorSetOf_form mics).2.1, fun n => mem_floorSetOf⟩

end Sys2Proof.Machine
end

section
/-! What the laws of ZONE_SILENT speak of (R97, R98, R100 to R103), the laws on it, and the operations that leave all of it. -/

namespace Sys2Proof.Machine

/-! ## What the laws of the zone speak of -/

/-- Where ZONE_SILENT and the lost count stand, with all that their laws ask about: the zone, whether its repeat timer runs, the lost
count, the station, `zone_threshold`, and the number of entries that count. -/
structure Zoning where
  zone : Zone
  repeats : Bool
  count : Nat
  station : StationState
  threshold : Nat
  lost : Nat

/-- Where they stand in a state. -/
def State.zoning (s : State) : Zoning where
  zone := s.zone
  repeats := s.zoneRepeat.isRunning
  count := s.lostCount
  station := s.station
  threshold := s.params.zoneThreshold
  lost := lostOf s.table

/-- The laws of `ZoneLaw` but for the count's agreement with the table, which an event restores at its update of the lost count. While
the end of the cause FEED is `owed`, the station has left FEED_DOWN and the cause still stands (R179, R181, R103). -/
structure Zoning.Stands (owed : Bool) (z : Zoning) : Prop where
  quiet : z.zone = .notInForce → z.count < z.threshold
  held : z.zone = .inForce .count → z.threshold - 3 < z.count
  feed : z.zone = .inForce .feed ↔ z.station = .feedDown ∨ owed = true
  left : owed = true → z.station ≠ .feedDown
  timed : z.repeats = true ↔ z.zone ≠ .notInForce
  range : 4 ≤ z.threshold

/-- Those laws, with the count right. -/
structure Zoning.Agrees (owed : Bool) (z : Zoning) : Prop extends z.Stands owed where
  counted : z.count = z.lost

theorem zoneLaw_iff {s : State} : ZoneLaw s ↔ s.zoning.Agrees false := by
  constructor
  · rintro ⟨counted, quiet, held, feed, timed, range⟩
    exact ⟨⟨quiet, held, feed.trans (by simp [State.zoning]), by simp, timed, range⟩, counted⟩
  · rintro ⟨⟨quiet, held, feed, -, timed, range⟩, counted⟩
    exact ⟨counted, quiet, held, feed.trans (by simp [State.zoning]), timed, range⟩

namespace Zoning

variable {owed : Bool} {z : Zoning}

theorem Stands.withLost (h : z.Stands owed) (n : Nat) : ({ z with lost := n } : Zoning).Stands owed :=
  ⟨h.quiet, h.held, h.feed, h.left, h.timed, h.range⟩

/-- A station that changes its state, but not to FEED_DOWN, owes the end of the cause FEED if it was FEED_DOWN. -/
theorem Agrees.leave (h : z.Agrees owed) {st : StationState} (hst : st ≠ .feedDown) :
    ({ z with station := st } : Zoning).Agrees (owed || decide (z.station = .feedDown)) where
  quiet := h.quiet
  held := h.held
  feed := h.feed.trans (by simp [hst, or_comm])
  left := fun _ => hst
  timed := h.timed
  range := h.range
  counted := h.counted

theorem Agrees.leave_other (h : z.Agrees owed) {st : StationState} (hst : st ≠ .feedDown) (hz : z.station ≠ .feedDown) :
    ({ z with station := st } : Zoning).Agrees owed := by simpa [hz] using h.leave hst

theorem Agrees.leave_feedDown (h : z.Agrees owed) {st : StationState} (hst : st ≠ .feedDown) (hz : z.station = .feedDown) :
    ({ z with station := st } : Zoning).Agrees true := by simpa [hz] using h.leave hst

/-- The zone in force with cause COUNT. -/
theorem agrees_inForce (hrange : 4 ≤ z.threshold) (hst : z.station ≠ .feedDown) (hlevel : z.threshold - 3 < z.count)
    (hcount : z.count = z.lost) : ({ z with zone := .inForce .count, repeats := true } : Zoning).Agrees false where
  quiet := by simp
  held := fun _ => hlevel
  feed := by simp [hst]
  left := by simp
  timed := by simp
  range := hrange
  counted := hcount

/-- The zone not in force. -/
theorem agrees_notInForce (hrange : 4 ≤ z.threshold) (hst : z.station ≠ .feedDown) (hlevel : z.count < z.threshold)
    (hcount : z.count = z.lost) : ({ z with zone := .notInForce, repeats := false } : Zoning).Agrees false where
  quiet := fun _ => hlevel
  held := by simp
  feed := by simp [hst]
  left := by simp
  timed := by simp
  range := hrange
  counted := hcount

/-- The zone in force with cause FEED, in FEED_DOWN. -/
theorem agrees_feedDown (hrange : 4 ≤ z.threshold) (hcount : z.count = z.lost) :
    ({ z with zone := .inForce .feed, repeats := true, station := .feedDown } : Zoning).Agrees false where
  quiet := by simp
  held := by simp
  feed := by simp
  left := by simp
  timed := by simp
  range := hrange
  counted := hcount

end Zoning

/-! ## Operations that leave all of it -/

section
variable (s : State)

theorem State.mapEntry_zoning (mic : Nat) {f : Entry → Entry} (hf : ∀ e, (f e).recSignal.countsLost = e.recSignal.countsLost) :
    (s.mapEntry mic f).zoning = s.zoning := by
  have hlost : lostOf (s.mapEntry mic f).table = lostOf s.table := by
    simp only [lostOf, State.mapEntry, List.countP_map]
    refine List.countP_congr fun e _ => ?_
    by_cases hm : e.mic = mic <;> simp [hm, hf]
  show ({ s.zoning with lost := lostOf (s.mapEntry mic f).table } : Zoning) = s.zoning
  rw [hlost]
  rfl

theorem State.modEntry_zoning (mic : Nat) {f : Entry → Entry} (hf : ∀ e, (f e).recSignal.countsLost = e.recSignal.countsLost) :
    (s.modEntry mic f).zoning = s.zoning := s.mapEntry_zoning mic (by exact hf)

theorem Entry.setRecord_countsLost {k : Kind} {r : Record} {e : Entry} (h : k = .signal → r.countsLost = (e.record k).countsLost) :
    (e.setRecord k r).recSignal.countsLost = e.recSignal.countsLost := by
  cases k
  · rfl
  · rfl
  · exact h rfl

/-- A change of records other than SIGNAL, or one that leaves whether a record counts. -/
theorem State.modRecord_zoning (mic : Nat) {k : Kind} {f : Record → Record}
    (hf : k = .signal → ∀ r, (f r).countsLost = r.countsLost) : (s.modRecord mic k f).zoning = s.zoning :=
  s.modEntry_zoning mic fun _ => Entry.setRecord_countsLost fun hk => hf hk _

@[simp] theorem State.ackQueued_zoning (mic : Nat) (k : Kind) (l : Level) : (s.ackQueued mic k l).zoning = s.zoning := rfl

@[simp] theorem State.discardFrame_zoning (f : Frame) : (s.discardFrame f).zoning = s.zoning := by
  rcases State.discardFrame_cases f s with h | ⟨w, -, h⟩ <;> rw [h]
  refine s.mapEntry_zoning w.mic fun e => ?_
  split
  · rfl
  · exact Entry.setRecord_countsLost (r := (e.record w.kind).forgotten) fun _ => rfl

@[simp] theorem State.discardWhere_zoning (drop : Frame → Bool) : (s.discardWhere drop).zoning = s.zoning :=
  State.discardWhere_keeps (P := fun u => u.zoning = s.zoning) (fun f u hu => (u.discardFrame_zoning f).trans hu) drop rfl

@[simp] theorem State.submit_zoning (f : Frame) : (s.submit f).1.zoning = s.zoning := by
  rcases State.submit_cases f s with ⟨-, h⟩ | ⟨-, v, rest, -, h⟩ | ⟨-, -, h⟩ <;> rw [h]
  · rfl
  · rw [State.discardFrame_zoning]
    rfl
  · rfl

@[simp] theorem State.requestWarn_zoning (mic : Nat) (k : Kind) (reason : Reason) :
    (s.requestWarn mic k reason).zoning = s.zoning := by
  unfold State.requestWarn
  split
  · rfl
  · split
    · dsimp only
      split
      · exact (State.modRecord_zoning _ mic (by exact fun _ _ => rfl)).trans (State.submit_zoning _ _)
      · exact State.submit_zoning _ _
    · rfl

@[simp] theorem State.announce_zoning (mic : Nat) (k : Kind) (reason : Reason) : (s.announce mic k reason).zoning = s.zoning :=
  (State.modEntry_zoning _ mic (by exact fun _ => Entry.setRecord_countsLost fun _ => rfl)).trans (s.requestWarn_zoning mic k reason)

@[simp] theorem State.requestStation_zoning (start : Bool) : (s.requestStation start).zoning = s.zoning := by
  unfold State.requestStation
  split
  · have placed : ∀ f, ((s.removeWhere Frame.isStation).submit f).1.zoning = s.zoning := fun f => State.submit_zoning _ f
    dsimp only
    split
    · exact placed _
    · exact placed _
  · rfl

@[simp] theorem State.requestFrame_zoning (f : Frame) : (s.requestFrame f).zoning = s.zoning := by
  unfold State.requestFrame
  split
  · exact s.submit_zoning f
  · rfl

@[simp] theorem State.recheck_zoning (t : TxFrame) : (s.recheck t).zoning = s.zoning := by
  have dropped : (s.dropReturning t.frame).zoning = s.zoning := State.discardFrame_zoning _ _
  rcases State.recheck_cases t s with h | ⟨-, h⟩ | ⟨-, -, -, h⟩ | ⟨-, -, v, rest, -, h⟩ <;> rw [h]
  · exact dropped
  · rfl
  · exact State.discardFrame_zoning _ _

/-! ### Outputs, roles and inputs -/

@[simp] theorem State.selectLamp_zoning (l : Lamp) : (s.selectLamp l).zoning = s.zoning := by cases l <;> rfl

@[simp] theorem State.selectWarningLamps_zoning : s.selectWarningLamps.zoning = s.zoning := by simp [State.selectWarningLamps]

@[simp] theorem State.zoneHandOff_zoning : s.zoneHandOff.zoning = s.zoning := s.selectLamp_zoning .station

@[simp] theorem State.stationHandOff_zoning : s.stationHandOff.zoning = s.zoning :=
  (State.selectLamp_zoning _ .station).trans s.selectWarningLamps_zoning

@[simp] theorem State.offerCue_zoning (c : Cue) : (s.offerCue c).zoning = s.zoning := by
  unfold State.offerCue
  split <;> rfl

@[simp] theorem State.selectCue_zoning (mic : Nat) : (s.selectCue mic).zoning = s.zoning := by
  unfold State.selectCue
  split
  · rfl
  · split
    · split
      · rfl
      · exact (State.offerCue_zoning _ _).trans (s.modEntry_zoning mic fun _ => rfl)
    · exact s.modEntry_zoning mic fun _ => rfl

@[simp] theorem State.adopt_zoning (mic : Nat) (k : Kind) : (s.adopt mic k).zoning = s.zoning := by
  unfold State.adopt
  split
  · rfl
  · split
    · exact s.announce_zoning ..
    · rfl

@[simp] theorem State.adoptAll_zoning (mic : Nat) : (s.adoptAll mic).zoning = s.zoning := by simp [State.adoptAll]

@[simp] theorem State.gainReporter_zoning (mic : Nat) : (s.gainReporter mic).zoning = s.zoning := by
  unfold State.gainReporter
  rw [State.selectCue_zoning]
  refine (State.modEntry_zoning _ mic (by exact fun _ => rfl)).trans ((State.adoptAll_zoning _ mic).trans ?_)
  exact s.modEntry_zoning mic fun _ => rfl

@[simp] theorem State.loseReporter_zoning (mic : Nat) : (s.loseReporter mic).zoning = s.zoning := by
  unfold State.loseReporter
  rw [State.selectCue_zoning]
  refine (State.modEntry_zoning _ mic (by exact fun _ => rfl)).trans ((State.discardWhere_zoning _ _).trans ?_)
  exact s.modEntry_zoning mic fun _ => rfl

@[simp] theorem State.makeFollower_zoning (mic : Nat) : (s.makeFollower mic).zoning = s.zoning := by
  unfold State.makeFollower
  split
  · rfl
  · split
    · exact s.loseReporter_zoning mic
    · exact s.modEntry_zoning mic fun _ => rfl

@[simp] theorem State.decideRole_zoning (mic own : Nat) : (s.decideRole mic own).zoning = s.zoning := by
  unfold State.decideRole
  split
  · rfl
  · split
    · split
      · rfl
      · exact s.gainReporter_zoning mic
    · exact s.makeFollower_zoning mic

@[simp] theorem State.computeRole_zoning (mic : Nat) : (s.computeRole mic).zoning = s.zoning := by
  unfold State.computeRole
  split
  · rfl
  · split
    · exact s.decideRole_zoning ..
    · rfl

@[simp] theorem State.presenceRole_zoning (mic : Nat) : (s.presenceRole mic).zoning = s.zoning := by
  unfold State.presenceRole
  split
  · rfl
  · split
    · rfl
    · exact (State.modEntry_zoning _ mic (by exact fun _ => rfl)).trans (s.makeFollower_zoning mic)
    · split
      · rfl
      · exact s.modEntry_zoning mic fun _ => rfl

/-- The inputs of BATTERY and MUTE do not reach the count. -/
theorem State.giveInput_zoning (mic : Nat) {k : Kind} (hk : k ≠ .signal) : (s.giveInput mic k).zoning = s.zoning := by
  unfold State.giveInput
  split
  · rfl
  · exact s.modRecord_zoning mic fun h => absurd h hk

@[simp] theorem State.reannounce_zoning (mic : Nat) : (s.reannounce mic).zoning = s.zoning := by
  unfold State.reannounce
  split
  · rfl
  · split
    · exact s.announce_zoning ..
    · rfl

/-- A new entry does not count (R20, R57). -/
theorem State.admitting_zoning (g : Sighting) : (s.admitting g).zoning = s.zoning := by
  have hlost : lostOf (s.admitting g).table = lostOf s.table := by
    show lostOf (insertEntry (s.newEntry g) s.table) = _
    rw [lostOf, (insertEntry_perm _ _).countP_eq, List.countP_cons_of_neg]
    · rfl
    · simp [State.newEntry, Record.fresh, Record.countsLost]
  show ({ s.zoning with lost := lostOf (s.admitting g).table } : Zoning) = s.zoning
  rw [hlost]
  rfl

end

/-! ## The zone's own moves -/

section
variable (s : State)

theorem State.zoneEnter_zoning (cause : ZoneCause) :
    (s.zoneEnter cause).zoning = { s.zoning with zone := .inForce cause, repeats := true } := by
  unfold State.zoneEnter
  extract_lets cleared asked
  have hasked : asked.zoning = { s.zoning with zone := .inForce cause } :=
    (State.requestStation_zoning _ _).trans (congrArg (fun z : Zoning => { z with zone := .inForce cause }) (s.discardWhere_zoning _))
  exact congrArg (fun z : Zoning => { z with repeats := true }) hasked

theorem State.zoneCause_zoning (cause : ZoneCause) :
    (s.zoneCause cause).zoning = { s.zoning with zone := .inForce cause, repeats := true } := by
  unfold State.zoneCause
  extract_lets asked
  have hasked : asked.zoning = { s.zoning with zone := .inForce cause } := State.requestStation_zoning _ _
  exact congrArg (fun z : Zoning => { z with repeats := true }) hasked

theorem State.zoneFeed_zoning : s.zoneFeed.zoning = { s.zoning with zone := .inForce .feed, repeats := true } := by
  unfold State.zoneFeed
  split
  · exact s.zoneEnter_zoning _
  · exact s.zoneCause_zoning _

end

end Sys2Proof.Machine
end

section
/-! The zone and the lost count through removals, faults and the changes of station state (R34, R36, R178 to R181), through the expiries
of an entry's timers, the feed and sightings. -/

namespace Sys2Proof.Machine

/-! ## Changes of entries that may change which of them count -/

section
variable {s : State} {owed : Bool}

theorem State.modEntry_stands (h : s.zoning.Stands owed) (mic : Nat) (f : Entry → Entry) : (s.modEntry mic f).zoning.Stands owed :=
  h.withLost _

/-- Inputs given to an entry leave all but the number of entries that count. -/
theorem State.giveInputs_zoning (mic : Nat) (s : State) :
    (s.giveInputs mic).zoning = { s.zoning with lost := lostOf (s.giveInputs mic).table } := by
  have one : ∀ (u : State) (k : Kind), u = { s with table := u.table } →
      u.giveInput mic k = { s with table := (u.giveInput mic k).table } := fun u k hu => by
    unfold State.giveInput
    split
    · exact hu
    · rw [hu]
      rfl
  have hgiven : s.giveInputs mic = { s with table := (s.giveInputs mic).table } := one _ _ (one _ _ (one _ _ rfl))
  rw [hgiven]
  rfl

theorem State.giveInputs_stands (h : s.zoning.Stands owed) (mic : Nat) : (s.giveInputs mic).zoning.Stands owed := by
  rw [State.giveInputs_zoning]
  exact h.withLost _

end

/-! ## The lost count, the zone's end and the cause FEED (R97, R98, R101, R103) -/

/-- Without the cause FEED the station is not FEED_DOWN, and no end of that cause is owed. -/
theorem Zoning.Stands.settled {owed : Bool} {z : Zoning} (h : z.Stands owed) (hz : z.zone ≠ .inForce .feed) :
    z.station ≠ .feedDown ∧ owed = false := by
  have := mt h.feed.mpr hz
  push Not at this
  simpa using this

/-- What a failed verification does keeps the laws. -/
def KeepsZone (fx : Nat → State → State) : Prop :=
  ∀ (owed : Bool) (mic : Nat) (s : State), s.zoning.Agrees owed → (fx mic s).zoning.Agrees owed

section
variable {s : State} {owed : Bool} {fx act : Nat → State → State} (hfx : KeepsZone fx)
include hfx

theorem State.sweep_agrees (hact : ∀ mic (u : State), u.zoning.Agrees owed → (act mic u).zoning.Agrees owed)
    (h : s.zoning.Agrees owed) : (s.sweep fx act).zoning.Agrees owed :=
  State.sweep_keeps (P := fun u => u.zoning.Agrees owed) (fun mic u _ _ _ hu => hfx owed mic u hu)
    (fun mic u _ _ _ hu => hact mic u hu) h

/-- The zone ends at the exit level (R101). -/
theorem State.zoneEnd_agrees (hrange : 4 ≤ s.params.zoneThreshold) (hst : s.station ≠ .feedDown)
    (hexit : s.lostCount ≤ s.params.zoneExit) (hcount : s.lostCount = lostOf s.table) : (s.zoneEnd fx).zoning.Agrees false := by
  have asked : (({ s with zone := .notInForce, zoneRepeat := .stopped } : State).requestStation false).zoning.Agrees false := by
    rw [State.requestStation_zoning]
    have hlevel : s.lostCount < s.params.zoneThreshold := by unfold Params.zoneExit at hexit; omega
    exact Zoning.agrees_notInForce (z := s.zoning) hrange hst hlevel hcount
  unfold State.zoneEnd
  rw [State.zoneHandOff_zoning]
  exact State.sweep_agrees hfx (fun mic u hu => by rwa [u.reannounce_zoning mic]) asked

/-- An update of the lost count makes the count right, and the zone agree with it, whatever the table has become. -/
theorem State.updateLost_agrees (h : s.zoning.Stands owed) : (s.updateLost fx).zoning.Agrees owed := by
  let counted : State := { s with lostCount := lostOf s.table }
  have hrange : 4 ≤ s.params.zoneThreshold := h.range
  unfold State.updateLost Params.zoneExit
  dsimp only
  split
  · rename_i hin
    obtain ⟨hz, -, hn⟩ := hin
    obtain ⟨hst, rfl⟩ := h.settled (by simp [State.zoning, hz])
    rw [State.zoneEnter_zoning]
    have hlevel : s.params.zoneThreshold - 3 < lostOf s.table := by omega
    exact Zoning.agrees_inForce (z := counted.zoning) hrange hst hlevel rfl
  · split
    · rename_i hout
      obtain ⟨hz, -, hn⟩ := hout
      obtain ⟨hst, rfl⟩ := h.settled (by simp [State.zoning, hz])
      exact State.zoneEnd_agrees (s := counted) hfx hrange hst hn rfl
    · rename_i hin hout
      refine ⟨⟨fun hz => ?_, fun hz => ?_, h.feed, h.left, h.timed, h.range⟩, rfl⟩
      · have hbelow : s.lostCount < s.params.zoneThreshold := h.quiet hz
        exact Nat.lt_of_not_le fun hn => hin ⟨hz, hbelow, hn⟩
      · have habove : s.params.zoneThreshold - 3 < s.lostCount := h.held hz
        exact Nat.lt_of_not_le fun hn => hout ⟨hz, hn.trans_lt habove, hn⟩

/-- The cause FEED, once its end is owed, ends (R103). -/
theorem State.feedCauseEnds_agrees (h : s.zoning.Agrees true) : (s.feedCauseEnds fx).zoning.Agrees false := by
  have hst : s.station ≠ .feedDown := h.left rfl
  have hz : s.zone = .inForce .feed := h.feed.mpr (.inr rfl)
  rw [State.feedCauseEnds, if_pos hz]
  split
  · rw [State.zoneCause_zoning]
    exact Zoning.agrees_inForce h.range hst ‹_› h.counted
  · exact State.zoneEnd_agrees hfx h.range hst (by omega) h.counted

/-! ## Removal, the sweeps of the presence timers, and faults -/

theorem State.giveInputs_updateLost_agrees (h : s.zoning.Stands owed) (mic : Nat) :
    ((s.giveInputs mic).updateLost fx).zoning.Agrees owed := State.updateLost_agrees hfx (State.giveInputs_stands h mic)

theorem State.pauseEntry_agrees (h : s.zoning.Stands owed) (fromJoining : Bool) (mic : Nat) :
    (s.pauseEntry fx fromJoining mic).zoning.Agrees owed := by
  unfold State.pauseEntry
  extract_lets paused given
  have hpaused : paused.zoning.Stands owed := by
    unfold paused
    split
    · exact State.modEntry_stands h mic _
    · exact h
  have hgiven : given.zoning.Agrees owed := State.giveInputs_updateLost_agrees hfx hpaused mic
  split
  · rwa [State.selectCue_zoning]
  · exact hgiven

theorem State.resumeSweep_agrees (h : s.zoning.Agrees owed) : (s.resumeSweep fx).zoning.Agrees owed :=
  State.sweep_agrees hfx
    (fun mic _ hu => State.giveInputs_updateLost_agrees hfx (State.modEntry_stands hu.toStands mic _) mic) h

theorem State.removeEntry_agrees (h : s.zoning.Stands owed) (mic : Nat) : (s.removeEntry fx mic).zoning.Agrees owed := by
  unfold State.removeEntry
  rw [State.selectWarningLamps_zoning]
  exact State.updateLost_agrees hfx (h.withLost _)

/-- Into LISTEN_ONLY: from FEED_DOWN the cause FEED ends on the way (R181, R103). -/
theorem State.enterListenOnly_agrees (h : s.zoning.Agrees owed) : (s.enterListenOnly fx).zoning.Agrees owed := by
  unfold State.enterListenOnly
  extract_lets quiet emptied stopped resumed
  have hquiet : quiet.zoning.Agrees (owed || decide (s.station = .feedDown)) :=
    State.sweep_agrees hfx (fun mic u hu => by
      rwa [State.quietEntry, State.modEntry_zoning _ _ (by exact fun _ => rfl), State.makeFollower_zoning])
      (h.leave (st := .listenOnly) (by decide))
  have hstopped : stopped.zoning.Agrees (owed || decide (s.station = .feedDown)) := by
    show emptied.zoning.Agrees _
    unfold emptied
    rwa [State.discardWhere_zoning]
  rw [State.stationHandOff_zoning, State.requestStation_zoning]
  unfold resumed
  split
  · rename_i hst
    have howed : owed = false := Bool.eq_false_of_not_eq_true fun ho => h.left ho hst
    rw [howed]
    exact State.feedCauseEnds_agrees hfx (State.resumeSweep_agrees hfx (by simpa [hst] using hstopped))
  · rename_i hst
    simpa [hst] using hstopped

theorem State.faultReport_agrees (h : s.zoning.Agrees owed) (mic : Nat) : (s.faultReport fx mic).zoning.Agrees owed := by
  have reported : (if s.window.isRunning then
      ({ s with fault := some .doubleFault, window := .stopped }).enterListenOnly fx
    else ({ s with fault := some (.table mic), window := s.after windowMs }).requestStation false).zoning.Agrees owed := by
    split
    · exact State.enterListenOnly_agrees (s := { s with fault := some .doubleFault, window := .stopped }) hfx h
    · rwa [State.requestStation_zoning]
  unfold State.faultReport
  split
  · exact h
  · rwa [State.requestStation_zoning]
  · exact reported
  · exact reported
  · exact reported

end

theorem integrityFault_keepsZone (fuel : Nat) : KeepsZone (integrityFault fuel) := by
  induction fuel with
  | zero => exact fun _ _ _ h => h
  | succ fuel ih =>
    intro owed mic s h
    have removed : ((s.removeEntry (integrityFault fuel) mic).count .integrityFaults).zoning.Agrees owed :=
      State.removeEntry_agrees ih h.toStands mic
    exact State.faultReport_agrees ih removed mic

theorem entryFault_keepsZone : KeepsZone State.entryFault := fun owed mic s h => integrityFault_keepsZone s.table.length owed mic s h

/-! ## Presence, claims and the station's states -/

section
variable {s : State} {owed : Bool}

theorem State.presenceHandOff_agrees (h : s.zoning.Stands owed) (mic : Nat) : (s.presenceHandOff mic).zoning.Agrees owed := by
  unfold State.presenceHandOff
  rw [State.selectWarningLamps_zoning, State.selectCue_zoning]
  exact State.giveInputs_updateLost_agrees entryFault_keepsZone (by rwa [State.presenceRole_zoning]) mic

theorem State.becomeCovered_agrees (h : s.zoning.Agrees owed) (mic : Nat) : (s.becomeCovered mic).zoning.Agrees owed := by
  unfold State.becomeCovered
  extract_lets moved
  have hmoved : moved.zoning.Stands owed := State.modEntry_stands h.toStands mic _
  split
  · exact h
  · split
    · exact State.removeEntry_agrees entryFault_keepsZone hmoved mic
    · exact State.presenceHandOff_agrees hmoved mic

theorem State.becomeSilent_agrees (h : s.zoning.Agrees owed) (mic : Nat) : (s.becomeSilent mic).zoning.Agrees owed :=
  State.presenceHandOff_agrees (State.modEntry_stands h.toStands mic _) mic

theorem State.claimsChanged_agrees (h : s.zoning.Agrees owed) (mic : Nat) : (s.claimsChanged mic).zoning.Agrees owed := by
  unfold State.claimsChanged
  split
  · exact h
  · dsimp only
    rw [State.computeRole_zoning]
    split
    · exact State.becomeCovered_agrees h mic
    · split
      · exact State.becomeSilent_agrees h mic
      · exact h

theorem State.modClaims_agrees (h : s.zoning.Agrees owed) (mic : Nat) (f : List Claim → List Claim) :
    ((s.modEntry mic fun e => { e with claims := f e.claims }).claimsChanged mic).zoning.Agrees owed :=
  State.claimsChanged_agrees (by rwa [State.modEntry_zoning _ mic (by exact fun _ => rfl)]) mic

theorem State.enterClaimFor_agrees (h : s.zoning.Agrees owed) (mic : Nat) (c : Claim) : (s.enterClaimFor mic c).zoning.Agrees owed := by
  rcases State.enterClaimFor_cases mic c s with hc | ⟨e, l, -, -, -, hc⟩ <;> rw [hc]
  · exact h
  · exact State.modClaims_agrees h mic fun _ => l

theorem State.removeClaim_agrees (h : s.zoning.Agrees owed) (mic station : Nat) : (s.removeClaim mic station).zoning.Agrees owed := by
  unfold State.removeClaim
  split
  · exact h
  · split
    · exact State.modClaims_agrees h mic (withoutStation station)
    · exact h

theorem State.adoptionEntry_zoning (mic : Nat) (s : State) : (s.adoptionEntry mic).zoning = s.zoning := by
  unfold State.adoptionEntry
  split
  · rfl
  · split
    · rw [State.selectCue_zoning, State.adoptAll_zoning]
    · rfl

theorem State.runningWork_agrees (h : s.zoning.Agrees owed) : s.runningWork.zoning.Agrees owed := by
  unfold State.runningWork
  extract_lets asked timed
  have hasked : asked.zoning.Agrees owed := by
    unfold asked
    rwa [State.requestStation_zoning]
  have htimed : timed.zoning.Agrees owed := by
    unfold timed
    split
    · exact hasked
    · exact hasked
  exact State.sweep_agrees entryFault_keepsZone (fun mic u hu => by rwa [State.adoptionEntry_zoning]) htimed

theorem State.enterRunning_agrees (h : s.zoning.Agrees false) (hst : s.station ≠ .feedDown) : s.enterRunning.zoning.Agrees false := by
  have entered : ({ s with station := .running } : State).zoning.Agrees false :=
    h.leave_other (st := .running) (by decide) hst
  unfold State.enterRunning
  rw [State.stationHandOff_zoning]
  exact State.runningWork_agrees entered

/-- Into FEED_DOWN: the zone comes into force with cause FEED, or its cause becomes FEED (R102). -/
theorem State.enterFeedDown_agrees (h : s.zoning.Agrees owed) (fromJoining : Bool) :
    (s.enterFeedDown fromJoining).zoning.Agrees false := by
  unfold State.enterFeedDown
  extract_lets zoned
  have hzoned : zoned.zoning.Agrees false := by
    unfold zoned
    rw [State.zoneFeed_zoning]
    exact Zoning.agrees_feedDown (z := s.zoning) h.range h.counted
  rw [State.stationHandOff_zoning, State.requestStation_zoning]
  exact State.sweep_agrees entryFault_keepsZone
    (fun mic _ hu => State.pauseEntry_agrees entryFault_keepsZone hu.toStands fromJoining mic) hzoned

/-- Out of FEED_DOWN: the resume sweep runs while the cause FEED still stands, and then the cause ends (R179, R103). -/
theorem State.leaveFeedDown_agrees (h : s.zoning.Agrees false) (hst : s.station = .feedDown) :
    s.leaveFeedDown.zoning.Agrees false := by
  have left : ({ s with station := .running } : State).zoning.Agrees true :=
    h.leave_feedDown (st := .running) (by decide) hst
  unfold State.leaveFeedDown
  rw [State.stationHandOff_zoning]
  exact State.runningWork_agrees (State.feedCauseEnds_agrees entryFault_keepsZone
    (State.resumeSweep_agrees entryFault_keepsZone left))

/-! ## The expiries of an entry's timers -/

theorem State.expiry_agrees (h : s.zoning.Agrees owed) (mic : Nat) (timer : Entry → Timer) {act : Entry → State → State}
    (hact : ∀ e, s.entry? mic = some e → (act e s).zoning.Agrees owed) : (s.expiry mic timer act).zoning.Agrees owed := by
  rcases State.expiry_cases mic timer act s with hx | ⟨-, -, -, -, hx⟩ | ⟨e, he, -, -, hx⟩ <;> rw [hx]
  · exact h
  · exact entryFault_keepsZone owed mic s h
  · exact hact e he

/-- An expiry whose work leaves all that the laws speak of. -/
theorem State.expiry_agrees_of_zoning (h : s.zoning.Agrees owed) (mic : Nat) (timer : Entry → Timer) {act : Entry → State → State}
    (hact : ∀ e, (act e s).zoning = s.zoning) : (s.expiry mic timer act).zoning.Agrees owed :=
  State.expiry_agrees h mic timer fun e _ => by rwa [hact e]

theorem State.lossExpiry_agrees (h : s.zoning.Agrees owed) (mic : Nat) : (s.lossExpiry mic).zoning.Agrees owed :=
  State.expiry_agrees h mic _ fun e _ => by
    split
    · exact State.becomeSilent_agrees h mic
    · exact State.becomeCovered_agrees h mic

theorem State.forgetExpiry_agrees (h : s.zoning.Agrees owed) (mic : Nat) : (s.forgetExpiry mic).zoning.Agrees owed :=
  State.expiry_agrees h mic _ fun e _ => by
    split
    · exact State.removeEntry_agrees entryFault_keepsZone h.toStands mic
    · rwa [State.modEntry_zoning _ mic (by exact fun _ => rfl)]

theorem State.lostForgetExpiry_agrees (h : s.zoning.Agrees owed) (mic : Nat) : (s.lostForgetExpiry mic).zoning.Agrees owed :=
  State.expiry_agrees h mic _ fun e _ => by
    split
    · exact State.removeEntry_agrees entryFault_keepsZone h.toStands mic
    · rwa [State.modEntry_zoning _ mic (by exact fun _ => rfl)]

theorem State.epochExpiry_agrees (h : s.zoning.Agrees owed) (mic : Nat) : (s.epochExpiry mic).zoning.Agrees owed :=
  State.expiry_agrees_of_zoning h mic _ fun e => by
    split
    · exact s.modEntry_zoning mic fun _ => rfl
    · exact (State.giveInput_zoning _ mic (by decide)).trans (s.modEntry_zoning mic fun _ => rfl)

theorem State.staleExpiry_agrees (h : s.zoning.Agrees owed) (mic : Nat) : (s.staleExpiry mic).zoning.Agrees owed :=
  State.expiry_agrees_of_zoning h mic _ fun _ =>
    (State.giveInput_zoning _ mic (by decide)).trans (s.modEntry_zoning mic fun _ => rfl)

/-- A change of level is handed on: of SIGNAL with the removal or the update that makes the count right (R80, R29). -/
theorem State.levelHandOff_agrees {mic : Nat} {k : Kind} (h : s.zoning.Stands owed) (hother : k ≠ .signal → s.zoning.Agrees owed)
    (hs : s.entry? mic ≠ none) : (s.levelHandOff mic k).zoning.Agrees owed := by
  rcases State.levelHandOff_cases mic k s with ⟨hn, -⟩ | ⟨e, -, ⟨-, -, hl⟩ | ⟨-, hl⟩⟩
  · exact absurd hn hs
  · rw [hl]
    exact State.removeEntry_agrees entryFault_keepsZone h mic
  · rw [hl, State.selectLamp_zoning, State.selectCue_zoning]
    split
    · exact State.updateLost_agrees entryFault_keepsZone h
    · exact hother ‹_›

theorem State.announcedMove_levelHandOff_agrees (h : s.zoning.Agrees owed) {mic : Nat} (hs : s.entry? mic ≠ none) (k : Kind)
    (f : Record → Record) (reason : Reason) : ((s.announcedMove mic k f reason).levelHandOff mic k).zoning.Agrees owed := by
  have hmoved : (s.announcedMove mic k f reason).zoning = (s.modRecord mic k f).zoning := State.announce_zoning ..
  refine State.levelHandOff_agrees ?_ (fun hk => ?_) fun hn => hs ?_
  · rw [hmoved]
    exact State.modEntry_stands h.toStands mic _
  · rwa [hmoved, State.modRecord_zoning s mic fun hsig => absurd hsig hk]
  · have hmics : (s.announcedMove mic k f reason).mics = s.mics :=
      (State.announce_told mic k reason _).mics.trans (s.modRecord_mics mic k f)
    refine State.entry?_none.mpr fun e he hm => ?_
    obtain ⟨x, hx, hxm⟩ := List.mem_map.mp (hmics ▸ List.mem_map_of_mem he : e.mic ∈ (s.announcedMove mic k f reason).mics)
    exact State.entry?_none.mp hn x hx (hxm.trans hm)

theorem State.persistenceExpiry_agrees (h : s.zoning.Agrees owed) (mic : Nat) (k : Kind) :
    (s.persistenceExpiry mic k).zoning.Agrees owed :=
  State.expiry_agrees h mic _ fun e he => by
    have moved := State.announcedMove_levelHandOff_agrees h (mic := mic) (by simp [he]) k
    unfold State.persistenceEnds
    split
    · exact moved _ _
    · exact moved _ _
    · exact moved _ _
    · exact h
    · exact h

theorem State.repeatExpiry_agrees (h : s.zoning.Agrees owed) (mic : Nat) (k : Kind) : (s.repeatExpiry mic k).zoning.Agrees owed :=
  State.expiry_agrees_of_zoning h mic _ fun _ =>
    (State.modRecord_zoning _ mic (by exact fun _ _ => rfl)).trans (s.requestWarn_zoning mic k _)

theorem State.claimExpires_agrees (h : s.zoning.Agrees owed) (mic station : Nat) : (s.claimExpires mic station).zoning.Agrees owed :=
  State.expiry_agrees h mic _ fun _ _ => State.removeClaim_agrees h mic station

theorem State.pendingExpiry_agrees (h : s.zoning.Agrees owed) (mic : Nat) : (s.pendingExpiry mic).zoning.Agrees owed :=
  State.expiry_agrees_of_zoning h mic _ fun e => by
    have stopped : (s.modEntry mic fun e => { e with pendingTimer := .stopped }).zoning = s.zoning := s.modEntry_zoning mic fun _ => rfl
    dsimp only
    split
    · exact (State.decideRole_zoning _ mic _).trans stopped
    · exact stopped

theorem State.takeoverExpiry_agrees (h : s.zoning.Agrees owed) (mic : Nat) : (s.takeoverExpiry mic).zoning.Agrees owed :=
  State.expiry_agrees_of_zoning h mic _ fun e => by
    have stopped : (s.modEntry mic fun e => { e with takeover := .stopped }).zoning = s.zoning := s.modEntry_zoning mic fun _ => rfl
    dsimp only
    split
    · exact stopped
    · exact (State.gainReporter_zoning _ mic).trans stopped

theorem State.refreshExpiry_agrees (h : s.zoning.Agrees owed) (mic : Nat) : (s.refreshExpiry mic).zoning.Agrees owed :=
  State.expiry_agrees_of_zoning h mic _ fun _ => (State.modEntry_zoning _ mic (by exact fun _ => rfl)).trans (s.offerCue_zoning _)

/-! ## The feed and sightings -/

theorem State.feedReturn_agrees (h : s.zoning.Agrees false) : s.feedReturn.zoning.Agrees false := by
  unfold State.feedReturn
  extract_lets live marked queued
  have hqueued : queued.zoning.Agrees false :=
    State.sweep_agrees (s := live) entryFault_keepsZone
      (fun mic u hu => by rwa [State.voidGap, State.modEntry_zoning _ _ (by exact fun _ => rfl)]) h
  split
  · exact State.leaveFeedDown_agrees hqueued ‹_›
  · exact hqueued

theorem State.recordDone_agrees (h : s.zoning.Agrees false) (bits : List Bool) : (s.recordDone bits).zoning.Agrees false := by
  have offered : ∀ (u : State) (g : Sighting), u.zoning.Agrees false → (u.offerSighting g).zoning.Agrees false := fun u g hu => by
    unfold State.offerSighting
    split <;> exact hu
  have accepted : ∀ (u : State) (b : List Bool), u.zoning.Agrees false → (u.acceptRecord b).zoning.Agrees false := fun u b hu => by
    unfold State.acceptRecord
    dsimp only
    split
    · exact offered _ _ (State.feedReturn_agrees (s := u.count .feedAccepted) hu)
    · exact offered _ _ hu
  unfold State.recordDone
  dsimp only
  split
  · exact h
  · split
    · unfold State.validateRecord
      split
      · exact h
      · exact h
      · exact h
      · exact accepted _ _ h
    · exact h
    · exact h

theorem State.feedSilence_agrees (h : s.zoning.Agrees false) : s.feedSilence.zoning.Agrees false := by
  unfold State.feedSilence
  dsimp only
  split
  · split
    · exact State.enterFeedDown_agrees (s := { s with feed := .silent, feedTimer := .stopped }) h false
    · exact h
  · exact h

theorem State.processStep_agrees (h : s.zoning.Agrees owed) (creating : Bool) (g : Sighting) (n : Nat) :
    (s.processStep creating g n).zoning.Agrees owed := by
  have given := fun f => State.giveInputs_updateLost_agrees entryFault_keepsZone
    (State.modEntry_stands h.toStands g.mic f) g.mic
  unfold State.processStep
  split
  · rwa [State.modEntry_zoning _ _ (by exact fun _ => rfl)]
  · rwa [State.modEntry_zoning s g.mic fun e => by rw [Entry.sample_eq]]
  · rwa [State.modEntry_zoning s g.mic fun e => by rw [Entry.muteStep_eq]]
  · exact given _
  · rwa [State.computeRole_zoning]
  · rwa [State.selectCue_zoning]
  · rwa [State.selectWarningLamps_zoning]
  · exact h

theorem State.proceed_agrees (h : s.zoning.Agrees owed) (through : Nat) (p : Processing) :
    (s.proceed through p).zoning.Agrees owed := by
  suffices ∀ (count first : Nat) (u : State), u.zoning.Agrees owed → (u.workThrough p first count).zoning.Agrees owed from
    this _ _ s h
  intro count
  induction count with
  | zero => exact fun _ _ hu => hu
  | succ n ih =>
    refine fun first u hu => ih _ _ ?_
    unfold State.workOn
    split
    · exact hu
    · exact State.processStep_agrees hu ..

theorem State.addEntry_agrees (h : s.zoning.Agrees owed) (through : Nat) (g : Sighting) :
    (s.addEntry through g).zoning.Agrees owed :=
  State.proceed_agrees (s := s.admitting g) (by rwa [State.admitting_zoning]) through _

theorem State.admitOrEvict_agrees (h : s.zoning.Agrees owed) (through : Nat) (g : Sighting) :
    (s.admitOrEvict through g).zoning.Agrees owed := by
  unfold State.admitOrEvict
  split
  · exact State.addEntry_agrees h through g
  · unfold State.evictFor
    split
    · exact State.addEntry_agrees (entryFault_keepsZone owed _ s h) through g
    · split
      · exact State.addEntry_agrees (State.removeEntry_agrees entryFault_keepsZone h.toStands _) through g
      · exact h

theorem State.takeSighting_agrees (h : s.zoning.Agrees owed) (through : Nat) : (s.takeSighting through).zoning.Agrees owed := by
  unfold State.takeSighting
  split
  · exact State.proceed_agrees h through _
  · split
    · rename_i g rest _
      let taken : State := { s with intake := rest, inProcessing := none }
      have htaken : taken.zoning.Agrees owed := h
      show (taken.sight through g).zoning.Agrees owed
      unfold State.sight
      split
      · split
        · refine State.proceed_agrees ?_ through _
          rwa [State.hear, State.modEntry_zoning _ _ (by exact fun _ => rfl)]
        · exact State.admitOrEvict_agrees (entryFault_keepsZone owed g.mic taken htaken) through g
      · exact State.admitOrEvict_agrees htaken through g
    · exact h

end

end Sys2Proof.Machine
end

section
/-! The zone and the lost count through the load, RESTART, the station's timers, the frames taken and the line; through every command
and every step (R97, R98, R100 to R103). -/

namespace Sys2Proof.Machine

/-! ## The load, JOINING and RESTART -/

/-- Each value of an area is clamped to the limits of its parameter (R185). -/
theorem clampValues_readValues {specs : List ParamSpec} {spec : ParamSpec} {i : Nat} (hi : specs[i]? = some spec)
    (bytes : List Byte) : ∃ v, (clampValues specs (readValues specs bytes)).getD i 0 = clampNat v spec.lo spec.hi := by
  induction specs generalizing i bytes with
  | nil => cases hi
  | cons x rest ih =>
    cases i with
    | zero =>
      obtain rfl : x = spec := by simpa using hi
      exact ⟨_, rfl⟩
    | succ i => exact ih (by simpa using hi) _

/-- The image of an area has `zone_threshold` in its range (R185). -/
theorem imageOfArea_zoneThreshold (bytes : List Byte) : 4 ≤ (imageOfArea bytes).params.zoneThreshold := by
  obtain ⟨v, hv⟩ := clampValues_readValues (specs := paramSpecs) (i := 26) (spec := ⟨1, 4, 32⟩) (by decide) (bytes.drop 2)
  simp only [imageOfArea, groupCheck, imageOf, hv]
  rw [clampNat_eq (by decide)]
  omega

/-- Out of STARTING, where the table is empty and the zone not in force (R175, R183). -/
theorem State.completeLoad_agrees {s : State} (hS : StartingLaw s) (h : s.zoning.Agrees false) (hst : s.station = .starting)
    (src : Source) {im : Image} (him : 4 ≤ im.params.zoneThreshold) : (s.completeLoad src im).zoning.Agrees false := by
  obtain ⟨hz, hcount⟩ := hS.zone hst
  have hlevel : s.lostCount < im.params.zoneThreshold := by omega
  have fixed : (s.withImage src im).zoning.Agrees false :=
    ⟨⟨fun _ => hlevel, fun hc => absurd (hz.symm.trans hc) (by decide), h.feed, h.left, h.timed, him⟩, h.counted⟩
  have hother : (s.withImage src im).station ≠ .feedDown := by
    show s.station ≠ .feedDown
    rw [hst]
    decide
  unfold State.completeLoad
  dsimp only
  split
  · exact State.enterListenOnly_agrees (s := { s.withImage src im with fault := some .badId }) entryFault_keepsZone fixed
  · rw [State.stationHandOff_zoning]
    exact fixed.leave_other (st := .joining) (by decide) hother

section
variable {s t : State} {owed : Bool}

theorem StartingLaw.of_reading (hS : StartingLaw s) {area : Area} {limit : Nat} (h : s.load = .reading area limit) :
    s.station = .starting := by
  by_contra hst
  simpa [h] using hS.loaded.mpr hst

theorem State.badArea_agrees (hS : StartingLaw s) (h : s.zoning.Agrees false) (hst : s.station = .starting) (area : Area) :
    (s.badArea area).zoning.Agrees false := by
  cases area with
  | site => exact h
  | factory => exact State.completeLoad_agrees hS h hst _ (by decide)

theorem State.areaRead_agrees (hS : StartingLaw s) (h : s.zoning.Agrees false) (answer : Option (List Byte)) :
    (s.areaRead answer).zoning.Agrees false := by
  unfold State.areaRead
  split
  · have hst := hS.of_reading ‹_›
    split
    · exact State.completeLoad_agrees hS h hst _ (imageOfArea_zoneThreshold _)
    · exact State.badArea_agrees hS h hst _
  · exact h
  · exact h

theorem State.areaTimeout_agrees (hS : StartingLaw s) (h : s.zoning.Agrees false) : s.areaTimeout.zoning.Agrees false := by
  unfold State.areaTimeout
  split
  · split
    · exact State.badArea_agrees hS h (hS.of_reading ‹_›) _
    · exact h
  · exact h
  · exact h

theorem State.joiningEnds_agrees (h : s.zoning.Agrees false) : s.joiningEnds.zoning.Agrees false := by
  let stopped : State := { s with joining := .stopped }
  have hstopped : stopped.zoning.Agrees false := h
  unfold State.joiningEnds
  split
  · rename_i hj
    split
    · exact State.enterRunning_agrees hstopped (by show s.station ≠ _; rw [hj.1]; decide)
    · exact State.enterFeedDown_agrees hstopped true
  · exact h

theorem State.restarted_agrees (h : s.zoning.Agrees owed) : s.restarted.zoning.Agrees false := by
  have hrange : 4 ≤ s.params.zoneThreshold := h.range
  have cleared : ∀ st : StationState, st ≠ .feedDown → ({ s.cleared with station := st } : State).zoning.Agrees false := fun st hst =>
    Zoning.agrees_notInForce (z := ({ s.cleared with station := st } : State).zoning) hrange hst
      (by show 0 < s.params.zoneThreshold; omega) rfl
  have rejoined : s.cleared.rejoin.zoning.Agrees false := by
    unfold State.rejoin
    split
    · rename_i hst
      rw [State.requestStation_zoning]
      exact cleared s.cleared.station (by rw [hst]; decide)
    · exact cleared .joining (by decide)
  show ((s.cleared.rejoin.selectLamp .station).evaluateAttn).zoning.Agrees false
  exact (State.selectLamp_zoning s.cleared.rejoin .station).symm ▸ rejoined

/-! ## The station's timers -/

/-- A due repeat timer runs, and runs again when it is reloaded (R100). -/
theorem State.zoneRepeatExpiry_agrees (h : s.zoning.Agrees owed) : s.zoneRepeatExpiry.zoning.Agrees owed := by
  unfold State.zoneRepeatExpiry
  split
  · have running : s.zoning.repeats = true := Timer.isRunning_of_isDue ‹_›
    have reloaded : ({ s.requestStation false with zoneRepeat := s.after s.params.repeatMs } : State).zoning =
        { s.zoning with repeats := true } := congrArg (fun z : Zoning => { z with repeats := true }) (s.requestStation_zoning false)
    rw [reloaded, ← running]
    exact h
  · exact h

theorem State.stationRepeatExpiry_agrees (h : s.zoning.Agrees owed) : s.stationRepeatExpiry.zoning.Agrees owed := by
  unfold State.stationRepeatExpiry
  split
  · show (s.requestStation false).zoning.Agrees owed
    rwa [State.requestStation_zoning]
  · exact h

theorem State.floorSweep_agrees (h : s.zoning.Agrees owed) : s.floorSweep.zoning.Agrees owed :=
  State.sweep_agrees entryFault_keepsZone (fun mic u hu => by
    rwa [State.floorEntry, State.giveInput_zoning _ mic (by decide), State.modEntry_zoning _ mic (by exact fun _ => rfl)]) h

theorem State.floorExpiry_agrees (h : s.zoning.Agrees owed) : s.floorExpiry.zoning.Agrees owed := by
  unfold State.floorExpiry
  split
  · exact State.floorSweep_agrees (s := { s with floor := .stale, floorTimer := .stopped }) h
  · exact h

theorem State.absenceExpiry_agrees (h : s.zoning.Agrees owed) (n : Nat) : (s.absenceExpiry n).zoning.Agrees owed := by
  unfold State.absenceExpiry
  split
  · exact State.sweep_agrees (s := { s with roster := s.roster.set n .absent }) entryFault_keepsZone
      (fun mic _ hu => State.removeClaim_agrees hu mic n) h
  · exact h

theorem Round.visit_agrees {r : Round} (h : r.state.zoning.Agrees owed) (mic : Nat) : (r.visit mic).state.zoning.Agrees owed := by
  unfold Round.visit
  split
  · exact h
  · split
    · exact entryFault_keepsZone owed mic _ h
    · split
      · exact h
      · split
        · exact h
        · rwa [State.submitClaims, State.requestFrame_zoning]

theorem State.claimRoundExpiry_agrees (h : s.zoning.Agrees owed) : s.claimRoundExpiry.zoning.Agrees owed := by
  have visits : ∀ (mics : List Nat) (r : Round), r.state.zoning.Agrees owed →
      (mics.foldl Round.visit r).state.zoning.Agrees owed := by
    intro mics
    induction mics with
    | nil => exact fun _ hr => hr
    | cons mic rest ih => exact fun r hr => ih _ (Round.visit_agrees hr mic)
  have made : s.makeRound.zoning.Agrees owed := by
    unfold State.makeRound
    extract_lets fresh visited
    have hvisited : visited.state.zoning.Agrees owed := visits _ ⟨fresh, []⟩ h
    split
    · exact hvisited
    · rwa [State.submitClaims, State.requestFrame_zoning]
  unfold State.claimRoundExpiry
  dsimp only
  split
  · split
    · exact made
    · exact made
  · exact h

/-! ## The frames taken -/

theorem State.verified_agrees (h : s.zoning.Agrees owed) (mic : Nat) {act : Entry → State → State}
    (hact : ∀ e, (act e s).zoning.Agrees owed) : (s.verified State.entryFault mic act).zoning.Agrees owed := by
  rcases State.verified_cases State.entryFault mic act s with hv | ⟨-, -, -, hv⟩ | ⟨e, -, -, hv⟩ <;> rw [hv]
  · exact h
  · exact entryFault_keepsZone owed mic s h
  · exact hact e

theorem State.dispatch_agrees (h : s.zoning.Agrees false) {act : Nat → RxBody → Option (State → State)}
    (hact : ∀ source body work, act source body = some work → ∀ u, u.zoning.Agrees false → (work u).zoning.Agrees false) :
    (s.dispatch act).zoning.Agrees false := by
  unfold State.dispatch
  split
  · split
    · exact hact _ _ _ ‹_› _ h
    · exact h
  · exact h

theorem State.takeClaims_agrees (h : s.zoning.Agrees owed) (source : Nat) (pairs : List Pair) :
    (s.takeClaims source pairs).zoning.Agrees owed := by
  unfold State.takeClaims
  induction pairs generalizing s with
  | nil => exact h
  | cons p rest ih =>
    rw [List.foldl_cons]
    refine ih ?_
    unfold State.takeClaim
    split
    · exact h
    · exact State.verified_agrees h p.mic fun _ => State.enterClaimFor_agrees h p.mic _

theorem State.ackHandOff_agrees (h : s.zoning.Agrees owed) (mic : Nat) (k : Kind) : (s.ackHandOff mic k).zoning.Agrees owed := by
  unfold State.ackHandOff
  split
  · exact h
  · split
    · exact State.removeEntry_agrees entryFault_keepsZone h.toStands mic
    · rwa [State.selectLamp_zoning]

theorem State.acknowledge_agrees (h : s.zoning.Agrees owed) (mic : Nat) (k : Kind) (l : Level) (e : Entry) :
    (s.acknowledge mic k l e).zoning.Agrees owed := by
  unfold State.acknowledge
  split
  · refine State.ackHandOff_agrees ?_ mic k
    rwa [State.ackQueued_zoning, State.modRecord_zoning s mic (by exact fun _ _ => rfl)]
  · exact h

/-- What a peer's WARN leaves of a record does not change whether it counts (R72). -/
theorem Record.absorb_countsLost (w : Warn) (r : Record) : (r.absorb w).countsLost = r.countsLost := by
  unfold Record.absorb
  dsimp only
  split <;> rfl

theorem State.absorbWarn_agrees (h : s.zoning.Agrees owed) (w : Warn) (e : Entry) : (s.absorbWarn w e).zoning.Agrees owed := by
  have told : (s.modRecord w.mic w.kind (Record.absorb w)).zoning.Agrees owed := by
    rwa [State.modRecord_zoning s w.mic fun _ => Record.absorb_countsLost w]
  unfold State.absorbWarn
  dsimp only
  split
  · exact State.ackHandOff_agrees (s := (s.modRecord w.mic w.kind (Record.absorb w)).ackQueued w.mic w.kind w.level) told ..
  · exact told

theorem State.yieldTo_zoning (source : Nat) (w : Warn) (s : State) : (s.yieldTo source w).zoning = s.zoning := by
  unfold State.yieldTo
  split
  · rfl
  · split
    · exact (State.modEntry_zoning _ w.mic (by exact fun _ => rfl)).trans (s.loseReporter_zoning w.mic)
    · rfl

theorem State.cancelTakeover_zoning (w : Warn) (s : State) : (s.cancelTakeover w).zoning = s.zoning := by
  unfold State.cancelTakeover
  split
  · rfl
  · split
    · exact s.modEntry_zoning w.mic fun _ => rfl
    · rfl

theorem State.applyWarn_agrees (h : s.zoning.Agrees owed) (source : Nat) (w : Warn) (e : Entry) :
    (s.applyWarn source w e).zoning.Agrees owed := by
  unfold State.applyWarn State.warnClaim
  rw [State.cancelTakeover_zoning, State.yieldTo_zoning]
  split
  · exact State.enterClaimFor_agrees (State.absorbWarn_agrees h w e) ..
  · exact State.absorbWarn_agrees h w e

theorem State.answerEntry_agrees (h : s.zoning.Agrees owed) (mic : Nat) : (s.answerEntry mic).zoning.Agrees owed := by
  unfold State.answerEntry
  split
  · rwa [State.requestFrame_zoning]
  · split
    · rwa [State.requestFrame_zoning]
    · rw [State.requestFrame_zoning]
      exact entryFault_keepsZone owed mic s h

theorem State.claimTaken_agrees (h : s.zoning.Agrees false) : (s.dispatch claimWork).zoning.Agrees false :=
  State.dispatch_agrees h fun source body work hw u hu => by
    cases body <;> cases hw
    exact State.takeClaims_agrees hu source _

theorem State.ackTaken_agrees (h : s.zoning.Agrees false) : (s.dispatch ackWork).zoning.Agrees false :=
  State.dispatch_agrees h fun _ body work hw u hu => by
    cases body <;> cases hw
    exact State.verified_agrees hu _ fun e => State.acknowledge_agrees hu _ _ _ e

theorem State.warnTaken_agrees (h : s.zoning.Agrees false) : (s.dispatch warnWork).zoning.Agrees false :=
  State.dispatch_agrees h fun source body work hw u hu => by
    cases body <;> cases hw
    exact State.verified_agrees hu _ fun e => State.applyWarn_agrees hu source _ e

theorem State.floorTaken_agrees (h : s.zoning.Agrees false) : (s.dispatch floorWork).zoning.Agrees false :=
  State.dispatch_agrees h fun _ body work hw u hu => by
    cases body <;> cases hw
    rename_i mics
    exact State.floorSweep_agrees
      (s := { u with floorSet := floorSetOf mics, floor := .fresh, floorTimer := u.after u.params.floorMs }) hu

theorem State.entryQuery_agrees (h : s.zoning.Agrees false) : (s.dispatch entryQueryWork).zoning.Agrees false :=
  State.dispatch_agrees h fun _ body work hw u hu => by
    unfold entryQueryWork at hw
    split at hw <;> cases hw
    dsimp only
    split
    · exact State.answerEntry_agrees hu _
    · exact hu

theorem State.statsQuery_agrees (h : s.zoning.Agrees false) : (s.dispatch statsQueryWork).zoning.Agrees false :=
  State.dispatch_agrees h fun _ body work hw u hu => by
    unfold statsQueryWork at hw
    split at hw <;> cases hw
    dsimp only
    split
    · rwa [State.requestFrame_zoning]
    · exact hu

theorem State.restart_agrees (h : s.zoning.Agrees false) : (s.dispatch restartWork).zoning.Agrees false :=
  State.dispatch_agrees h fun _ body work hw u hu => by
    cases body <;> cases hw
    exact State.restarted_agrees hu

theorem State.peerReportTaken_agrees (h : s.zoning.Agrees false) : (s.dispatch reportWork).zoning.Agrees false :=
  State.dispatch_agrees h fun _ body work hw u hu => by
    cases body <;> cases hw
    exact hu

/-! ## The line -/

theorem State.collide_agrees (h : s.zoning.Agrees owed) : s.collide.zoning.Agrees owed := by
  unfold State.collide
  split
  · unfold State.handBack
    split
    · rwa [State.dropReturning, State.discardFrame_zoning]
    · rwa [State.recheck_zoning]
  · exact h

theorem State.frameDone_agrees (h : s.zoning.Agrees owed) (bits : List Bool) (gap : Nat) (headMissed : Bool) :
    (s.frameDone bits gap headMissed).zoning.Agrees owed := by
  have duplicate : ∀ u : State, u.zoning.Agrees owed → u.duplicateNumber.zoning.Agrees owed := fun u hu => by
    have entered := State.enterListenOnly_agrees (s := { u with fault := some .duplicateId }) entryFault_keepsZone hu
    unfold State.duplicateNumber
    split
    · exact hu
    · exact hu
    all_goals exact entered
  have accepted : ∀ (u : State) (source : Nat) (body : Option RxBody), (u.acceptFrame source body).zoning = u.zoning :=
    fun u source body => by
      unfold State.acceptFrame State.offerRx
      split
      · split
        · split <;> rfl
        · rfl
      · rfl
  unfold State.frameDone
  split
  · exact h
  · split
    · exact h
    · unfold State.receive
      extract_lets _ cleared
      have hcleared : cleared.zoning.Agrees owed := h
      split
      · exact h
      · split
        · exact duplicate cleared hcleared
        · rw [accepted]
          exact hcleared

/-! ### Commands that leave all of it -/

theorem State.beginLoad_zoning (straps : BitVec 4) (s : State) : (s.beginLoad straps).zoning = s.zoning := by
  unfold State.beginLoad
  split <;> rfl

theorem State.windowEnds_zoning (s : State) : s.windowEnds.zoning = s.zoning := by
  unfold State.windowEnds
  split <;> rfl

theorem State.startTransfer_zoning (crdy : Bool) (s : State) : (s.startTransfer crdy).zoning = s.zoning := by
  unfold State.startTransfer
  split
  · split <;> rfl
  · rfl

theorem State.endTransfer_zoning (s : State) : s.endTransfer.zoning = s.zoning := by
  unfold State.endTransfer
  split <;> rfl

theorem State.phaseExpiry_zoning (l : Lamp) (s : State) : (s.phaseExpiry l).zoning = s.zoning := by
  unfold State.phaseExpiry
  split
  · cases l <;> rfl
  · rfl

theorem State.lineQuiet_zoning (s : State) : s.lineQuiet.zoning = s.zoning := by
  unfold State.lineQuiet
  split <;> rfl

theorem State.lineStart_zoning (s : State) : s.lineStart.zoning = s.zoning := by
  unfold State.lineStart
  split
  · dsimp only
    split <;> rfl
  all_goals rfl

theorem State.slotEnds_zoning (s : State) : s.slotEnds.zoning = s.zoning := by
  unfold State.slotEnds
  split
  · split
    · split <;> rfl
    · rfl
  all_goals rfl

theorem State.sendDone_zoning (s : State) : s.sendDone.zoning = s.zoning := by
  unfold State.sendDone
  split <;> rfl

/-! ## Every command and every step -/

theorem State.started_agrees (cause : StartCause) (s : State) : (s.started cause).zoning.Agrees false :=
  Zoning.agrees_notInForce (z := State.reset.zoning) (by decide) (by decide) (by decide) rfl

theorem exec_agrees (hS : StartingLaw s) (h : s.zoning.Agrees false) {i : Instr} (hx : exec i s = .next t) :
    t.zoning.Agrees false := by
  cases i with
  | start cause => cases hx; exact s.started_agrees cause
  | loadBegin straps => cases hx; rwa [State.beginLoad_zoning]
  | areaReadComplete answer => cases hx; exact State.areaRead_agrees hS h answer
  | areaReadTimeout => cases hx; exact State.areaTimeout_agrees hS h
  | strobeAsserted => cases hx; exact h
  | recordCompletion bits => cases hx; exact State.recordDone_agrees h bits
  | feedSilenceExpiry => cases hx; exact State.feedSilence_agrees h
  | sightingTaken through => cases hx; exact State.takeSighting_agrees h through
  | lossTimerExpiry mic => cases hx; exact State.lossExpiry_agrees h mic
  | forgetTimerExpiry mic => cases hx; exact State.forgetExpiry_agrees h mic
  | lostForgetExpiry mic => cases hx; exact State.lostForgetExpiry_agrees h mic
  | epochTimerExpiry mic => cases hx; exact State.epochExpiry_agrees h mic
  | staleTimerExpiry mic => cases hx; exact State.staleExpiry_agrees h mic
  | persistenceTimerExpiry mic kind => cases hx; exact State.persistenceExpiry_agrees h mic kind
  | repeatTimerExpiry mic kind => cases hx; exact State.repeatExpiry_agrees h mic kind
  | zoneRepeatTimerExpiry => cases hx; exact State.zoneRepeatExpiry_agrees h
  | stationRepeatTimerExpiry => cases hx; exact State.stationRepeatExpiry_agrees h
  | floorTimerExpiry => cases hx; exact State.floorExpiry_agrees h
  | absenceTimerExpiry station => cases hx; exact State.absenceExpiry_agrees h station
  | claimExpiry mic station => cases hx; exact State.claimExpires_agrees h mic station
  | pendingTimerExpiry mic => cases hx; exact State.pendingExpiry_agrees h mic
  | takeoverTimerExpiry mic => cases hx; exact State.takeoverExpiry_agrees h mic
  | claimRoundTimerExpiry => cases hx; exact State.claimRoundExpiry_agrees h
  | cueRefreshExpiry mic => cases hx; exact State.refreshExpiry_agrees h mic
  | cueTransferStart crdy => cases hx; rwa [State.startTransfer_zoning]
  | cueTransferComplete => cases hx; rwa [State.endTransfer_zoning]
  | phaseTimerExpiry lamp => cases hx; rwa [State.phaseExpiry_zoning]
  | joiningTimerExpiry => cases hx; exact State.joiningEnds_agrees h
  | integrityWindowExpiry => cases hx; rwa [State.windowEnds_zoning]
  | lineIdle => cases hx; rwa [State.lineQuiet_zoning]
  | lineActivity => cases hx; rwa [State.lineStart_zoning]
  | slotBoundary => cases hx; rwa [State.slotEnds_zoning]
  | frameSent => cases hx; rwa [State.sendDone_zoning]
  | collision => cases hx; exact State.collide_agrees h
  | frameCompletion bits gap headMissed => cases hx; exact State.frameDone_agrees h bits gap headMissed
  | claimTaken => cases hx; exact State.claimTaken_agrees h
  | warnTaken => cases hx; exact State.warnTaken_agrees h
  | floorTaken => cases hx; exact State.floorTaken_agrees h
  | ackTaken => cases hx; exact State.ackTaken_agrees h
  | entryQuery => cases hx; exact State.entryQuery_agrees h
  | statsQuery => cases hx; exact State.statsQuery_agrees h
  | restart => cases hx; exact State.restart_agrees h
  | peerReportTaken => cases hx; exact State.peerReportTaken_agrees h

theorem step_agrees (hS : StartingLaw s) (h : s.zoning.Agrees false) (hstep : step s = .next t) : t.zoning.Agrees false := by
  rcases step_cases hstep with ⟨c, rest, -, hx⟩ | ⟨-, p, -, hx⟩ | ⟨-, -, rfl⟩
  · obtain ⟨loaded, table, intake, line, zone⟩ := hS
    exact exec_agrees (s := { s with pending := rest }) ⟨loaded, table, intake, line, zone⟩ h hx
  · exact exec_agrees hS h hx
  · exact h

end

/-- Settles O58: every operation restores the laws of the zone at its update of the lost count, and the entries that the count is of
are spelled by `Record.countsLost`. -/
theorem stepKeepsTheZone : Obligations.StepKeepsTheZone := by
  unfold Obligations.StepKeepsTheZone
  refine ⟨fun s t _ hS h hstep => zoneLaw_iff.mpr (step_agrees hS (zoneLaw_iff.mp h) hstep), fun table => ?_⟩
  rw [lostOf, List.countP_eq_length_filter]
  simp only [Record.countsLost, Bool.decide_or, Bool.decide_and]

end Sys2Proof.Machine
end

section
/-! The repeats of the STATION frame (R100, R146, R150, R151). -/

namespace Sys2Proof.Machine

/-- STATION frames are accepted in RUNNING, FEED_DOWN and LISTEN_ONLY (R143). -/
theorem StationState.sendsStation_iff {st : StationState} :
    st.sendsStation = true ↔ st = .running ∨ st = .feedDown ∨ st = .listenOnly := by
  cases st <;> decide

section
variable {s : State}

/-- A request that is not accepted changes nothing (R143). -/
theorem State.requestStation_refused (h : ¬s.station.sendsStation = true) (start : Bool) : s.requestStation start = s := if_neg h

/-- An accepted request restarts the station repeat timer when it runs (R151). -/
theorem State.requestStation_stationRepeat (h : s.station.sendsStation = true) : (s.requestStation false).stationRepeat =
    if s.stationRepeat.isRunning then .running (s.now + s.params.repeatMs) else s.stationRepeat := by
  have placed : ((s.removeWhere Frame.isStation).submit (.station (composeStation s))).2 = true :=
    State.submit_station fun g hg => by
      have := (List.mem_filter.mp hg).2
      simpa using this
  have kept : ((s.removeWhere Frame.isStation).submit (.station (composeStation s))).1.stationRepeat = s.stationRepeat := by
    rw [State.submit_eq]
    rfl
  rw [State.requestStation, if_pos h]
  dsimp only
  rw [placed]
  by_cases hr : s.stationRepeat.isRunning = true
  · simp [hr, State.after]
  · simp [hr, kept]

/-- The queue after an accepted request holds one STATION frame, which describes the station as it stands, whatever becomes of the two
repeat timers (R146, R150). -/
theorem State.requestStation_reports (h : s.station.sendsStation = true) (zoneTimer stationTimer : Timer) :
    let t : State := { s.requestStation false with zoneRepeat := zoneTimer, stationRepeat := stationTimer }
    s.onlyHandOffs t ∧ t.view = s.view ∧ (t.tx.filter fun f => f.frame.isStation) =
      [⟨.station ⟨s.station, s.zone, s.table.length, s.source, s.partialImage, s.fault⟩, 0⟩] := by
  have told := (State.requestStation_told false s).trans (State.Told.mk (t := { s.requestStation false with
    zoneRepeat := zoneTimer, stationRepeat := stationTimer }) rfl rfl id)
  exact ⟨told.only, told.view, State.requestStation_filter h false⟩

end

/-- Settles O27: both expiries are a STATION request with the reload of their timer. -/
theorem stationRepeats : Obligations.StationRepeats := by
  unfold Obligations.StationRepeats
  intro s again sends asked
  have refused : ¬sends → s.requestStation false = s := fun h =>
    State.requestStation_refused (mt StationState.sendsStation_iff.mp h) false
  refine ⟨fun hdue => ?_, fun hdue => ?_⟩
  · have hexec : exec .zoneRepeatTimerExpiry s = .next { s.requestStation false with zoneRepeat := again } :=
      congrArg _ (if_pos hdue)
    rw [hexec]
    refine ⟨fun h => by rw [refused h], fun h => ⟨_, rfl, ?_⟩⟩
    have hsends := StationState.sendsStation_iff.mpr h
    exact ⟨State.requestStation_reports hsends again _, rfl, State.requestStation_stationRepeat hsends⟩
  · have hexec : exec .stationRepeatTimerExpiry s = .next { s.requestStation false with stationRepeat := again } :=
      congrArg _ (if_pos hdue)
    rw [hexec]
    refine ⟨fun h => by rw [refused h], fun h => ⟨_, rfl, ?_⟩⟩
    exact ⟨State.requestStation_reports (StationState.sendsStation_iff.mpr h) _ again, State.requestStation_zoneRepeat false s, rfl⟩

end Sys2Proof.Machine
end

section
/-! The zone that comes into force and ends with the lost count (R97, R98, R100, R101): what is queued, what is re-announced, and the
expiries that move it. -/

namespace Sys2Proof.Machine

/-! ## ATTN (R182) -/

theorem State.attnValue_iff (s : State) : s.attnValue = true ↔
    s.station ≠ .starting ∧
      (s.station = .listenOnly ∨ s.station = .feedDown ∨ s.zone ≠ .notInForce ∨ s.source = .defaults) := by
  simp [State.attnValue, or_assoc]

theorem State.zoneEnter_attn (cause : ZoneCause) (s : State) : (s.zoneEnter cause).attn = (s.zoneEnter cause).attnValue := rfl

theorem State.zoneEnd_attn (fx : Nat → State → State) (s : State) : (s.zoneEnd fx).attn = (s.zoneEnd fx).attnValue := rfl

/-! ## The STATION frame (R98, R101, R146) -/

/-- A submission of another frame leaves the STATION frames: none is less urgent. -/
theorem State.submit_stations {f : Frame} (hf : f.isStation = false) (s : State) :
    ((s.submit f).1.tx.filter fun g => g.frame.isStation) = s.tx.filter fun g => g.frame.isStation := by
  have placed : ∀ q : List TxFrame, ((placeTx ⟨f, 0⟩ q).filter fun g => g.frame.isStation) = q.filter fun g => g.frame.isStation := by
    intro q
    obtain ⟨pre, post, hq, hp, -, -⟩ := placeTx_split ⟨f, 0⟩ q
    rw [hp, hq]
    simp [List.filter_append, hf]
  rcases State.submit_cases f s with ⟨-, hs⟩ | ⟨-, v, rest, hv, hs⟩ | ⟨-, -, hs⟩ <;> rw [hs]
  · exact placed _
  · obtain ⟨hcls, -, pre, post, hq, rfl, -⟩ := victimFor_some hv
    have hvictim : v.frame.isStation = false := by
      cases hvf : v.frame with
      | station r => rw [hvf] at hcls; exact absurd hcls (Nat.not_lt_zero _)
      | _ => rfl
    rw [State.discardFrame_eq]
    refine (placed _).trans ?_
    rw [hq]
    simp [List.filter_append, hvictim]
  · rfl

theorem State.announce_stations (mic : Nat) (k : Kind) (reason : Reason) (s : State) :
    ((s.announce mic k reason).tx.filter fun g => g.frame.isStation) = s.tx.filter fun g => g.frame.isStation := by
  show ((s.requestWarn mic k reason).tx.filter fun g => g.frame.isStation) = _
  have removed : ((s.removeWhere (Frame.warnFor mic k)).tx.filter fun g => g.frame.isStation) =
      s.tx.filter fun g => g.frame.isStation := by
    rw [State.removeWhere_tx, List.filter_filter]
    refine List.filter_congr fun g _ => ?_
    cases g.frame <;> rfl
  unfold State.requestWarn
  split
  · rfl
  · split
    · dsimp only
      split
      · exact (State.submit_stations rfl _).trans removed
      · exact (State.submit_stations rfl _).trans removed
    · rfl

/-- A zone that has come into force is reported (R98). -/
theorem State.zoneEnter_stations {s : State} (h : s.station.sendsStation = true) (cause : ZoneCause) :
    ((s.zoneEnter cause).tx.filter fun g => g.frame.isStation) =
      [⟨.station (composeStation { s with zone := .inForce cause }), 0⟩] := by
  unfold State.zoneEnter
  extract_lets cleared asked
  have told : ({ s with zone := .inForce cause } : State).Told { cleared with zone := .inForce cause } := by
    obtain ⟨only, view, sound⟩ := State.discardWhere_told Frame.lostWarn s
    exact ⟨by unfold cleared; rw [State.discardWhere_eq]; rfl, view, sound⟩
  obtain ⟨-, hst, -⟩ := told.keep
  rw [State.zoneHandOff_tx, State.requestStation_filter (by rw [hst]; exact h), told.composeStation rfl]

/-! ## The re-announcements (R101) -/

section
variable {s : State}

/-- Over a sound table the sweep is its visits. -/
theorem State.reannounceSweep_eq (hS : SoundLaw s) (fx : Nat → State → State) :
    s.sweep fx State.reannounce = s.mics.foldl (fun u mic => u.reannounce mic) s := by
  show s.mics.foldl (fun u mic => u.verified fx mic fun _ => State.reannounce mic) s = _
  generalize s.mics = mics
  induction mics generalizing s with
  | nil => rfl
  | cons mic rest ih =>
    have visit : (s.verified fx mic fun _ => State.reannounce mic) = s.reannounce mic := by
      rw [State.verified_sound hS]
      cases he : s.entry? mic with
      | none => simp [State.reannounce, he]
      | some e => rfl
    rw [List.foldl_cons, List.foldl_cons, visit]
    exact ih ((State.reannounce_told mic s).sound hS)

/-- The visits, and whatever every one of them keeps. -/
theorem State.reannounceVisits_keep {P : State → Prop} {mics : List Nat} (hP : ∀ mic ∈ mics, ∀ u, P u → P (u.reannounce mic))
    (h : P s) : P (mics.foldl (fun u mic => u.reannounce mic) s) := by
  induction mics generalizing s with
  | nil => exact h
  | cons mic rest ih => exact ih (fun m hm => hP m (by simp [hm])) (hP mic (by simp) s h)

theorem State.submit_room (hroom : s.tx.length < txMax) (f : Frame) :
    s.submit f = ({ s with tx := placeTx ⟨f, 0⟩ s.tx }, true) := if_pos hroom

/-- With room an announcement leaves every other entry as it is: no frame gives way. -/
theorem State.announce_others {mic m : Nat} (hm : m ≠ mic) (hroom : s.tx.length < txMax) (k : Kind) (reason : Reason) :
    (s.announce m k reason).entry? mic = s.entry? mic := by
  have changed : ∀ (u : State) (f : Entry → Entry), (∀ e, (f e).mic = e.mic) → (u.modEntry m f).entry? mic = u.entry? mic :=
    fun u f hf => by rw [State.entry?_modEntry u m mic f hf]; simp [hm.symm]
  have requested : (s.requestWarn m k reason).entry? mic = s.entry? mic := by
    have placed : ∀ f, ((s.removeWhere (Frame.warnFor m k)).submit f).1.entry? mic = s.entry? mic := fun f => by
      rw [State.submit_room (s := s.removeWhere (Frame.warnFor m k)) ((List.length_filter_le ..).trans_lt hroom)]
      rfl
    unfold State.requestWarn
    split
    · rfl
    · split
      · dsimp only
        split
        · exact (changed _ _ fun e => by simp).trans (placed _)
        · exact placed _
      · rfl
  exact (changed _ _ fun e => by simp).trans requested

/-- The visits before the turn of `mic` leave its entry, and one frame more each at most. -/
theorem State.reannounceVisits_before {mic : Nat} {mics : List Nat} (hmem : mic ∉ mics)
    (hroom : s.tx.length + mics.length ≤ txMax) : let t := mics.foldl (fun u m => u.reannounce m) s
    t.entry? mic = s.entry? mic ∧ t.tx.length ≤ s.tx.length + mics.length := by
  induction mics generalizing s with
  | nil => exact ⟨rfl, Nat.le_refl _⟩
  | cons m rest ih =>
    rw [List.length_cons] at hroom
    have hvisit : (s.reannounce m).entry? mic = s.entry? mic ∧ (s.reannounce m).tx.length ≤ s.tx.length + 1 := by
      unfold State.reannounce
      split
      · exact ⟨rfl, by omega⟩
      · split
        · exact ⟨State.announce_others (by rintro rfl; simp at hmem) (by omega) _ _, State.requestWarn_length ..⟩
        · exact ⟨rfl, by omega⟩
    obtain ⟨hentry, hlength⟩ := ih (s := s.reannounce m) (fun h => hmem (by simp [h])) (by omega)
    refine ⟨hentry.trans hvisit.1, ?_⟩
    rw [List.length_cons]
    exact hlength.trans (by omega)

/-- The visits to others leave a queued ADOPT and the repeat timer of its record. -/
theorem State.reannounceVisits_after {mic due : Nat} {w : Warn} {mics : List Nat} (hmem : mic ∉ mics) (hw : w.mic = mic)
    (hreason : w.reason = .adopt) (hq : ⟨.warn w, 0⟩ ∈ s.tx) (htreated : s.Treated mic .signal due) :
    let t := mics.foldl (fun u m => u.reannounce m) s
    ⟨.warn w, 0⟩ ∈ t.tx ∧ t.Treated mic .signal due := by
  refine State.reannounceVisits_keep (P := fun u => ⟨.warn w, 0⟩ ∈ u.tx ∧ u.Treated mic .signal due) (fun m hm u hu => ?_)
    ⟨hq, htreated⟩
  have hother : (Frame.warn w).warnFor m .signal = false := by
    have hne : w.mic ≠ m := by
      rintro rfl
      exact hmem (hw ▸ hm)
    simp [Frame.warnFor, hne]
  unfold State.reannounce
  split
  · exact hu
  · split
    · refine ⟨State.mem_requestWarn hu.1 hother fun v hv => ?_, hu.2.announce ..⟩
      simp [Frame.cls, hreason, hv]
    · exact hu

/-- The sweep announces a reported LOST that the chamber was not told, where the queue has room for the whole sweep (R101, R76). -/
theorem State.reannounceSweep_announces (hT : TableLaw s) (hS : SoundLaw s) (hsends : s.station = .running ∨ s.station = .feedDown)
    (hz : s.zone = .notInForce) (hroom : s.tx.length + s.table.length ≤ txMax) {e : Entry} (he : e ∈ s.table)
    (hrole : e.role = .reporter) (hlevel : e.recSignal.level = .higher) (hchamber : e.recSignal.chamber ≠ .told .higher)
    (fx : Nat → State → State) : let t := s.sweep fx State.reannounce
    ⟨.warn (composeWarn s.now e .signal .adopt), 0⟩ ∈ t.tx ∧ t.Treated e.mic .signal (s.now + s.params.repeatMs) := by
  obtain ⟨pre, post, hsplit⟩ := List.append_of_mem he
  have hlength : s.table.length = pre.length + (post.length + 1) := by rw [hsplit]; simp
  have hmics : s.mics = pre.map Entry.mic ++ e.mic :: post.map Entry.mic := by rw [State.mics, hsplit]; simp
  have hnodup := hT.nodup
  rw [hmics, List.nodup_append, List.nodup_cons] at hnodup
  obtain ⟨-, ⟨hpost, -⟩, hapart⟩ := hnodup
  have hpre : e.mic ∉ pre.map Entry.mic := fun h => hapart _ h _ (by simp) rfl
  intro t
  have ht : t = (post.map Entry.mic).foldl (fun u m => u.reannounce m)
      (((pre.map Entry.mic).foldl (fun u m => u.reannounce m) s).reannounce e.mic) := by
    show s.sweep fx State.reannounce = _
    rw [State.reannounceSweep_eq hS, hmics, List.foldl_append, List.foldl_cons]
  let before := (pre.map Entry.mic).foldl (fun u m => u.reannounce m) s
  obtain ⟨hentry, hqueue⟩ := State.reannounceVisits_before (s := s) hpre (by rw [List.length_map]; omega)
  have hshort : before.tx.length ≤ s.tx.length + pre.length := by simpa using hqueue
  have hfound : before.entry? e.mic = some e := hentry.trans (hT.entry? he)
  have hzoning : before.zoning = s.zoning :=
    State.reannounceVisits_keep (P := fun u => u.zoning = s.zoning) (fun m _ u hu => (u.reannounce_zoning m).trans hu) rfl
  have told : s.Told before :=
    State.reannounceVisits_keep (P := fun u => s.Told u) (fun m _ u hu => hu.trans (State.reannounce_told m u)) (.refl s)
  obtain ⟨hnow, hst, hparams, -⟩ := told.keep
  have hzone : before.zone = .notInForce := (congrArg Zoning.zone hzoning).trans hz
  have hturn : before.reannounce e.mic = before.announce e.mic .signal .adopt := by
    simp only [State.reannounce, hfound]
    exact if_pos ⟨hrole, hlevel, hchamber⟩
  have hgate : before.warnGate e .signal = true := by
    simp [State.warnGate, StationState.sendsAll_iff, hst, hsends, hrole, hzone]
  have queued : ⟨.warn (composeWarn s.now e .signal .adopt), 0⟩ ∈ (before.announce e.mic .signal .adopt).tx := by
    rw [← hnow]
    exact State.requestWarn_queued hfound hgate (by omega) .adopt
  have treated := State.announce_treated e.mic .signal .adopt before
  rw [hnow, hparams] at treated
  rw [ht]
  show _ ∈ ((post.map Entry.mic).foldl (fun u m => u.reannounce m) (before.reannounce e.mic)).tx ∧ _
  rw [hturn]
  exact State.reannounceVisits_after hpost rfl rfl queued treated

/-- With room a STATION request leaves the table, and the queue one frame longer at most. -/
theorem State.requestStation_room (hroom : s.tx.length < txMax) (start : Bool) :
    (s.requestStation start).table = s.table ∧ (s.requestStation start).tx.length ≤ s.tx.length + 1 := by
  have hlen : (s.removeWhere Frame.isStation).tx.length ≤ s.tx.length := List.length_filter_le ..
  have placed : ∀ f, ((s.removeWhere Frame.isStation).submit f).1.table = s.table ∧
      ((s.removeWhere Frame.isStation).submit f).1.tx.length ≤ s.tx.length + 1 := fun f => by
    rw [State.submit_room (hlen.trans_lt hroom)]
    exact ⟨rfl, by simpa using hlen⟩
  unfold State.requestStation
  split
  · dsimp only
    split
    · exact placed _
    · exact placed _
  · exact ⟨rfl, by omega⟩

end

/-! ## The zone's end (R101) -/

section
variable {s : State} {fx : Nat → State → State}

/-- The zone not in force, its repeat timer stopped, and that reported (R101): what the re-announcements begin from. -/
def State.zoneEnded (s : State) : State := ({ s with zone := .notInForce, zoneRepeat := .stopped }).requestStation false

theorem State.zoneEnd_eq (fx : Nat → State → State) (s : State) :
    s.zoneEnd fx = (s.zoneEnded.sweep fx State.reannounce).zoneHandOff := rfl

theorem State.zoneEnded_told (s : State) : s.Told s.zoneEnded :=
  State.Told.trans (t := { s with zone := .notInForce, zoneRepeat := .stopped }) ⟨rfl, rfl, id⟩ (State.requestStation_told false _)

/-- What the zone's end leaves: the repeat timer stopped, and the STATION frame. -/
theorem State.zoneEnd_reports (hS : SoundLaw s) : (s.zoneEnd fx).zoneRepeat = .stopped ∧
    (s.station.sendsStation = true → ((s.zoneEnd fx).tx.filter fun g => g.frame.isStation) =
      [⟨.station (composeStation { s with zone := .notInForce }), 0⟩]) := by
  let ended : State := { s with zone := .notInForce, zoneRepeat := .stopped }
  have hsound : SoundLaw s.zoneEnded := s.zoneEnded_told.sound hS
  rw [State.zoneEnd_eq, State.zoneHandOff_tx]
  refine ⟨?_, fun hsends => ?_⟩
  · have hsame : (s.zoneEnded.sweep fx State.reannounce).zoneRepeat = s.zoneEnded.zoneRepeat := by
      rw [State.reannounceSweep_onlyQueues hsound]
    have hhanded : ∀ u : State, u.zoneHandOff.zoneRepeat = u.zoneRepeat := fun u => by simp [State.zoneHandOff]
    rw [hhanded, hsame]
    exact State.requestStation_zoneRepeat false ended
  · rw [State.reannounceSweep_eq hsound]
    refine (State.reannounceVisits_keep (P := fun u => (u.tx.filter fun g => g.frame.isStation) =
      s.zoneEnded.tx.filter fun g => g.frame.isStation) (fun m _ u hu => ?_) rfl).trans
      (State.requestStation_filter (s := ended) hsends false)
    unfold State.reannounce
    split
    · exact hu
    · split
      · exact (State.announce_stations ..).trans hu
      · exact hu

/-- The zone's end announces a reported LOST that the chamber was not told, and treats its repeat timer (R101, R76). -/
theorem State.zoneEnd_announces (hT : TableLaw s) (hS : SoundLaw s) (hsends : s.station = .running ∨ s.station = .feedDown)
    (hroom : s.tx.length + s.table.length + 1 ≤ txMax) {e : Entry} (he : e ∈ s.table) (hrole : e.role = .reporter)
    (hlevel : e.recSignal.level = .higher) (hchamber : e.recSignal.chamber ≠ .told .higher) :
    ⟨.warn (composeWarn s.now e .signal .adopt), 0⟩ ∈ (s.zoneEnd fx).tx ∧
      ∀ f, (s.zoneEnd fx).entry? e.mic = some f → f.recSignal.repeatTimer =
        if e.recSignal.acked then .stopped else .running (s.now + s.params.repeatMs) := by
  let ended : State := { s with zone := .notInForce, zoneRepeat := .stopped }
  have hnonempty : 0 < s.table.length := List.length_pos_of_mem he
  obtain ⟨htable, hlength⟩ := State.requestStation_room (s := ended) (show s.tx.length < txMax by omega) false
  have told := s.zoneEnded_told
  obtain ⟨hnow, hst, hparams, -⟩ := told.keep
  have hmem : e ∈ s.zoneEnded.table := by
    rw [State.zoneEnded, htable]
    exact he
  have hfits : s.zoneEnded.tx.length + s.zoneEnded.table.length ≤ txMax := by
    have hbound : s.zoneEnded.tx.length ≤ s.tx.length + 1 := hlength
    rw [told.occupancy]
    omega
  obtain ⟨hqueued, htreated⟩ := State.reannounceSweep_announces (told.table hT) (told.sound hS) (by rw [hst]; exact hsends)
    (State.requestStation_zone false ended) hfits hmem hrole hlevel hchamber fx
  rw [hnow] at hqueued htreated
  rw [hparams] at htreated
  refine ⟨?_, fun f hf => ?_⟩
  · rw [State.zoneEnd_eq, State.zoneHandOff_tx]
    exact hqueued
  · have hview := (State.zoneEnd_told fx hS).entry?_untold e.mic
    rw [hf, hT.entry? he] at hview
    obtain ⟨hfmem, hfmic⟩ := State.entry?_some hf
    have htimer := (htreated.zoneHandOff.entries f hfmem hfmic).repeatTimer (Option.some.inj hview)
    refine Eq.trans htimer ?_
    have hrecord : e.record .signal = e.recSignal := rfl
    rw [hrecord]
    cases e.recSignal.acked <;> simp [hrole, hlevel]

end

/-! ## Updates of the lost count (R97) -/

/-- The lost count is right, and the zone has come into force or ended with it (R98, R101). -/
def Zoning.Moves (z w : Zoning) : Prop :=
  w.count = w.lost ∧ w.zone =
    if z.zone = .notInForce ∧ z.count < z.threshold ∧ z.threshold ≤ w.count then .inForce .count
    else if z.zone = .inForce .count ∧ w.count < z.count ∧ w.count ≤ z.threshold - 3 then .notInForce
    else z.zone

section
variable {s : State} {mic : Nat}

theorem State.updateLost_moves (hS : SoundLaw s) (fx : Nat → State → State) : s.zoning.Moves (s.updateLost fx).zoning := by
  let counted : State := { s with lostCount := lostOf s.table }
  have hlost : (s.updateLost fx).lostCount = lostOf s.table :=
    (State.updateLost_lostCount hS).trans (State.updateLost_told fx hS).lostOf
  refine ⟨State.updateLost_lostCount hS, ?_⟩
  show (s.updateLost fx).zone = if s.zone = .notInForce ∧ s.lostCount < s.params.zoneThreshold ∧
      s.params.zoneThreshold ≤ (s.updateLost fx).lostCount then .inForce .count
    else if s.zone = .inForce .count ∧ (s.updateLost fx).lostCount < s.lostCount ∧
      (s.updateLost fx).lostCount ≤ s.params.zoneThreshold - 3 then .notInForce
    else s.zone
  rw [hlost]
  unfold State.updateLost Params.zoneExit
  dsimp only
  split
  · exact (State.zoneEnter_spec .count counted).1
  · split
    · exact (State.zoneEnd_spec (s := counted) hS).1
    · rfl

/-- An entry's removal moves the zone with the lost count (R34). -/
theorem State.removeEntry_moves (hS : SoundLaw s) (mic : Nat) (fx : Nat → State → State) :
    s.zoning.Moves (s.removeEntry fx mic).zoning := by
  unfold State.removeEntry
  rw [State.selectWarningLamps_zoning]
  exact State.updateLost_moves (s := (s.dropEntry mic).removeWhere (Frame.warnOf mic)) (hS.dropEntry mic) fx

/-- A change of presence moves the zone with the lost count (R23). -/
theorem State.presenceHandOff_moves (hS : SoundLaw s) (mic : Nat) : s.zoning.Moves (s.presenceHandOff mic).zoning := by
  have sound : SoundLaw ((s.presenceRole mic).giveInputs mic) :=
    (((State.Follows.refl Entry.place s).presenceRole mic).giveInputs mic).sound hS
  have moves := State.updateLost_moves sound State.entryFault
  rw [State.giveInputs_zoning, State.presenceRole_zoning] at moves
  unfold State.presenceHandOff
  rw [State.selectWarningLamps_zoning, State.selectCue_zoning]
  exact moves

theorem State.becomeSilent_moves (hS : SoundLaw s) (mic : Nat) : s.zoning.Moves (s.becomeSilent mic).zoning :=
  State.presenceHandOff_moves (hS.modEntry mic _) mic

end

/-- Settles O28: an update of the lost count brings the zone into force, ends it or does neither, and the two expiries move it by such
an update. -/
theorem zoneComesAndGoes : Obligations.ZoneComesAndGoes := by
  unfold Obligations.ZoneComesAndGoes
  refine ⟨fun s hT hS => ?_, fun s mic e hT hS he => ?_⟩
  · intro n thr t sends told
    let counted : State := { s with lostCount := n }
    have handed : s.Told t := State.updateLost_told State.entryFault hS
    obtain ⟨-, hstation, -, -, hsource, -⟩ := handed.keep
    have hcount : t.lostCount = n := (State.updateLost_lostCount hS).trans handed.lostOf
    refine ⟨fun hz hbelow hreached => ?_, fun hz hfell hexit => ?_, fun hin hout => ?_⟩
    · have ht : t = counted.zoneEnter .count := if_pos ⟨hz, hbelow, hreached⟩
      obtain ⟨hzone, hrepeat, hqueue⟩ := State.zoneEnter_spec .count counted
      have hattn := State.zoneEnter_attn .count counted
      rw [← ht] at hzone hrepeat hqueue hattn
      refine ⟨⟨handed.only, handed.view, hzone, hcount, fun h => ?_⟩, hrepeat, fun hst => ?_, hqueue⟩
      · rw [ht]
        exact State.zoneEnter_stations (s := counted) (StationState.sendsStation_iff.mpr h) .count
      · rw [hattn, State.attnValue_iff, hstation, hzone]
        exact ⟨hst, .inr (.inr (.inl (by simp)))⟩
    · have ht : t = counted.zoneEnd State.entryFault :=
        (if_neg fun h => by rw [hz] at h; cases h.1).trans (if_pos ⟨hz, hfell, hexit⟩)
      obtain ⟨hzone, -⟩ := State.zoneEnd_spec (s := counted) (fx := State.entryFault) hS
      obtain ⟨hrepeat, hstations⟩ := State.zoneEnd_reports (s := counted) (fx := State.entryFault) hS
      have hattn := State.zoneEnd_attn State.entryFault counted
      rw [← ht] at hzone hrepeat hstations hattn
      refine ⟨⟨handed.only, handed.view, hzone, hcount, fun h => hstations (StationState.sendsStation_iff.mpr h)⟩, hrepeat,
        fun hst => ?_, fun hrun hroom x hx hrole hlevel hchamber => ?_⟩
      · rw [hattn, State.attnValue_iff, hstation, hzone, hsource]
        simp [hst]
      · obtain ⟨hqueued, htimer⟩ := State.zoneEnd_announces (s := counted) (fx := State.entryFault)
          ⟨hT.ascending, hT.atMost96, hT.seats, hT.queuedSeats⟩ hS hrun hroom hx hrole hlevel hchamber
        rw [← ht] at hqueued htimer
        exact ⟨⟨_, hqueued, rfl⟩, htimer⟩
    · exact (if_neg hin).trans (if_neg hout)
  · intro moves
    refine ⟨fun hdue hclaims => ⟨s.becomeSilent mic, ?_, State.becomeSilent_moves hS mic⟩, fun hdue hcovered =>
      ⟨s.removeEntry State.entryFault mic, ?_, State.removeEntry_moves hS mic _⟩⟩
    · exact congrArg _ ((State.expiry_due hS he hdue _).trans (if_pos hclaims))
    · exact congrArg _ ((State.expiry_due hS he hdue _).trans (if_pos hcovered))

end Sys2Proof.Machine
end

section
/-! The claim list (R109, R110): the order of claims, and what entering one does. -/

namespace Sys2Proof.Machine

/-! ## The order of claims (R109) -/

theorem Claim.before_iff {p : Params} {a b : Claim} :
    a.before p b = true ↔ b.score p < a.score p ∨ a.score p = b.score p ∧ a.station < b.station := by
  simp [Claim.before]

theorem Claim.before_trans {p : Params} {a b c : Claim} (hab : a.before p b = true) (hbc : b.before p c = true) :
    a.before p c = true := by
  rw [Claim.before_iff] at *
  omega

/-- Of two claims of distinct stations the one that does not sort first sorts second. -/
theorem Claim.before_of_not {p : Params} {a b : Claim} (hne : b.station ≠ a.station) (h : ¬a.before p b = true) :
    b.before p a = true := by
  rw [Claim.before_iff] at *
  omega

theorem Claim.before_asymm {p : Params} {a b : Claim} (h : a.before p b = true) : ¬b.before p a = true := by
  rw [Claim.before_iff] at *
  omega

/-- A list in the order of R109, of distinct stations. -/
def ClaimsOrdered (p : Params) (l : List Claim) : Prop :=
  l.Pairwise fun x y => x.before p y = true ∧ x.station ≠ y.station

/-- A claim of a station that the list does not hold is inserted in order. -/
theorem ClaimsOrdered.insert {p : Params} {c : Claim} {l : List Claim} (h : ClaimsOrdered p l)
    (hc : ∀ x ∈ l, x.station ≠ c.station) : ClaimsOrdered p (insertClaim p c l) := by
  induction l with
  | nil => simp [insertClaim, ClaimsOrdered]
  | cons x rest ih =>
    obtain ⟨hx, hrest⟩ := List.pairwise_cons.mp h
    have hxc : x.station ≠ c.station := hc x (by simp)
    simp only [insertClaim]
    split
    · rename_i hcx
      refine List.pairwise_cons.mpr ⟨fun y hy => ?_, h⟩
      rcases List.mem_cons.mp hy with rfl | hy
      · exact ⟨hcx, hxc.symm⟩
      · exact ⟨Claim.before_trans hcx (hx y hy).1, (hc y (by simp [hy])).symm⟩
    · rename_i hcx
      refine List.pairwise_cons.mpr ⟨fun y hy => ?_, ih hrest fun y hy => hc y (by simp [hy])⟩
      rcases mem_insertClaim.mp hy with rfl | hy
      · exact ⟨Claim.before_of_not hxc hcx, hxc⟩
      · exact hx y hy

/-! ## Entering a claim (R110) -/

theorem mem_withoutStation {n : Nat} {x : Claim} {l : List Claim} : x ∈ withoutStation n l ↔ x ∈ l ∧ x.station ≠ n := by
  simp [withoutStation]

/-- The cases of R110: the claim of its own station is replaced, a free place is taken, the last claim gives way, or the new claim
sorts behind the last. -/
theorem enterClaim_cases (p : Params) (c : Claim) (l : List Claim) :
    ((∃ x ∈ l, x.station = c.station) ∧ enterClaim p c l = some (insertClaim p c (withoutStation c.station l))) ∨
    ((∀ x ∈ l, x.station ≠ c.station) ∧
      ((l.length < claimMax ∧ enterClaim p c l = some (insertClaim p c l)) ∨
        claimMax ≤ l.length ∧ ∃ kept last, l = kept ++ [last] ∧
          (c.before p last = true ∧ enterClaim p c l = some (insertClaim p c kept) ∨
            ¬c.before p last = true ∧ enterClaim p c l = none))) := by
  unfold enterClaim
  by_cases hany : ∃ x ∈ l, x.station = c.station
  · exact .inl ⟨hany, if_pos (by simpa using hany)⟩
  · have hnone : ∀ x ∈ l, x.station ≠ c.station := fun x hx h => hany ⟨x, hx, h⟩
    refine .inr ⟨hnone, ?_⟩
    rw [if_neg (by simpa using hnone)]
    by_cases hlen : l.length < claimMax
    · exact .inl ⟨hlen, if_pos hlen⟩
    · have hne : l ≠ [] := by
        rintro rfl
        exact hlen (by decide)
      refine .inr ⟨by omega, l.dropLast, l.getLast hne, (List.dropLast_append_getLast hne).symm, ?_⟩
      rw [if_neg hlen, List.getLast?_eq_getLast_of_ne_nil hne]
      by_cases hb : c.before p (l.getLast hne) = true
      · exact .inl ⟨hb, if_pos hb⟩
      · exact .inr ⟨hb, if_neg hb⟩

/-- In an ordered list a claim that sorts behind the last sorts behind all. -/
theorem ClaimsOrdered.all_before {p : Params} {c last : Claim} {kept : List Claim} (h : ClaimsOrdered p (kept ++ [last]))
    (hlast : last.before p c = true) : ∀ x ∈ kept ++ [last], x.before p c = true := by
  obtain ⟨-, -, hkept⟩ := List.pairwise_append.mp h
  intro x hx
  rcases List.mem_append.mp hx with hx | hx
  · exact Claim.before_trans (hkept x hx last (by simp)).1 hlast
  · rwa [List.mem_singleton.mp hx]

/-- A claim finds no place exactly in a full list all of which sorts before it. -/
theorem enterClaim_none_iff {p : Params} {c : Claim} {l : List Claim} (h : ClaimsOrdered p l) (hlen : l.length ≤ claimMax) :
    enterClaim p c l = none ↔ l.length = claimMax ∧ ∀ x ∈ l, x.before p c = true ∧ x.station ≠ c.station := by
  rcases enterClaim_cases p c l with
    ⟨⟨x, hx, hst⟩, hr⟩ | ⟨hnone, ⟨hroom, hr⟩ | ⟨hfull, kept, last, rfl, ⟨hb, hr⟩ | ⟨hb, hr⟩⟩⟩ <;> rw [hr]
  · exact ⟨fun h => absurd h (by simp), fun ⟨_, hall⟩ => absurd hst (hall x hx).2⟩
  · exact ⟨fun h => absurd h (by simp), fun ⟨hl, _⟩ => absurd hl (by omega)⟩
  · exact ⟨fun h => absurd h (by simp), fun ⟨_, hall⟩ => absurd hb (Claim.before_asymm (hall last (by simp)).1)⟩
  · have hbehind := h.all_before (Claim.before_of_not (hnone last (by simp)) hb)
    exact ⟨fun _ => ⟨Nat.le_antisymm hlen hfull, fun x hx => ⟨hbehind x hx, hnone x hx⟩⟩, fun _ => rfl⟩

/-- A claim that is entered leaves the list ordered. -/
theorem ClaimsOrdered.enter {p : Params} {c : Claim} {l m : List Claim} (h : ClaimsOrdered p l) (hm : enterClaim p c l = some m) :
    ClaimsOrdered p m := by
  rcases enterClaim_cases p c l with ⟨-, hr⟩ | ⟨hnone, ⟨-, hr⟩ | ⟨-, kept, last, rfl, ⟨-, hr⟩ | ⟨-, hr⟩⟩⟩ <;>
    rw [hr] at hm <;> cases hm
  · exact ClaimsOrdered.insert (h.sublist List.filter_sublist) fun x hx => (mem_withoutStation.mp hx).2
  · exact h.insert hnone
  · exact ClaimsOrdered.insert (h.sublist (List.sublist_append_left _ _)) fun x hx => hnone x (by simp [hx])

/-- The claim that is entered is listed. -/
theorem mem_enterClaim {p : Params} {c : Claim} {l m : List Claim} (hm : enterClaim p c l = some m) : c ∈ m := by
  rcases enterClaim_cases p c l with ⟨-, hr⟩ | ⟨-, ⟨-, hr⟩ | ⟨-, kept, last, -, ⟨-, hr⟩ | ⟨-, hr⟩⟩⟩ <;>
    rw [hr] at hm <;> cases hm <;> exact mem_insertClaim.mpr (.inl rfl)

/-- The claims of other stations stay, but for the last of a full list that does not hold the new claim's station. -/
theorem enterClaim_keeps_others {p : Params} {c x : Claim} {l m : List Claim} (hlen : l.length ≤ claimMax)
    (hm : enterClaim p c l = some m) (hx : x.station ≠ c.station)
    (hin : x ∈ l ∧ ((∃ y ∈ l, y.station = c.station) ∨ l.length < claimMax) ∨ x ∈ l.take 2) : x ∈ m := by
  have hl : x ∈ l := hin.elim And.left List.mem_of_mem_take
  rcases enterClaim_cases p c l with ⟨-, hr⟩ | ⟨hnone, ⟨-, hr⟩ | ⟨hfull, kept, last, rfl, ⟨-, hr⟩ | ⟨-, hr⟩⟩⟩ <;>
    rw [hr] at hm <;> cases hm <;> refine mem_insertClaim.mpr (.inr ?_)
  · exact mem_withoutStation.mpr ⟨hl, hx⟩
  · exact hl
  · rcases hin with ⟨-, ⟨y, hy, hst⟩ | hroom⟩ | htake
    · exact absurd hst (hnone y hy)
    · omega
    · have hkept : kept.length = 2 := by
        have : claimMax = 3 := rfl
        simp only [List.length_append, List.length_singleton] at hlen hfull
        omega
      rwa [List.take_left' hkept] at htake

/-- Settles O31: by the cases of R110, in the order that `Claim.before` decides. -/
theorem claimListRule : Obligations.ClaimListRule := by
  unfold Obligations.ClaimListRule
  intro p c l score first ok hok
  have hfirst : ∀ x y : Claim, first x y ↔ x.before p y = true := fun _ _ => Claim.before_iff.symm
  have hordered : ∀ m : List Claim, ok m ↔ ClaimsOrdered p m ∧ m.length ≤ claimMax := fun m => by
    simp only [ok, hfirst]
    rfl
  obtain ⟨hl, hlen⟩ := (hordered l).mp hok
  refine ⟨?_, fun m hm => ⟨(hordered m).mpr ⟨hl.enter hm, enterClaim_length hlen hm⟩, mem_enterClaim hm,
    fun x hx => mem_of_enterClaim hm hx, fun hroom x hx hst => enterClaim_keeps_others hlen hm hst (.inl ⟨hx, hroom⟩),
    fun x hx hst => enterClaim_keeps_others hlen hm hst (.inr hx)⟩⟩
  simp only [hfirst]
  exact enterClaim_none_iff hl hlen

end Sys2Proof.Machine
end

section
/-! A claim round (R121, R122, R146, R147, R152): its frames, and the room that the queue has for them. -/

namespace Sys2Proof.Machine

/-! ## CLAIM frames join the tail (R142, R147) -/

theorem Frame.cls_le_claim (f : Frame) (round : Nat) (pairs : List Pair) : f.cls ≤ (Frame.claim round pairs).cls := by
  cases f with
  | warn w => exact (Frame.cls_warn_le w).trans (by simp [Frame.cls])
  | _ => simp [Frame.cls]

/-- No frame stands behind a CLAIM frame. -/
theorem placeTx_claim (round n : Nat) (pairs : List Pair) (q : List TxFrame) :
    placeTx ⟨.claim round pairs, n⟩ q = q ++ [⟨.claim round pairs, n⟩] := by
  induction q with
  | nil => rfl
  | cons g rest ih => rw [placeTx, if_pos (.inr (g.frame.cls_le_claim round pairs)), ih, List.cons_append]

/-- A CLAIM frame takes a place with room, and gives way to every other without (R147). -/
theorem State.submitClaims_eq {s : State} (h : s.station = .running) (pairs : List Pair) :
    s.submitClaims pairs = if s.tx.length < txMax then { s with tx := s.tx ++ [⟨.claim s.round pairs, 0⟩] }
      else s.count .framesDropped := by
  have hsends : s.station.sendsAll = true := by rw [h]; rfl
  have hnone : victimFor (Frame.claim s.round pairs).cls s.tx = none :=
    victimFor_none.mpr fun g _ => g.frame.cls_le_claim s.round pairs
  rw [State.submitClaims, State.requestFrame, if_pos hsends]
  unfold State.submit
  rw [hnone, placeTx_claim]
  split <;> rfl

/-- The state with the CLAIM frames of `groups` queued as far as there is room, and the rest dropped and counted. -/
def State.withClaims (groups : List (List Pair)) (s : State) : State :=
  let room := txMax - s.tx.length
  { s with
    tx := s.tx ++ (groups.take room).map fun g => ⟨.claim s.round g, 0⟩
    counters := { s.counters with
      framesDropped := if groups.length ≤ room then s.counters.framesDropped
        else min satMax (s.counters.framesDropped + (groups.length - room)) } }

theorem State.withClaims_nil (s : State) : s.withClaims [] = s := by
  simp [State.withClaims]

/-- One frame more. -/
theorem State.withClaims_submit {s : State} (h : s.station = .running) (groups : List (List Pair)) (g : List Pair) :
    (s.withClaims groups).submitClaims g = s.withClaims (groups ++ [g]) := by
  rw [State.submitClaims_eq (s := s.withClaims groups) h]
  have hlen : (s.withClaims groups).tx.length = s.tx.length + min (txMax - s.tx.length) groups.length := by
    simp [State.withClaims]
  by_cases hroom : groups.length < txMax - s.tx.length
  · have htake : ∀ l : List (List Pair), l.length ≤ groups.length + 1 → l.take (txMax - s.tx.length) = l :=
      fun l hl => List.take_of_length_le (by omega)
    rw [if_pos (by omega)]
    simp only [State.withClaims, htake groups (by omega), htake (groups ++ [g]) (by simp), List.length_append,
      List.length_singleton, if_pos (show groups.length ≤ txMax - s.tx.length by omega),
      if_pos (show groups.length + 1 ≤ txMax - s.tx.length by omega), List.map_append, List.append_assoc]
    rfl
  · have htake : (groups ++ [g]).take (txMax - s.tx.length) = groups.take (txMax - s.tx.length) :=
      List.take_append_of_le_length (by omega)
    have hmore : ¬groups.length + 1 ≤ txMax - s.tx.length := by omega
    rw [if_neg (by omega)]
    simp only [State.withClaims, State.count, Counters.bump, satAdd, htake, List.length_append, List.length_singleton, if_neg hmore]
    congr 2
    split <;> omega

/-! ## The visits (R122) -/

/-- The pairs that a round takes from a table. -/
def heardPairs (table : List Entry) : List Pair := (table.filter fun e => decide (e.presence = .heard)).map Entry.pair

/-- Where a round stands that began in `s` and has taken `pairs`: the full frames are submitted, and the open one is not full. -/
def Round.Stands (s : State) (pairs : List Pair) (r : Round) : Prop :=
  ∃ groups, r.state = s.withClaims groups ∧ groups.flatten ++ r.pairs = pairs ∧ (∀ g ∈ groups, g.length = pairMax) ∧
    r.pairs.length < pairMax

/-- A visit to a sound entry takes its pair while it is HEARD. -/
theorem Round.Stands.visit {s : State} {pairs : List Pair} {r : Round} (h : r.Stands s pairs) (hrun : s.station = .running)
    {e : Entry} (he : s.entry? e.mic = some e) (hgood : e.checkGood = true) :
    (r.visit e.mic).Stands s (pairs ++ heardPairs [e]) := by
  obtain ⟨groups, hstate, rfl, hfull, hopen⟩ := h
  have hfound : r.state.entry? e.mic = some e := by rw [hstate]; exact he
  simp only [Round.visit, hfound, hgood, Bool.not_true, Bool.false_eq_true, if_false]
  by_cases hheard : e.presence = .heard
  · have hpair : heardPairs [e] = [e.pair] := by simp [heardPairs, hheard]
    rw [if_neg (by simpa using hheard), hpair]
    split
    · exact ⟨groups, hstate, by simp, hfull, by simpa using ‹r.pairs.length + 1 < pairMax›⟩
    · refine ⟨groups ++ [r.pairs ++ [e.pair]], ?_, by simp, fun g hg => ?_, show 0 < pairMax by decide⟩
      · rw [hstate]
        exact State.withClaims_submit hrun groups _
      · rcases List.mem_append.mp hg with hg | hg
        · exact hfull g hg
        · rw [List.mem_singleton.mp hg, List.length_append, List.length_singleton]
          omega
  · have hpair : heardPairs [e] = [] := by simp [heardPairs, hheard]
    rw [if_pos hheard, hpair, List.append_nil]
    exact ⟨groups, hstate, rfl, hfull, hopen⟩

/-- The visits to a sound table take the pairs of its HEARD entries. -/
theorem Round.visits_stand {s : State} (hT : TableLaw s) (hS : SoundLaw s) (hrun : s.station = .running) :
    (s.mics.foldl Round.visit ⟨s, []⟩).Stands s (heardPairs s.table) := by
  suffices ∀ (rest : List Entry) (r : Round) (pairs : List Pair), (∀ e ∈ rest, e ∈ s.table) → r.Stands s pairs →
      ((rest.map Entry.mic).foldl Round.visit r).Stands s (pairs ++ heardPairs rest) from
    this s.table ⟨s, []⟩ [] (fun _ => id) ⟨[], s.withClaims_nil.symm, rfl, by simp, show 0 < pairMax by decide⟩
  intro rest
  induction rest with
  | nil => exact fun r pairs _ h => by simpa [heardPairs] using h
  | cons e rest ih =>
    intro r pairs hmem h
    have he := hmem e (by simp)
    have hsplit : heardPairs (e :: rest) = heardPairs [e] ++ heardPairs rest := by
      simp only [heardPairs, ← List.map_append, ← List.filter_append, List.singleton_append]
    rw [hsplit, ← List.append_assoc]
    exact ih _ _ (fun x hx => hmem x (by simp [hx])) (h.visit hrun (hT.entry? he) (hS e he))

/-- A round begun: the next number, and the older rounds' frames gone (R146). -/
def State.roundBegun (s : State) : State := ({ s with round := s.round + 1 }).removeWhere (Frame.olderClaim (s.round + 1))

/-- A round of a sound table: the older rounds' frames leave, and the pairs of the HEARD entries go into frames of twenty but the
last (R122, R146). -/
theorem State.makeRound_eq {s : State} (hT : TableLaw s) (hS : SoundLaw s) (hrun : s.station = .running) :
    ∃ groups : List (List Pair), groups.flatten = heardPairs s.table ∧ (∀ g ∈ groups, g ≠ [] ∧ g.length ≤ pairMax) ∧
      (∀ g ∈ groups.dropLast, g.length = pairMax) ∧
      s.makeRound = s.roundBegun.withClaims groups := by
  have begunTable : TableLaw s.roundBegun := ⟨hT.ascending, hT.atMost96, hT.seats, hT.queuedSeats⟩
  have hrun' : s.roundBegun.station = .running := hrun
  let visited := s.roundBegun.mics.foldl Round.visit ⟨s.roundBegun, []⟩
  have hmade : s.makeRound = if visited.pairs = [] then visited.state else visited.state.submitClaims visited.pairs := rfl
  obtain ⟨groups, hstate, hpairs, hfull, hopen⟩ := Round.visits_stand begunTable hS hrun'
  change _ = heardPairs s.table at hpairs
  rw [hmade, hstate]
  change visited.pairs.length < pairMax at hopen
  generalize visited.pairs = last at hpairs hopen
  have hsizes : ∀ g ∈ groups, g ≠ [] ∧ g.length ≤ pairMax := fun g hg =>
    ⟨fun h => absurd (hfull g hg) (by rw [h]; decide), (hfull g hg).le⟩
  split
  · rename_i hnone
    subst hnone
    exact ⟨groups, by simpa using hpairs, hsizes, fun g hg => hfull g (List.mem_of_mem_dropLast hg), rfl⟩
  · rename_i hsome
    refine ⟨groups ++ [last], by simpa using hpairs, fun g hg => ?_, fun g hg => hfull g (by simpa using hg),
      State.withClaims_submit hrun' groups last⟩
    rcases List.mem_append.mp hg with hg | hg
    · exact hsizes g hg
    · rw [List.mem_singleton.mp hg]
      exact ⟨hsome, hopen.le⟩

/-- Settles O33: the round, and its timer restarted in RUNNING. -/
theorem claimRound : Obligations.ClaimRound := by
  unfold Obligations.ClaimRound
  intro s hT hS hrun hdue pairs kept made
  obtain ⟨groups, hflat, hsizes, hfull, hmade⟩ := State.makeRound_eq hT hS hrun
  have hexec : exec .claimRoundTimerExpiry s = .next { made with
      tx := kept ++ (groups.take (16 - kept.length)).map fun g => ⟨.claim (s.round + 1) g, 0⟩
      counters := { s.counters with
        framesDropped := if groups.length ≤ 16 - kept.length then s.counters.framesDropped
          else min 65535 (s.counters.framesDropped + (groups.length - (16 - kept.length))) } } := by
    have hexpiry : s.claimRoundExpiry = if s.makeRound.station = .running then
        { s.makeRound with claimRound := s.makeRound.after s.makeRound.params.claimInterval } else s.makeRound := if_pos hdue
    rw [hmade] at hexpiry
    exact congrArg Host.Outcome.next (hexpiry.trans (if_pos hrun))
  exact ⟨⟨_, hexec, rfl, rfl⟩, groups, hflat, hsizes, hfull, hexec⟩

end Sys2Proof.Machine
end

section
/-! The decision of the reporter role (R113) where a pending timer or a takeover timer expires (R112, R116), and the tellings of an
entry through changes that no WARN frame speaks of. -/

namespace Sys2Proof.Machine

/-! ## Tellings -/

/-- All of an entry that its tellings speak of: its records, its role, and what a WARN frame says of it (R75). -/
def Entry.warnParts (e : Entry) : Nat × Role × Presence × Nat × Option Nat × Record × Record × Record :=
  (e.mic, e.role, e.presence, e.q, e.battery.minutes, e.recBattery, e.recMute, e.recSignal)

theorem Entry.record_of_warnParts {x e : Entry} (h : x.warnParts = e.warnParts) (k : Kind) : x.record k = e.record k := by
  simp only [Entry.warnParts, Prod.mk.injEq] at h
  obtain ⟨-, -, -, -, -, hb, hm, hs⟩ := h
  cases k <;> assumption

theorem composeWarn_of_warnParts {x e : Entry} (h : x.warnParts = e.warnParts) (now : Nat) (k : Kind) (reason : Reason) :
    composeWarn now x k reason = composeWarn now e k reason := by
  have hrecord := Entry.record_of_warnParts h k
  simp only [Entry.warnParts, Prod.mk.injEq] at h
  obtain ⟨hmic, -, hpresence, hq, hminutes, -⟩ := h
  simp only [composeWarn, hrecord, hmic, hpresence, hq, hminutes]

section
variable {s t : State} {mic : Nat} {e x : Entry} {role : Role} {room : Nat}

/-- Entries alike in all that tellings speak of have the same tellings. -/
theorem State.tellings_congr (h : s.tellings t x role room) (hx : x.warnParts = e.warnParts) : s.tellings t e role room := by
  have hrecord := Entry.record_of_warnParts hx
  have hcompose := fun k => composeWarn_of_warnParts hx s.now k .adopt
  have hparts := hx
  simp only [Entry.warnParts, Prod.mk.injEq] at hparts
  obtain ⟨hmic, hrole, -⟩ := hparts
  intro f k hf
  have := h f k (hmic ▸ hf)
  simp only [hrecord, hcompose, hmic, hrole] at this ⊢
  exact this

/-! ## The gain of the role (R117, R76) -/

/-- After a gain of the role, whoever held it, the repeat timers run for the unacknowledged levels, and with room each record that
the chamber holds otherwise is announced. -/
theorem State.gainReporter_spec (he : s.entry? mic = some e) :
    let gained := { e with role := .reporter, takeover := .stopped }
    ∃ f, (s.gainReporter mic).entry? mic = some f ∧ ∀ k,
      (f.record k).repeatTimer = (if (e.record k).level ≠ .none ∧ (e.record k).acked = false then
        .running (s.now + s.params.repeatInterval * 1000) else .stopped) ∧
      (s.station = .running ∨ s.station = .feedDown → (e.record k).unadopted = true → s.holdsBack k (e.record k).level = false →
        s.tx.length + 3 ≤ txMax → ∃ g ∈ (s.gainReporter mic).tx, g.frame = .warn (composeWarn s.now gained k .adopt)) := by
  intro gained
  let first := s.modEntry mic fun e => { e with role := .reporter, takeover := .stopped }
  have hfirst : first.entry? mic = some { gained with checkGood := true } := State.modEntry_found he _ fun _ => rfl
  have hparts : ({ gained with checkGood := true } : Entry).warnParts = gained.warnParts := rfl
  have hrecord : ∀ k, ({ gained with checkGood := true } : Entry).record k = e.record k := fun k => by cases k <;> rfl
  obtain ⟨f, hf, hfe, -, hadopted, -⟩ := State.adoptEach_spec [.battery, .mute, .signal] (by decide) hfirst rfl
  obtain ⟨x, hx, hxk⟩ := State.selectCue_found
    (State.modEntry_found hf (Entry.treatRepeats (s.now + s.params.repeatMs)) fun _ => rfl)
  refine ⟨x, hx, fun k => ⟨?_, fun hsends hun hheld hroom => ?_⟩⟩
  · have hrole : f.role = .reporter := Entry.role_of_untold hfe
    have hsame : (f.record k).untold = (e.record k).untold := by
      rw [← Entry.untold_record, hfe, Entry.untold_record, hrecord]
    have hlevel : (f.record k).level = (e.record k).level := congrArg (fun r => r.level) hsame
    have hacked : (f.record k).acked = (e.record k).acked := congrArg (fun r => r.acked) hsame
    rw [hxk k, Entry.record_checked, Entry.treatRepeats_record]
    simp only [Record.treatRepeat, Record.repeats, hrole, hlevel, hacked, Params.repeatMs]
    by_cases hn : (e.record k).level = .none <;> cases (e.record k).acked <;> simp [hn]
  · obtain ⟨-, -, g, hg, hgw⟩ := (hadopted k (by cases k <;> decide)).told hsends (by rw [hrecord]; exact hun)
      (by rw [hrecord]; exact hheld) hroom
    refine ⟨g, ?_, hgw.trans (congrArg _ (composeWarn_of_warnParts hparts s.now k .adopt))⟩
    rw [State.gainReporter, State.selectCue_tx]
    exact hg

end

/-! ## The decision (R113) -/

theorem reporterWins_iff (p : Params) (number own : Nat) (claims : List Claim) : reporterWins p number own claims = true ↔
    ∀ top rest, claims = top :: rest → top.score p < own ∨ own = top.score p ∧ number < top.station := by
  cases claims with
  | nil => simp [reporterWins]
  | cons top rest => simp [reporterWins]

/-- A record that the chamber holds otherwise, in the words of R117's table. -/
theorem Record.unadopted_iff (r : Record) : r.unadopted = true ↔
    r.level ≠ .none ∧ r.chamber ≠ .told r.level ∨ r.level = .none ∧ ∃ l, l ≠ .none ∧ r.chamber = .told l := by
  have htold : (∃ l, l ≠ .none ∧ r.chamber = .told l) ↔ r.chamber = .told .lower ∨ r.chamber = .told .higher := by
    constructor
    · rintro ⟨l, hl, hc⟩
      cases l
      · exact absurd rfl hl
      · exact .inl hc
      · exact .inr hc
    · rintro (hc | hc)
      · exact ⟨.lower, by decide, hc⟩
      · exact ⟨.higher, by decide, hc⟩
  simp [Record.unadopted, htold]

/-! ## The two expiries (R112, R116) -/

section
variable {s : State} {mic : Nat} {e : Entry}

/-- In a sound table the entry that is changed is found as the change makes it, when that keeps the check word. -/
theorem State.modEntry_found_sound (hS : SoundLaw s) (he : s.entry? mic = some e) {f : Entry → Entry}
    (hmic : ∀ x, (f x).mic = x.mic) (hgood : (f e).checkGood = e.checkGood) : (s.modEntry mic f).entry? mic = some (f e) := by
  rw [State.modEntry_found he f hmic, Entry.checked_eq (hgood.trans (hS e (State.entry?_some he).1))]

/-- The pending timer's expiry of a HEARD entry, while the station is not LISTEN_ONLY. -/
theorem State.pendingExpiry_decides (hT : TableLaw s) (hS : SoundLaw s) (he : s.entry? mic = some e)
    (hdue : e.pendingTimer.isDue s.now = true) (hheard : e.presence = .heard) (hst : s.station ≠ .listenOnly) :
    let t := s.pendingExpiry mic
    let role := (s.roleDecided e.q { e with pendingTimer := .stopped }).role
    s.Changed t mic (s.roleDecided e.q { e with pendingTimer := .stopped }) ∧ s.onlyQueues t ∧ s.tellings t e role := by
  intro t role
  let stopped := s.modEntry mic fun e => { e with pendingTimer := .stopped }
  have hmic : ({ e with pendingTimer := .stopped } : Entry).mic = mic := (State.entry?_some he).2
  have ht : t = stopped.decideRole mic e.q := (State.expiry_due hS he hdue _).trans (if_pos ⟨hheard, hst⟩)
  have changed : s.Changed stopped mic { e with pendingTimer := .stopped } :=
    State.modEntry_changed hT he fun e => { e with pendingTimer := .stopped }
  have hfound : stopped.entry? mic = some { e with pendingTimer := .stopped } :=
    State.modEntry_found_sound hS he (by exact fun _ => rfl) rfl
  rw [ht]
  refine ⟨changed.trans hmic (State.decideRole_changed (changed.table hmic hT) hfound e.q),
    State.onlyQueues.decideRole (s := s) (t := stopped) rfl mic e.q, ?_⟩
  exact State.tellings_congr (State.tellings_earlier (State.decideRole_tellings hfound e.q) rfl) rfl

/-- The takeover timer's expiry while the chamber was not told LOST. -/
theorem State.takeoverExpiry_gains (hT : TableLaw s) (hS : SoundLaw s) (he : s.entry? mic = some e)
    (hdue : e.takeover.isDue s.now = true) (hchamber : e.recSignal.chamber ≠ .told .higher) :
    ∃ stopped : State, s.Changed stopped mic { e with takeover := .stopped } ∧ s.onlyQueues stopped ∧ stopped.tx = s.tx ∧
      stopped.entry? mic = some { e with takeover := .stopped } ∧ s.takeoverExpiry mic = stopped.gainReporter mic := by
  exact ⟨s.modEntry mic fun e => { e with takeover := .stopped },
    State.modEntry_changed hT he fun e => { e with takeover := .stopped }, rfl, rfl,
    State.modEntry_found_sound hS he (by exact fun _ => rfl) rfl, (State.expiry_due hS he hdue _).trans (if_neg hchamber)⟩

end

/-- Settles O32: the decision of R113, and the two expiries that come to it or to a gain of the role. -/
theorem pendingAndTakeover : Obligations.PendingAndTakeover := by
  unfold Obligations.PendingAndTakeover
  refine ⟨reporterWins_iff, fun s mic e hT hS he => ?_⟩
  intro with_ repeats
  have exact_ : ∀ (f : Entry → Entry), (f e).checkGood = e.checkGood → s.modEntry mic f = with_ (f e) := fun f hf =>
    State.modEntry_exact hT hS he rfl hf
  refine ⟨fun hdue => ⟨fun hidle => ?_, fun hheard hst => ⟨_, rfl, ?_⟩⟩, fun hdue => ⟨fun htold => ?_, fun htold => ?_⟩⟩
  · refine congrArg Host.Outcome.next ((State.expiry_due hS he hdue _).trans ((if_neg fun ⟨hheard, hst⟩ => ?_).trans (exact_ _ rfl)))
    exact hidle.elim (· hheard) hst
  · obtain ⟨changed, queues, tellings⟩ := State.pendingExpiry_decides hT hS he hdue hheard hst
    obtain ⟨hzone, hlost, -⟩ := queues.keep
    refine ⟨changed.only, hlost, hzone, changed.view, tellings, fun hrole hwins f k hf => ?_⟩
    have hgains : (s.roleDecided e.q { e with pendingTimer := .stopped }).role = .reporter := by
      rw [State.roleDecided, if_pos hwins, if_neg hrole, State.recued_role]
    exact ((tellings f k ((State.entry?_some he).2 ▸ hf)).2.2 hrole hgains).1
  · exact congrArg Host.Outcome.next ((State.expiry_due hS he hdue _).trans ((if_pos htold).trans (exact_ _ rfl)))
  · obtain ⟨stopped, changed, queues, htx, hfound, hgained⟩ := State.takeoverExpiry_gains hT hS he hdue htold
    have hmic : ({ e with takeover := .stopped } : Entry).mic = mic := (State.entry?_some he).2
    obtain ⟨f, hf, hfk⟩ := State.gainReporter_spec hfound
    have gained := changed.trans hmic (State.gainReporter_changed (changed.table hmic hT) hfound)
    rw [changed.recued_eq] at gained
    obtain ⟨hzone, hlost, hst, hnow, hparams, -⟩ := queues.keep
    have hrecord : ∀ k, ({ e with takeover := .stopped } : Entry).record k = e.record k := fun k => by cases k <;> rfl
    intro reporter
    refine ⟨s.takeoverExpiry mic, rfl, ?_⟩
    rw [hgained]
    refine ⟨gained.only, ?_, ?_, gained.view, fun y k hy => ?_, fun hsends hquiet hroom k hun => ?_⟩
    · exact (congrArg Zoning.count (stopped.gainReporter_zoning mic)).trans hlost
    · exact (congrArg Zoning.zone (stopped.gainReporter_zoning mic)).trans hzone
    · obtain rfl := Option.some.inj (hf.symm.trans hy)
      have := (hfk k).1
      rwa [hrecord, hnow, hparams] at this
    · have hheld : stopped.holdsBack k (e.record k).level = false := by simp [State.holdsBack, hzone, hquiet]
      have := (hfk k).2 (by rwa [hst]) (by rw [hrecord]; exact (Record.unadopted_iff _).mpr hun) (by rwa [hrecord])
        (by rwa [htx])
      rwa [hnow] at this

end Sys2Proof.Machine
end

section
/-! A changed claim list handed on (R110): the role of a HEARD entry, and the presence of one that is not (R25, R26, R27). -/

namespace Sys2Proof.Machine

/-! ## Presence and role through hand-offs -/

theorem Entry.presence_of_untold {x e : Entry} (h : x.untold = e.untold) : x.presence = e.presence :=
  show x.untold.presence = e.untold.presence from congrArg _ h

section
variable {s t : State} {mic : Nat} {e : Entry}

/-- All of a state that what an entry becomes is read from. -/
def State.conditions (s : State) : Nat × StationState × Params × Nat × FloorKnowledge × List Slot :=
  (s.now, s.station, s.params, s.number, s.floor, s.roster)

/-- Hand-offs leave it. -/
theorem State.conditions_of_onlyHandOffs (h : s.onlyHandOffs t) : t.conditions = s.conditions := by
  unfold State.onlyHandOffs at h
  rw [h]
  rfl

theorem State.roleComputed_of_conditions (h : t.conditions = s.conditions) : t.roleComputed = s.roleComputed := by
  simp only [State.conditions, Prod.mk.injEq] at h
  obtain ⟨hnow, hst, hparams, hnumber, -, -⟩ := h
  funext e
  simp only [State.roleComputed, State.roleDecided, State.recued, hnow, hst, hparams, hnumber]

theorem State.silenced_of_conditions (h : t.conditions = s.conditions) : t.silenced = s.silenced := by
  simp only [State.conditions, Prod.mk.injEq] at h
  obtain ⟨hnow, hst, hparams, -, hfloor, -⟩ := h
  funext e
  simp only [State.silenced, State.stepped, hnow, hst, hparams, hfloor]

theorem State.covered_of_conditions (h : t.conditions = s.conditions) : t.covered = s.covered := by
  simp only [State.conditions, Prod.mk.injEq] at h
  obtain ⟨hnow, hst, hparams, -, hfloor, -⟩ := h
  funext e
  simp only [State.covered, State.stepped, hnow, hst, hparams, hfloor]

theorem State.silenced_keeps (s : State) (e : Entry) : (s.silenced e).mic = e.mic ∧ (s.silenced e).presence = .silent := by
  obtain ⟨hmic, hpresence, -⟩ := s.fallenSilent_keeps e
  exact ⟨hmic, hpresence⟩

/-- No role is computed where no HEARD entry is found (R113). -/
theorem State.computeRole_idle (h : ∀ x, s.entry? mic = some x → x.presence ≠ .heard) : s.computeRole mic = s := by
  unfold State.computeRole
  split
  · rfl
  · exact if_neg fun hc => h _ ‹_› hc.1

/-- No role is computed after a change that does not leave the entry HEARD. -/
theorem State.Changed.computeRole_idle (h : s.Changed t mic e) (hm : e.mic = mic) (hs : (s.entry? mic).isSome)
    (hp : e.presence ≠ .heard) : t.computeRole mic = t := by
  obtain ⟨x, hx, hxe⟩ := h.found hm hs
  refine State.computeRole_idle fun y hy => ?_
  obtain rfl := Option.some.inj (hx.symm.trans hy)
  rwa [Entry.presence_of_untold hxe]

/-- WARN frames are queued for reported entries still, where a change leaves the mic ID and the role. -/
theorem WarnLaw.modEntry (h : WarnLaw s) (mic : Nat) {f : Entry → Entry} (hmic : ∀ x, (f x).mic = x.mic)
    (hrole : ∀ x, (f x).role = x.role) : WarnLaw (s.modEntry mic f) := by
  refine ⟨h.one, fun g hg w hw => ?_⟩
  obtain ⟨x, hx, hxr⟩ := h.reported g hg w hw
  refine ⟨if w.mic = mic then { f x with checkGood := true } else x, ?_, ?_⟩
  · rw [State.entry?_modEntry _ _ _ _ hmic, hx]
    rfl
  · split
    · exact (hrole x).trans hxr
    · exact hxr

/-! ## Becoming COVERED and SILENT as changes of one entry -/

theorem State.becomeSilent_changed (hT : TableLaw s) (hS : SoundLaw s) (he : s.entry? mic = some e) :
    s.Changed (s.becomeSilent mic) mic (s.silenced e) := by
  obtain ⟨only, -, view, -⟩ := State.becomeSilent_spec hT hS he
  exact ⟨only, view, (State.becomeSilent_claims mic s).sound⟩

theorem State.becomeCovered_changed (hT : TableLaw s) (hS : SoundLaw s) (he : s.entry? mic = some e) (hf : e.forget ≠ .expired) :
    s.Changed (s.becomeCovered mic) mic (s.covered e) := by
  obtain ⟨only, -, view, -⟩ := State.becomeCovered_spec hT hS he hf
  exact ⟨only, view, (State.becomeCovered_claims mic s).sound⟩

/-- An entry whose forget timer has expired is removed as it becomes COVERED (R27). -/
theorem State.becomeCovered_removes (hS : SoundLaw s) (he : s.entry? mic = some e) (hf : e.forget = .expired) :
    let t := s.becomeCovered mic
    s.onlyHandOffs t ∧ t.entry? mic = none ∧ t.view = (s.table.filter fun x => x.mic ≠ mic).map Entry.untold ∧
      t.lostCount = lostOf t.table ∧ ∀ f ∈ t.tx, f.frame.warnOf mic = false := by
  have ht : s.becomeCovered mic = (s.modEntry mic Entry.moveCovered).removeEntry State.entryFault mic := by
    simp only [State.becomeCovered, he, if_pos hf]
    rfl
  have moved : SoundLaw (s.modEntry mic Entry.moveCovered) := hS.modEntry mic _
  have hfilter := State.modEntry_filter mic (f := Entry.moveCovered) (fun _ => rfl) s
  obtain ⟨only, gone, view, queue⟩ := State.removeEntry_leaves moved mic
  rw [ht]
  exact ⟨only, gone, by rw [view, hfilter], State.removeEntry_lostCount moved mic _, queue⟩

/-! ## The claim list changed to `l` -/

/-- The claim list of an entry set, and the change handed on (R110). -/
def State.setClaims (mic : Nat) (l : List Claim) (s : State) : State :=
  (s.modEntry mic fun e => { e with claims := l }).claimsChanged mic

/-- The entry found in the state that hands the change on. -/
theorem State.claimsSet_found (hS : SoundLaw s) (he : s.entry? mic = some e) (l : List Claim) :
    (s.modEntry mic fun e => { e with claims := l }).entry? mic = some { e with claims := l } :=
  State.modEntry_found_sound hS he (by exact fun _ => rfl) rfl

theorem State.claimsSet_changed (hT : TableLaw s) (he : s.entry? mic = some e) (l : List Claim) :
    s.Changed (s.modEntry mic fun e => { e with claims := l }) mic { e with claims := l } :=
  State.modEntry_changed hT he fun e => { e with claims := l }

/-- An entry that its new list does not move: the role is computed, and no zone state moves. -/
theorem State.setClaims_stays (hT : TableLaw s) (hS : SoundLaw s) (he : s.entry? mic = some e) {l : List Claim}
    (hsilent : e.presence = .silent → l = []) (hcovered : e.presence = .covered → l ≠ []) : let t := s.setClaims mic l
    t = (s.modEntry mic fun e => { e with claims := l }).computeRole mic ∧
      s.Changed t mic (s.roleComputed { e with claims := l }) ∧ s.onlyQueues t ∧
      s.tellings t e (s.roleComputed { e with claims := l }).role := by
  intro t
  have hfound := State.claimsSet_found hS he l
  have changed := State.claimsSet_changed hT he l
  have ht : t = (s.modEntry mic fun e => { e with claims := l }).computeRole mic := by
    show State.claimsChanged mic _ = _
    simp only [State.claimsChanged, hfound]
    rw [if_neg fun h => h.2 (hsilent h.1), if_neg fun h => hcovered h.1 h.2]
  refine ⟨ht, ?_⟩
  rw [ht]
  refine ⟨changed.computeRole (State.entry?_some he).2 (by simp [he]) hT, ((State.onlyQueues.refl s).modEntry mic _).computeRole mic, ?_⟩
  exact State.tellings_congr (State.tellings_earlier (State.computeRole_tellings hfound) rfl) rfl

/-- A COVERED entry left without a claim becomes SILENT (R25). -/
theorem State.setClaims_silences (hT : TableLaw s) (hS : SoundLaw s) (he : s.entry? mic = some e) (hp : e.presence = .covered) :
    let t := s.setClaims mic []
    s.Changed t mic (s.silenced { e with claims := [] }) ∧ t.lostCount = lostOf t.table ∧
      (t.zone = s.zone → s.tellings t e (s.silenced { e with claims := [] }).role) := by
  intro t
  let u := s.modEntry mic fun e => { e with claims := [] }
  have hfound := State.claimsSet_found hS he []
  have changed := State.claimsSet_changed hT he []
  have hmic : ({ e with claims := [] } : Entry).mic = mic := (State.entry?_some he).2
  have uTable := changed.table hmic hT
  obtain ⟨-, hcount, -, htell⟩ := State.becomeSilent_spec uTable (changed.sound hS) hfound
  have silenced := State.becomeSilent_changed uTable (changed.sound hS) hfound
  obtain ⟨hsmic, hspresence⟩ := u.silenced_keeps { e with claims := [] }
  have ht : t = u.becomeSilent mic := by
    show State.claimsChanged mic u = _
    simp only [State.claimsChanged, u, hfound]
    rw [if_neg fun h => h.2 rfl, if_pos ⟨hp, trivial⟩]
    exact silenced.computeRole_idle (hsmic.trans hmic) (by rw [hfound]; rfl) (by rw [hspresence]; decide)
  rw [ht]
  exact ⟨changed.trans hmic silenced, hcount, fun hz => State.tellings_congr (State.tellings_earlier (htell hz) rfl) rfl⟩

/-- A SILENT entry that a claim is listed of becomes COVERED (R26), or is removed with its forget timer expired (R27). -/
theorem State.setClaims_covers (hS : SoundLaw s) (he : s.entry? mic = some e) (hp : e.presence = .silent) {l : List Claim}
    (hl : l ≠ []) : s.setClaims mic l = ((s.modEntry mic fun e => { e with claims := l }).becomeCovered mic).computeRole mic := by
  simp only [State.setClaims, State.claimsChanged, State.claimsSet_found hS he l]
  rw [if_pos ⟨hp, hl⟩]

theorem State.setClaims_covered (hT : TableLaw s) (hS : SoundLaw s) (he : s.entry? mic = some e) (hp : e.presence = .silent)
    {l : List Claim} (hl : l ≠ []) (hf : e.forget ≠ .expired) : let t := s.setClaims mic l
    s.Changed t mic (s.covered { e with claims := l }) ∧ t.lostCount = lostOf t.table ∧
      (t.zone = s.zone ∨ WarnLaw s → s.tellings t e .follower) := by
  intro t
  let u := s.modEntry mic fun e => { e with claims := l }
  have hfound := State.claimsSet_found hS he l
  have changed := State.claimsSet_changed hT he l
  have hmic : ({ e with claims := l } : Entry).mic = mic := (State.entry?_some he).2
  have uTable := changed.table hmic hT
  obtain ⟨-, hcount, -, htell⟩ := State.becomeCovered_spec uTable (changed.sound hS) hfound hf
  have covered := State.becomeCovered_changed uTable (changed.sound hS) hfound hf
  have ht : t = u.becomeCovered mic :=
    (State.setClaims_covers hS he hp hl).trans (covered.computeRole_idle hmic (by rw [hfound]; rfl)
      (show Presence.covered ≠ .heard by decide))
  rw [ht]
  refine ⟨changed.trans hmic covered, hcount, fun hcase => ?_⟩
  exact State.tellings_congr (State.tellings_earlier (htell (hcase.imp_right fun h => h.modEntry mic (fun _ => rfl) fun _ => rfl)) rfl)
    rfl

theorem State.setClaims_removes (hS : SoundLaw s) (he : s.entry? mic = some e) (hp : e.presence = .silent)
    {l : List Claim} (hl : l ≠ []) (hf : e.forget = .expired) : let t := s.setClaims mic l
    s.onlyHandOffs t ∧ t.entry? mic = none ∧ t.view = (s.table.filter fun x => x.mic ≠ mic).map Entry.untold ∧
      t.lostCount = lostOf t.table ∧ ∀ f ∈ t.tx, f.frame.warnOf mic = false := by
  intro t
  let u := s.modEntry mic fun e => { e with claims := l }
  have uSound : SoundLaw u := hS.modEntry mic _
  obtain ⟨only, gone, view, hcount, queue⟩ := State.becomeCovered_removes uSound (State.claimsSet_found hS he l) hf
  have ht : t = u.becomeCovered mic :=
    (State.setClaims_covers hS he hp hl).trans (State.computeRole_idle fun x hx => absurd (gone.symm.trans hx) (by simp))
  have hfilter : u.table.filter (fun x => x.mic ≠ mic) = s.table.filter fun x => x.mic ≠ mic :=
    State.modEntry_filter mic (by exact fun _ => rfl) s
  rw [ht]
  exact ⟨only, gone, by rw [view, hfilter], hcount, queue⟩

end

end Sys2Proof.Machine
end

section
/-! CLAIM_TAKEN (R108 to R110): one claim as a change of its entry, and the pairs of a frame in turn. -/

namespace Sys2Proof.Machine

/-! ## What a claim makes of an entry -/

section
variable {s t : State} {source : Nat} {e : Entry} {p : Pair}

/-- The cases of a claim for an entry: it is not entered, or it is, and the entry stays, becomes COVERED or is removed. -/
theorem State.claimedBy_cases (hp : p.mic = e.mic) :
    ((source = 0 ∨ s.hasPeer source = false ∨ enterClaim s.params ⟨source, p.q, p.reporter, s.now⟩ e.claims = none) ∧
      s.claimedBy source e p = some e) ∨
    source ≠ 0 ∧ s.hasPeer source = true ∧ ∃ l, enterClaim s.params ⟨source, p.q, p.reporter, s.now⟩ e.claims = some l ∧
      ((e.presence = .silent ∧ e.forget = .expired ∧ s.claimedBy source e p = none) ∨
        (e.presence = .silent ∧ e.forget ≠ .expired ∧ s.claimedBy source e p = some (s.covered { e with claims := l })) ∨
        (e.presence ≠ .silent ∧ s.claimedBy source e p = some (s.roleComputed { e with claims := l }))) := by
  unfold State.claimedBy
  by_cases hout : source = 0 ∨ s.hasPeer source = false
  · exact .inl ⟨hout.imp_right .inl, if_pos (.inr hout)⟩
  · rw [if_neg fun h => h.elim (· hp) hout]
    push Not at hout
    obtain ⟨hsource, hpeer⟩ := hout
    cases hl : enterClaim s.params ⟨source, p.q, p.reporter, s.now⟩ e.claims with
    | none => exact .inl ⟨.inr (.inr rfl), rfl⟩
    | some l =>
      refine .inr ⟨hsource, by simpa using hpeer, l, rfl, ?_⟩
      dsimp only
      by_cases hsilent : e.presence = .silent
      · by_cases hf : e.forget = .expired
        · exact .inl ⟨hsilent, hf, by rw [if_pos hsilent, if_pos hf]⟩
        · exact .inr (.inl ⟨hsilent, hf, by rw [if_pos hsilent, if_neg hf]⟩)
      · exact .inr (.inr ⟨hsilent, if_neg hsilent⟩)

/-- A claim for another microphone. -/
theorem State.claimedBy_other (h : p.mic ≠ e.mic) : s.claimedBy source e p = some e := if_pos (.inl h)

theorem State.claimedBy_of_conditions (h : t.conditions = s.conditions) : t.claimedBy = s.claimedBy := by
  have hrole := State.roleComputed_of_conditions h
  have hcovered := State.covered_of_conditions h
  simp only [State.conditions, Prod.mk.injEq] at h
  obtain ⟨hnow, -, hparams, -, -, hroster⟩ := h
  funext source e p
  simp only [State.claimedBy, State.hasPeer, State.slot, hnow, hparams, hroster, hrole, hcovered]
  rfl

theorem State.claimedByAll_of_conditions (h : t.conditions = s.conditions) : t.claimedByAll = s.claimedByAll := by
  funext source pairs
  induction pairs with
  | nil => rfl
  | cons p rest ih =>
    funext e
    simp only [State.claimedByAll, State.claimedBy_of_conditions h, ih]

theorem State.covered_unheeding (s : State) : Entry.Unheeding s.covered := fun e => by
  have uncued : Entry.Unheeding fun x => { x with cue := 0, cueRefresh := .stopped } := fun _ => rfl
  exact uncued.congr (s.stepped_unheeding.congr rfl)

/-- Entries alike but for what the chamber was told become alike by a claim. -/
theorem State.claimedBy_congr {x : Entry} (h : x.untold = e.untold) :
    (s.claimedBy source x p).map Entry.untold = (s.claimedBy source e p).map Entry.untold := by
  have one : ∀ y : Entry, (s.claimedBy source y.untold p).map Entry.untold = (s.claimedBy source y p).map Entry.untold := fun y => by
    have hcovered : ∀ l, (s.covered { y.untold with claims := l }).untold = (s.covered { y with claims := l }).untold :=
      fun _ => s.covered_unheeding.congr rfl
    have hrole : ∀ l, (s.roleComputed { y.untold with claims := l }).untold = (s.roleComputed { y with claims := l }).untold :=
      fun _ => s.roleComputed_unheeding.congr rfl
    have hmic : y.untold.mic = y.mic := rfl
    have hclaims : y.untold.claims = y.claims := rfl
    have hpresence : y.untold.presence = y.presence := rfl
    have hforget : y.untold.forget = y.forget := rfl
    simp only [State.claimedBy, hmic, hclaims, hpresence, hforget]
    split
    · rfl
    · split
      · rfl
      · split
        · split
          · rfl
          · exact congrArg some (hcovered _)
        · exact congrArg some (hrole _)
  rw [← one x, h, one e]

theorem State.claimedByAll_congr {pairs : List Pair} {x : Entry} (h : x.untold = e.untold) :
    (s.claimedByAll source pairs x).map Entry.untold = (s.claimedByAll source pairs e).map Entry.untold := by
  induction pairs generalizing x e with
  | nil => exact congrArg some h
  | cons p rest ih =>
    have hp := State.claimedBy_congr (s := s) (source := source) (p := p) h
    simp only [State.claimedByAll]
    cases hx : s.claimedBy source x p <;> cases he : s.claimedBy source e p <;> rw [hx, he] at hp
    · cases hp
    · cases hp
    · exact ih (Option.some.inj hp)

end

/-! ## One claim taken (R108) -/

section
variable {s : State} {mic : Nat} {e : Entry}

theorem State.enterClaimFor_dropped {c : Claim} (he : s.entry? mic = some e) (h : enterClaim s.params c e.claims = none) :
    s.enterClaimFor mic c = s := by
  simp [State.enterClaimFor, he, h]

theorem State.enterClaimFor_entered {c : Claim} {l : List Claim} (he : s.entry? mic = some e) (hpeer : s.hasPeer c.station = true)
    (h : enterClaim s.params c e.claims = some l) : s.enterClaimFor mic c = s.setClaims mic l := by
  simp only [State.enterClaimFor, he, hpeer, if_true, h]
  rfl

/-- A list that a claim was entered in is not empty. -/
theorem enterClaim_ne_nil {p : Params} {c : Claim} {l m : List Claim} (h : enterClaim p c l = some m) : m ≠ [] :=
  List.ne_nil_of_mem (mem_enterClaim h)

/-- What a removal leaves: the others' view, no entry and no WARN of the microphone, and the lost count right. -/
structure State.Removed (s t : State) (mic : Nat) : Prop where
  only : s.onlyHandOffs t
  gone : t.entry? mic = none
  view : t.view = (s.table.filter fun x => x.mic ≠ mic).map Entry.untold
  counted : t.lostCount = lostOf t.table
  queue : ∀ f ∈ t.tx, f.frame.warnOf mic = false

/-- A claim of another station for an entry: it becomes what `State.claimedBy` says, or it is removed. -/
theorem State.enterClaimFor_spec (hT : TableLaw s) (hS : SoundLaw s) (he : s.entry? mic = some e) {source : Nat}
    (hsource : source ≠ 0) {p : Pair} (hp : p.mic = mic) : let t := s.enterClaimFor mic ⟨source, p.q, p.reporter, s.now⟩
    (∀ f, s.claimedBy source e p = some f → s.Changed t mic f ∧ f.mic = mic ∧
      (WarnLaw s ∨ e.presence ≠ .silent → s.tellings t e f.role)) ∧
    (s.claimedBy source e p = none → s.Removed t mic) ∧
    (s.lostCount = lostOf s.table → t.lostCount = lostOf t.table) := by
  have hmic := (State.entry?_some he).2
  rcases State.claimedBy_cases (s := s) (source := source) (hp.trans hmic.symm) with
    ⟨hdrop, hclaimed⟩ | ⟨-, hpeer, l, hl, ⟨hsilent, hf, hclaimed⟩ | ⟨hsilent, hf, hclaimed⟩ | ⟨hsilent, hclaimed⟩⟩
  · have hsame : s.enterClaimFor mic ⟨source, p.q, p.reporter, s.now⟩ = s := by
      rcases hdrop with h | h | h
      · exact absurd h hsource
      · exact State.enterClaimFor_absent h mic
      · exact State.enterClaimFor_dropped he h
    rw [hsame, hclaimed]
    refine ⟨fun f hf => ?_, fun h => absurd h (by simp), id⟩
    obtain rfl := Option.some.inj hf
    exact ⟨.refl hT he, hmic, fun _ => State.tellings_refl (hmic ▸ he)⟩
  all_goals
    rw [State.enterClaimFor_entered he hpeer hl, hclaimed]
    have hne := enterClaim_ne_nil hl
  · obtain ⟨only, gone, view, counted, queue⟩ := State.setClaims_removes hS he hsilent hne hf
    exact ⟨fun f h => absurd h (by simp), fun _ => ⟨only, gone, view, counted, queue⟩, fun _ => counted⟩
  · obtain ⟨changed, counted, htell⟩ := State.setClaims_covered hT hS he hsilent hne hf
    refine ⟨fun f h => ?_, fun h => absurd h (by simp), fun _ => counted⟩
    obtain rfl := Option.some.inj h
    exact ⟨changed, hmic, fun hcase => htell (.inr (hcase.resolve_right fun h => h hsilent))⟩
  · obtain ⟨-, changed, queues, htell⟩ := State.setClaims_stays hT hS he (fun h => absurd h hsilent) fun _ => hne
    refine ⟨fun f h => ?_, fun h => absurd h (by simp), fun hcount => ?_⟩
    · obtain rfl := Option.some.inj h
      exact ⟨changed, by simpa using hmic, fun _ => htell⟩
    · rw [queues.keep.2.1, hcount]
      exact (changed.lostOf hT he (by rw [State.roleComputed_recSignal])).symm

/-! ## The pairs of a frame in turn -/

/-- What is left of a table depends on its view alone, where entries alike but for what the chamber was told become alike. -/
theorem filterMap_untold {F : Entry → Option Entry}
    (hF : ∀ x y : Entry, x.untold = y.untold → (F x).map Entry.untold = (F y).map Entry.untold) {l m : List Entry}
    (h : l.map Entry.untold = m.map Entry.untold) : (l.filterMap F).map Entry.untold = (m.filterMap F).map Entry.untold := by
  have byView : ∀ l : List Entry, (l.filterMap F).map Entry.untold =
      (l.map Entry.untold).filterMap fun x => (F x).map Entry.untold := fun l => by
    rw [List.map_filterMap, List.filterMap_map]
    exact List.filterMap_congr fun x _ => (hF x.untold x rfl).symm
  rw [byView, byView, h]

/-- The table with what a claim makes of its entry in that entry's place, or without it. -/
theorem State.filterMap_claimedBy (hT : TableLaw s) (he : s.entry? mic = some e) (source : Nat) {p : Pair} (hp : p.mic = mic) :
    (∀ f, s.claimedBy source e p = some f →
      (s.table.filterMap fun x => s.claimedBy source x p).map Entry.untold = s.viewWith mic f) ∧
    (s.claimedBy source e p = none →
      (s.table.filterMap fun x => s.claimedBy source x p) = s.table.filter fun x => x.mic ≠ mic) := by
  obtain ⟨hmem, hmic⟩ := State.entry?_some he
  have place : ∀ x ∈ s.table, s.claimedBy source x p = if x.mic = mic then s.claimedBy source e p else some x := fun x hx => by
    split
    · rw [hT.unique hx hmem (by rw [hmic]; assumption)]
    · exact State.claimedBy_other fun h => absurd (h.symm.trans hp) ‹_›
  refine ⟨fun f hf => ?_, fun hnone => ?_⟩
  · have : (s.table.filterMap fun x => s.claimedBy source x p) = s.table.map fun x => if x.mic = mic then f else x := by
      rw [← List.filterMap_eq_map]
      refine List.filterMap_congr fun x hx => (place x hx).trans ?_
      rw [hf]
      exact (apply_ite some ..).symm
    rw [this, List.map_map]
    rfl
  · rw [← List.filterMap_eq_filter]
    refine List.filterMap_congr fun x hx => (place x hx).trans ?_
    rw [hnone]
    by_cases hx : x.mic = mic <;> simp [Option.guard, hx]

/-- One pair of a frame (R108). -/
theorem State.takeClaim_spec (hT : TableLaw s) (hS : SoundLaw s) (source : Nat) (p : Pair) :
    let t := s.takeClaim ⟨source, p.q, p.reporter, s.now⟩ p.mic
    s.onlyHandOffs t ∧ t.view = (s.table.filterMap fun x => s.claimedBy source x p).map Entry.untold ∧
      (s.lostCount = lostOf s.table → t.lostCount = lostOf t.table) := by
  have unmoved : (∀ x ∈ s.table, s.claimedBy source x p = some x) →
      s.view = (s.table.filterMap fun x => s.claimedBy source x p).map Entry.untold := fun h => by
    rw [List.filterMap_congr h, List.filterMap_some]
    rfl
  by_cases hsource : source = 0
  · have hsame : s.takeClaim ⟨source, p.q, p.reporter, s.now⟩ p.mic = s := if_pos hsource
    rw [hsame]
    exact ⟨rfl, unmoved fun x _ => if_pos (.inr (.inl hsource)), id⟩
  cases he : s.entry? p.mic with
  | none =>
    have hsame : s.takeClaim ⟨source, p.q, p.reporter, s.now⟩ p.mic = s := by
      simp [State.takeClaim, State.verified, hsource, he]
    rw [hsame]
    exact ⟨rfl, unmoved fun x hx => State.claimedBy_other fun h => State.entry?_none.mp he x hx h.symm, id⟩
  | some e =>
    have htaken : s.takeClaim ⟨source, p.q, p.reporter, s.now⟩ p.mic = s.enterClaimFor p.mic ⟨source, p.q, p.reporter, s.now⟩ :=
      (if_neg hsource).trans (State.verified_entry hS he _ _)
    obtain ⟨hstays, hremoves, hcount⟩ := State.enterClaimFor_spec hT hS he hsource (p := p) rfl
    obtain ⟨hsome, hnone⟩ := State.filterMap_claimedBy hT he source (p := p) rfl
    rw [htaken]
    cases hclaimed : s.claimedBy source e p with
    | none =>
      have removed := hremoves hclaimed
      exact ⟨removed.only, by rw [removed.view, hnone hclaimed], hcount⟩
    | some f =>
      have changed := (hstays f hclaimed).1
      exact ⟨changed.only, by rw [changed.view, hsome f hclaimed], hcount⟩

theorem State.takeClaim_keeps (c : Claim) (mic : Nat) (s : State) : s.Keeps (s.takeClaim c mic) := by
  unfold State.takeClaim
  split
  · exact .refl s
  · exact (State.Keeps.refl s).verified mic fun _ _ => State.enterClaimFor_keeps mic c s

/-- The pairs of a frame (R108). -/
theorem State.takeClaims_spec (hT : TableLaw s) (hS : SoundLaw s) (source : Nat) (pairs : List Pair) :
    let t := s.takeClaims source pairs
    s.onlyHandOffs t ∧ t.view = (s.table.filterMap (s.claimedByAll source pairs)).map Entry.untold ∧
      (s.lostCount = lostOf s.table → t.lostCount = lostOf t.table) := by
  induction pairs generalizing s with
  | nil => exact ⟨rfl, congrArg (List.map Entry.untold) List.filterMap_some.symm, id⟩
  | cons p rest ih =>
    let u := s.takeClaim ⟨source, p.q, p.reporter, s.now⟩ p.mic
    obtain ⟨uonly, uview, ucount⟩ := State.takeClaim_spec hT hS source p
    have keeps := State.takeClaim_keeps ⟨source, p.q, p.reporter, s.now⟩ p.mic s
    obtain ⟨only, view, count⟩ := ih (keeps.table hT) (keeps.sound hS)
    refine ⟨State.onlyHandOffs_trans uonly only, ?_, fun h => count (ucount h)⟩
    have hsame := State.claimedByAll_of_conditions (State.conditions_of_onlyHandOffs uonly)
    calc ((u.takeClaims source rest).view : List Entry)
        = (u.table.filterMap (s.claimedByAll source rest)).map Entry.untold := by rw [← hsame]; exact view
      _ = ((s.table.filterMap fun x => s.claimedBy source x p).filterMap (s.claimedByAll source rest)).map Entry.untold :=
          filterMap_untold (fun _ _ => State.claimedByAll_congr) uview
      _ = (s.table.filterMap (s.claimedByAll source (p :: rest))).map Entry.untold := by
          rw [List.filterMap_filterMap]
          congr 2
          funext x
          simp only [State.claimedByAll]
          cases s.claimedBy source x p <;> rfl

end

end Sys2Proof.Machine
end

section
/-! CLAIM_TAKEN dispatched (O43). -/

namespace Sys2Proof.Machine

section
variable {s : State} {source : Nat}

/-- A frame from station 0 or an absent station, or for no entry, leaves everything (R108, R109). -/
theorem State.takeClaims_idle {pairs : List Pair}
    (h : source = 0 ∨ s.hasPeer source = false ∨ ∀ p ∈ pairs, s.entry? p.mic = none) (hS : SoundLaw s) :
    s.takeClaims source pairs = s := by
  induction pairs with
  | nil => rfl
  | cons p rest ih =>
    have hhead : s.takeClaim ⟨source, p.q, p.reporter, s.now⟩ p.mic = s := by
      unfold State.takeClaim
      split
      · rfl
      · cases he : s.entry? p.mic with
        | none => simp only [State.verified, he]
        | some e =>
          rw [State.verified_entry hS he]
          refine State.enterClaimFor_absent ((h.resolve_left ‹_›).resolve_right fun hnone => ?_) p.mic
          rw [hnone p List.mem_cons_self] at he
          cases he
    show State.takeClaims source rest (s.takeClaim _ p.mic) = s
    rw [hhead]
    exact ih (h.imp_right (Or.imp_right fun hnone q hq => hnone q (List.mem_cons_of_mem p hq)))

/-- A frame of one pair for an entry. -/
theorem State.takeClaims_one (hS : SoundLaw s) {p : Pair} {e : Entry} (he : s.entry? p.mic = some e) (hsource : source ≠ 0) :
    s.takeClaims source [p] = s.enterClaimFor p.mic ⟨source, p.q, p.reporter, s.now⟩ :=
  (if_neg hsource).trans (State.verified_entry hS he _ _)

end

/-- Settles O43: the pairs are taken in turn, each a change of its entry as `State.claimedBy` says. -/
theorem claimTaken : Obligations.ClaimTaken := by
  unfold Obligations.ClaimTaken
  intro s source pairs rest hT hS hi hrx taken
  let met : State := { taken with inDispatch := some ⟨source, .claim pairs⟩ }
  have hdone : { met with inDispatch := none } = taken := by rw [← hi]
  have hexec : exec .claimTaken s = .next { met.takeClaims source pairs with inDispatch := none } :=
    congrArg _ (State.dispatch_eq hi hrx (work := State.takeClaims source pairs) rfl)
  have hmetT : TableLaw met := ⟨hT.ascending, hT.atMost96, hT.seats, hT.queuedSeats⟩
  have hmetS : SoundLaw met := hS
  have hsame : met.conditions = s.conditions := rfl
  have hrole := State.roleComputed_of_conditions hsame
  refine ⟨fun hidle => ?_, _, hexec, ?_⟩
  · rw [hexec, State.takeClaims_idle (s := met) hidle hmetS, hdone]
  obtain ⟨only, view, hcount⟩ := State.takeClaims_spec hmetT hmetS source pairs
  refine ⟨State.onlyHandOffs_dispatched (f := met.inDispatch) hi only, ?_, hcount, ?_⟩
  · rw [← State.claimedByAll_of_conditions hsame]
    exact view
  · intro p e hpairs he hsource hpeer c
    subst hpairs
    have hmet : met.entry? p.mic = some e := he
    have hone := State.takeClaims_one hmetS hmet hsource
    refine ⟨fun hdropped => ?_, fun l hl => ?_⟩
    · rw [hone, State.enterClaimFor_dropped hmet hdropped, hdone]
    rw [hone, State.enterClaimFor_entered hmet hpeer hl]
    have hne := enterClaim_ne_nil hl
    refine ⟨fun hp => ?_, fun hp hf => ?_, fun hp hf => ?_⟩
    · obtain ⟨-, changed, queues, htell⟩ := State.setClaims_stays hmetT hmetS hmet (fun h => absurd h hp) fun _ => hne
      rw [hrole] at changed htell
      exact ⟨queues.keep.2.1, changed.view, State.tellings_earlier htell rfl⟩
    · rw [← State.covered_of_conditions hsame]
      exact (State.setClaims_covered hmetT hmetS hmet hp hne hf).1.view
    · exact (State.setClaims_removes hmetS hmet hp hne hf).2.2.1

end Sys2Proof.Machine
end

section
/-! ABSENCE_TIMER_EXPIRY and CLAIM_EXPIRY (R107, R111): a claim that leaves, the sweep of an absence as a change of every entry, and
what a visit leaves of the other microphones. -/

namespace Sys2Proof.Machine

/-! ## A claim that leaves (R110) -/

section
variable {s : State} {mic n : Nat} {e : Entry}

/-- The entry that the claims of `n` have left. -/
def State.departed (n : Nat) (s : State) (e : Entry) : Entry :=
  if e.claims.any (fun c => c.station == n) then s.claimed (e.claims.filter fun c => c.station ≠ n) e else e

theorem State.claimed_covered {l : List Claim} (hp : e.presence = .covered) (hl : l = []) :
    s.claimed l e = s.silenced { e with claims := [] } := by
  subst hl
  exact if_pos ⟨hp, rfl⟩

theorem State.claimed_other {l : List Claim} (h : e.presence = .covered → l ≠ []) :
    s.claimed l e = s.roleComputed { e with claims := l } := if_neg fun hc => h hc.1 hc.2

@[simp] theorem State.claimed_mic (s : State) (l : List Claim) (e : Entry) : (s.claimed l e).mic = e.mic := by
  unfold State.claimed
  split
  · exact (s.silenced_keeps _).1
  · simp

@[simp] theorem State.departed_mic (n : Nat) (s : State) (e : Entry) : (s.departed n e).mic = e.mic := by
  unfold State.departed
  split <;> simp

theorem State.removeClaim_idle (he : s.entry? mic = some e) (hc : e.claims.any (fun c => c.station == n) = false) :
    s.removeClaim mic n = s := by
  simp [State.removeClaim, he, hc]

theorem State.removeClaim_listed (hT : TableLaw s) (he : s.entry? mic = some e)
    (hc : e.claims.any (fun c => c.station == n) = true) :
    s.removeClaim mic n = s.setClaims mic (e.claims.filter fun c => c.station ≠ n) := by
  simp only [State.removeClaim, he, hc, if_true, State.setClaims]
  exact congrArg (State.claimsChanged mic) (State.modEntry_unique hT he rfl)

/-- A HEARD entry's role is computed when a claim leaves. -/
theorem State.removeClaim_heard (hT : TableLaw s) (hS : SoundLaw s) (he : s.entry? mic = some e)
    (hc : e.claims.any (fun c => c.station == n) = true) (hp : e.presence = .heard) : s.removeClaim mic n =
      (s.modEntry mic fun x => { x with claims := e.claims.filter fun c => c.station ≠ n }).computeRole mic :=
  (State.removeClaim_listed hT he hc).trans
    (State.setClaims_stays hT hS he (fun h => absurd (hp.symm.trans h) (by decide)) fun h => absurd (hp.symm.trans h) (by decide)).1

/-- What the entry becomes when a claim leaves it. -/
theorem State.removeClaim_spec (hT : TableLaw s) (hS : SoundLaw s) (he : s.entry? mic = some e)
    (hp : e.claims.any (fun c => c.station == n) = true → e.presence ≠ .silent) : let t := s.removeClaim mic n
    s.Changed t mic (s.departed n e) ∧ (e.presence = .heard ∨ t.zone = s.zone → s.tellings t e (s.departed n e).role) := by
  unfold State.departed
  split
  · rename_i hc
    rw [State.removeClaim_listed hT he hc]
    by_cases hl : e.presence = .covered ∧ (e.claims.filter fun c => c.station ≠ n) = []
    · rw [State.claimed_covered hl.1 hl.2, hl.2]
      obtain ⟨changed, -, htell⟩ := State.setClaims_silences hT hS he hl.1
      exact ⟨changed, fun h => htell (h.resolve_left fun hh => absurd (hh.symm.trans hl.1) (by decide))⟩
    · rw [State.claimed_other fun hcov h => hl ⟨hcov, h⟩]
      obtain ⟨-, changed, -, htell⟩ := State.setClaims_stays hT hS he (l := e.claims.filter fun c => c.station ≠ n)
        (fun h => absurd h (hp hc)) fun hcov h => hl ⟨hcov, h⟩
      exact ⟨changed, fun _ => htell⟩
  · rw [State.removeClaim_idle he (Bool.eq_false_iff.mpr ‹_›)]
    exact ⟨.refl hT he, fun _ => State.tellings_refl ((State.entry?_some he).2 ▸ he)⟩

end

/-! ## The sweep of an absence as a change of every entry -/

section
variable {s t : State}

theorem State.departed_of_conditions (n : Nat) (h : t.conditions = s.conditions) : t.departed n = s.departed n := by
  funext e
  simp only [State.departed, State.claimed, State.silenced_of_conditions h, State.roleComputed_of_conditions h]

theorem State.silenced_unheeding (s : State) : Entry.Unheeding s.silenced := fun e => by
  have uncued : Entry.Unheeding fun x => { x with cue := 0, cueRefresh := .stopped } := fun _ => rfl
  have fallen : (s.fallenSilent e.untold).untold = (s.fallenSilent e).untold := by
    have hrole : e.untold.role = e.role := rfl
    simp only [State.fallenSilent, hrole]
    split <;> rfl
  rw [State.silenced_eq, State.silenced_eq]
  exact uncued.congr (s.stepped_unheeding.congr fallen)

theorem State.departed_unheeding (n : Nat) (s : State) : Entry.Unheeding (s.departed n) := fun e => by
  have hclaims : e.untold.claims = e.claims := rfl
  have hpresence : e.untold.presence = e.presence := rfl
  simp only [State.departed, State.claimed, hclaims, hpresence]
  split
  · split
    · exact s.silenced_unheeding.congr rfl
    · exact s.roleComputed_unheeding.congr rfl
  · rfl

theorem State.viewWith_view (s : State) (mic : Nat) (e : Entry) :
    s.viewWith mic e = s.view.map fun y => if y.mic = mic then e.untold else y := by
  simp only [State.viewWith, State.view, List.map_map]
  refine List.map_congr_left fun x _ => ?_
  by_cases hm : x.mic = mic <;> simp [hm]

/-- What a sweep that changes entries by `F` has made of an entry while the visits to `rest` are still to come. -/
def Entry.sweptBut (F : Entry → Entry) (rest : List Nat) (e : Entry) : Entry := if e.mic ∈ rest then e else F e

theorem Entry.sweptBut_mic {F : Entry → Entry} (hmic : ∀ e, (F e).mic = e.mic) (rest : List Nat) (e : Entry) :
    (e.sweptBut F rest).mic = e.mic := by
  unfold Entry.sweptBut
  split
  · rfl
  · exact hmic e

/-- A visit to another entry. -/
theorem Entry.sweptBut_other {F : Entry → Entry} {mic : Nat} {e : Entry} (h : e.mic ≠ mic) (rest : List Nat) :
    e.sweptBut F (mic :: rest) = e.sweptBut F rest := by simp [Entry.sweptBut, h]

/-- The state of such a sweep. -/
structure State.SweptBut (F : Entry → Entry) (s : State) (rest : List Nat) (u : State) : Prop where
  nodup : rest.Nodup
  only : s.onlyHandOffs u
  table : TableLaw u
  sound : SoundLaw u
  view : u.view = s.table.map fun e => (e.sweptBut F rest).untold

namespace State.SweptBut

variable {F : Entry → Entry} {mic : Nat} {rest : List Nat} {u v : State}

/-- A mic ID without an entry is passed over. -/
theorem absent (h : s.SweptBut F (mic :: rest) u) (hmic : ∀ e, (F e).mic = e.mic) (hgone : u.entry? mic = none) :
    s.SweptBut F rest u := by
  refine ⟨h.nodup.of_cons, h.only, h.table, h.sound, h.view.trans (List.map_congr_left fun e he => ?_)⟩
  have hne : e.mic ≠ mic := fun hm => by
    have hmem : (e.sweptBut F (mic :: rest)).untold ∈ u.view := h.view ▸ List.mem_map_of_mem he
    obtain ⟨y, hy, hye⟩ := List.mem_map.mp hmem
    exact State.entry?_none.mp hgone y hy ((Entry.mic_of_untold hye).trans ((Entry.sweptBut_mic hmic _ e).trans hm))
  rw [Entry.sweptBut_other hne]

/-- An entry not yet visited is that of the start, but for what the chamber was told. -/
theorem start (h : s.SweptBut F (mic :: rest) u) (hmic : ∀ e, (F e).mic = e.mic) {x : Entry} (hx : u.entry? mic = some x) :
    ∃ e ∈ s.table, e.mic = mic ∧ x.untold = e.untold := by
  obtain ⟨hxmem, hxmic⟩ := State.entry?_some hx
  have hmem : x.untold ∈ s.table.map fun e => (e.sweptBut F (mic :: rest)).untold := h.view ▸ List.mem_map_of_mem hxmem
  obtain ⟨e, he, hex⟩ := List.mem_map.mp hmem
  have hemic : e.mic = mic := ((Entry.sweptBut_mic hmic _ e).symm.trans (Entry.mic_of_untold hex)).trans hxmic
  refine ⟨e, he, hemic, ?_⟩
  rw [← hex]
  simp [Entry.sweptBut, hemic]

/-- The visit that changes the entry of its mic ID. -/
theorem visit (h : s.SweptBut F (mic :: rest) u) (hmic : ∀ e, (F e).mic = e.mic) (hF : Entry.Unheeding F) (hT : TableLaw s)
    {x : Entry} (hx : u.entry? mic = some x) (changed : u.Changed v mic (F x)) : s.SweptBut F rest v := by
  obtain ⟨e, he, hemic, hsame⟩ := h.start hmic hx
  refine ⟨h.nodup.of_cons, State.onlyHandOffs_trans h.only changed.only,
    changed.table ((hmic x).trans (State.entry?_some hx).2) h.table, changed.sound h.sound, ?_⟩
  rw [changed.view, State.viewWith_view, h.view, List.map_map]
  refine List.map_congr_left fun z hz => ?_
  have hzmic : (z.sweptBut F (mic :: rest)).untold.mic = z.mic := Entry.sweptBut_mic hmic _ z
  simp only [Function.comp, hzmic]
  split
  · rename_i hzm
    obtain rfl := hT.unique hz he (hzm.trans hemic.symm)
    have hout : z.mic ∉ rest := hzm ▸ (List.nodup_cons.mp h.nodup).1
    rw [Entry.sweptBut, if_neg hout]
    exact hF.congr hsame
  · rw [Entry.sweptBut_other ‹_›]

end State.SweptBut

/-- A sweep whose visits each change their entry by `F` changes the whole table by it. -/
theorem State.sweep_changes {fx act : Nat → State → State} {F : Entry → Entry} (hmic : ∀ e, (F e).mic = e.mic)
    (hF : Entry.Unheeding F) (hT : TableLaw s) (hS : SoundLaw s)
    (hact : ∀ mic u x, s.onlyHandOffs u → TableLaw u → SoundLaw u → u.entry? mic = some x →
      (∃ e ∈ s.table, x.untold = e.untold) → u.Changed (act mic u) mic (F x)) :
    s.onlyHandOffs (s.sweep fx act) ∧ (s.sweep fx act).view = s.table.map fun e => (F e).untold := by
  have begun : s.SweptBut F s.mics s := by
    refine ⟨hT.nodup, rfl, hT, hS, List.map_congr_left fun e he => ?_⟩
    have hin : e.mic ∈ s.mics := List.mem_map_of_mem he
    rw [Entry.sweptBut, if_pos hin]
  have ended : s.SweptBut F [] (s.sweep fx act) := by
    refine State.sweep_remaining (I := fun rest u => s.SweptBut F rest u) (fun mic rest u hgone hu => hu.absent hmic hgone)
      (fun mic rest u x hx hbad hu => ?_) (fun mic rest u x hx _ hu => ?_) begun
    · have := hu.sound x (State.entry?_some hx).1
      simp [hbad] at this
    · obtain ⟨e, he, -, hsame⟩ := hu.start hmic hx
      exact hu.visit hmic hF hT hx (hact mic u x hu.only hu.table hu.sound hx ⟨e, he, hsame⟩)
  exact ⟨ended.only, ended.view.trans (List.map_congr_left fun e _ => by simp [Entry.sweptBut])⟩

/-- The sweep of an absence (R107): every entry loses the claims of the station. -/
theorem State.absenceSweep_spec {n : Nat} (hT : TableLaw s) (hS : SoundLaw s)
    (hp : ∀ e ∈ s.table, e.presence = .silent → e.claims = []) (fx : Nat → State → State) :
    let t := s.sweep fx fun mic u => u.removeClaim mic n
    s.onlyHandOffs t ∧ t.view = s.table.map fun e => (s.departed n e).untold := by
  refine State.sweep_changes (State.departed_mic n s) (s.departed_unheeding n) hT hS fun mic u x only table sound hx hxe => ?_
  obtain ⟨e, he, hsame⟩ := hxe
  rw [← State.departed_of_conditions n (State.conditions_of_onlyHandOffs only)]
  refine (State.removeClaim_spec table sound hx fun hc hsilent => ?_).1
  have hclaims : x.claims = e.claims := show x.untold.claims = e.untold.claims from congrArg _ hsame
  rw [hclaims, hp e he ((Entry.presence_of_untold hsame).symm.trans hsilent)] at hc
  cases hc

end

end Sys2Proof.Machine
end

section
/-! What a role computation leaves of the other microphones: their entries and their queued WARN frames. -/

namespace Sys2Proof.Machine

theorem Frame.warnOf_other {f : Frame} {m mic : Nat} (hm : m ≠ mic) (hf : f.warnOf m = true) : f.warnOf mic = false := by
  cases f with
  | warn w =>
    have hw : w.mic = m := by simpa [Frame.warnOf] using hf
    simp [Frame.warnOf, hw, hm]
  | _ => cases hf

/-- A discard of a frame that is no WARN of `mic`. -/
theorem State.discardFrame_other {f : Frame} {mic : Nat} (hf : f.warnOf mic = false) (s : State) :
    (s.discardFrame f).entry? mic = s.entry? mic := by
  rcases State.discardFrame_cases f s with hd | ⟨w, rfl, hd⟩ <;> rw [hd]
  have hmic : ∀ x : Entry, (x.forgets w.kind).mic = x.mic := fun x => by
    unfold Entry.forgets
    split
    · rfl
    · simp
  have hne : mic ≠ w.mic := fun h => by simp [Frame.warnOf, h] at hf
  show (s.mapEntry w.mic (Entry.forgets w.kind)).entry? mic = _
  rw [State.entry?_mapEntry _ _ _ _ hmic]
  simp [hne]

/-- Discards of frames that are no WARN of `mic`. -/
theorem State.discardWhere_other {drop : Frame → Bool} {mic : Nat}
    (h : ∀ f : Frame, drop f = true → f.warnOf mic = false) (s : State) :
    (s.discardWhere drop).entry? mic = s.entry? mic := by
  unfold State.discardWhere
  suffices ∀ gone : List TxFrame, (∀ g ∈ gone, g.frame.warnOf mic = false) → ∀ u : State,
      (gone.foldl (fun u t => u.discardFrame t.frame) u).entry? mic = u.entry? mic from
    this _ (fun g hg => h _ (List.mem_filter.mp hg).2) _
  intro gone
  induction gone with
  | nil => exact fun _ _ => rfl
  | cons g rest ih =>
    exact fun hgone u => (ih (fun x hx => hgone x (by simp [hx])) _).trans (State.discardFrame_other (hgone g (by simp)) u)

/-- The entry of `mic` and its queued WARN frames are as they were. -/
structure State.Apart (mic : Nat) (s t : State) : Prop where
  entry : t.entry? mic = s.entry? mic
  queued : ∀ g : TxFrame, g.frame.warnOf mic = true → (g ∈ t.tx ↔ g ∈ s.tx)

namespace State.Apart

variable {mic m : Nat} {s t u : State}

theorem refl (s : State) : s.Apart mic s := ⟨rfl, fun _ _ => Iff.rfl⟩

theorem trans (h : s.Apart mic t) (k : t.Apart mic u) : s.Apart mic u :=
  ⟨k.entry.trans h.entry, fun g hg => (k.queued g hg).trans (h.queued g hg)⟩

theorem frame (h : (t.table, t.tx) = (s.table, s.tx)) : s.Apart mic t := by
  obtain ⟨htable, htx⟩ : t.table = s.table ∧ t.tx = s.tx := by simpa using h
  refine ⟨?_, fun _ _ => by rw [htx]⟩
  rw [State.entry?, htable]
  rfl

theorem modEntry (h : s.Apart mic t) (hm : m ≠ mic) {f : Entry → Entry} (hf : ∀ e, (f e).mic = e.mic) :
    s.Apart mic (t.modEntry m f) := by
  refine h.trans ⟨?_, fun _ _ => Iff.rfl⟩
  rw [State.entry?_modEntry _ _ _ _ hf]
  simp [hm.symm]

theorem discardWhere (h : s.Apart mic t) (hm : m ≠ mic) : s.Apart mic (t.discardWhere (Frame.warnOf m)) := by
  refine h.trans ⟨State.discardWhere_other (fun f hf => Frame.warnOf_other hm hf) t, fun g hg => ?_⟩
  have hkept : g.frame.warnOf m = false := Frame.warnOf_other hm.symm hg
  rw [State.discardWhere_tx]
  simp [hkept]

/-- An ADOPT of another microphone: only a less urgent frame gives way to it, and that is no WARN (R147). -/
theorem submitAdopt {w : Warn} (h : s.Apart mic t) (hm : w.mic ≠ mic) (hw : w.reason = .adopt) :
    s.Apart mic (t.submit (.warn w)).1 := by
  refine h.trans ?_
  have hnew : ∀ g : TxFrame, g.frame.warnOf mic = true → g ≠ ⟨.warn w, 0⟩ := fun g hg heq => by
    rw [heq] at hg
    simp [Frame.warnOf, hm] at hg
  have hcls : (Frame.warn w).cls = 2 := by simp [Frame.cls, hw]
  rcases State.submit_cases (.warn w) t with ⟨-, hs⟩ | ⟨-, v, rest, hv, hs⟩ | ⟨-, -, hs⟩ <;> rw [hs]
  · exact ⟨rfl, fun g hg => by simp [hnew g hg]⟩
  · obtain ⟨hlt, -, pre, post, hq, rfl, -⟩ := victimFor_some hv
    rw [State.discardFrame_of_cls (hcls ▸ hlt)]
    refine ⟨rfl, fun g hg => ?_⟩
    have hne : g ≠ v := fun heq => by
      cases hf : v.frame with
      | warn x =>
        rw [hf, hcls] at hlt
        exact absurd (Frame.cls_warn_le x) (by omega)
      | _ => rw [heq, hf] at hg; cases hg
    rw [State.count_tx, mem_placeTx, hq]
    simp [hnew g hg, hne]
  · exact .frame rfl

theorem adopt (h : s.Apart mic t) (hm : m ≠ mic) (k : Kind) : s.Apart mic (t.adopt m k) := by
  have requested : s.Apart mic (t.requestWarn m k .adopt) := by
    unfold State.requestWarn
    split
    · exact h
    · rename_i e he
      split
      · have cleared : s.Apart mic (t.removeWhere (Frame.warnFor m k)) := h.trans ⟨rfl, fun g hg => by
          have hkept : g.frame.warnFor m k = false := Bool.eq_false_iff.mpr fun hk => by
            rw [Frame.warnOf_other hm (Frame.warnOf_of_warnFor hk)] at hg
            cases hg
          simp [State.removeWhere, hkept]⟩
        have placed := cleared.submitAdopt (w := composeWarn t.now e k .adopt)
          (show e.mic ≠ mic from (State.entry?_some he).2 ▸ hm) rfl
        dsimp only
        split
        · exact placed.modEntry hm fun x => by simp
        · exact placed
      · exact h
  unfold State.adopt
  split
  · exact h
  · split
    · exact requested.modEntry hm fun x => by simp
    · exact h

theorem selectCue (h : s.Apart mic t) (hm : m ≠ mic) : s.Apart mic (t.selectCue m) := by
  refine h.trans ⟨?_, fun _ _ => by rw [State.selectCue_tx]⟩
  have offer : ∀ (c : Cue) (u : State), (u.offerCue c).entry? mic = u.entry? mic := fun c u => by
    unfold State.offerCue
    split <;> rfl
  have changed : ∀ f : Entry → Entry, (∀ e, (f e).mic = e.mic) → (t.modEntry m f).entry? mic = t.entry? mic := fun f hf =>
    ((Apart.refl t).modEntry hm hf).entry
  unfold State.selectCue
  split
  · rfl
  · split
    · split
      · rfl
      · exact (offer _ _).trans (changed _ fun _ => rfl)
    · exact changed _ fun _ => rfl

theorem loseReporter (h : s.Apart mic t) (hm : m ≠ mic) : s.Apart mic (t.loseReporter m) :=
  (((h.modEntry hm (by exact fun _ => rfl)).discardWhere hm).modEntry hm (by exact fun _ => rfl)).selectCue hm

theorem gainReporter (h : s.Apart mic t) (hm : m ≠ mic) : s.Apart mic (t.gainReporter m) :=
  (((((h.modEntry hm (by exact fun _ => rfl)).adopt hm _).adopt hm _).adopt hm _).modEntry hm (by exact fun _ => rfl)).selectCue hm

theorem computeRole (h : s.Apart mic t) (hm : m ≠ mic) : s.Apart mic (t.computeRole m) := by
  have followed : s.Apart mic (t.makeFollower m) := by
    unfold State.makeFollower
    split
    · exact h
    · split
      · exact h.loseReporter hm
      · exact h.modEntry hm fun _ => rfl
  have decided : ∀ own, s.Apart mic (t.decideRole m own) := fun own => by
    unfold State.decideRole
    split
    · exact h
    · split
      · split
        · exact h
        · exact h.gainReporter hm
      · exact followed
  unfold State.computeRole
  split
  · exact h
  · split
    · exact decided _
    · exact h

end State.Apart

/-! ## The length of the queue -/

theorem State.adopt_length (mic : Nat) (k : Kind) (s : State) : (s.adopt mic k).tx.length ≤ s.tx.length + 1 := by
  unfold State.adopt
  split
  · omega
  · split
    · exact State.requestWarn_length ..
    · omega

/-- A role computation queues at most the three ADOPT frames of one entry. -/
theorem State.computeRole_length (mic : Nat) (s : State) : (s.computeRole mic).tx.length ≤ s.tx.length + 3 := by
  have gained : (s.gainReporter mic).tx.length ≤ s.tx.length + 3 := by
    rw [State.gainReporter, State.selectCue_tx, State.modEntry_tx, State.adoptAll]
    refine (State.adopt_length ..).trans (Nat.add_le_add_right ((State.adopt_length ..).trans (Nat.add_le_add_right
      (State.adopt_length ..) 1)) 1)
  have lost : (s.loseReporter mic).tx.length ≤ s.tx.length := by
    rw [State.loseReporter, State.selectCue_tx, State.modEntry_tx, State.discardWhere_tx]
    exact List.length_filter_le ..
  have followed : (s.makeFollower mic).tx.length ≤ s.tx.length := by
    unfold State.makeFollower
    split
    · exact le_refl _
    · split
      · exact lost
      · exact le_refl _
  unfold State.computeRole
  split
  · omega
  · split
    · unfold State.decideRole
      split
      · omega
      · split
        · split
          · omega
          · exact gained
        · omega
    · omega

end Sys2Proof.Machine
end

section
/-! ABSENCE_TIMER_EXPIRY and CLAIM_EXPIRY settled (O30): the tellings of an absence entry by entry. -/

namespace Sys2Proof.Machine

/-! ## A role leaves the presence -/

@[simp] theorem State.recued_presence (s : State) (e : Entry) : (s.recued e).presence = e.presence := by
  unfold State.recued
  split
  · split <;> rfl
  · rfl

@[simp] theorem State.roleComputed_presence (s : State) (e : Entry) : (s.roleComputed e).presence = e.presence := by
  unfold State.roleComputed State.roleDecided
  split
  · split
    · split <;> simp
    · split <;> simp
  · rfl

/-! ## Tellings within a longer event -/

/-- Tellings of one visit are tellings of the event that makes it, where the visits before leave the entry's WARN frames queued or
not and take no more than the room allowed, and those after leave the entry and its frames. -/
theorem State.tellings_between {s u v t : State} {e : Entry} {role : Role} {room : Nat} (h : u.tellings v e role)
    (hs : (u.now, u.station, u.zone, u.params.repeatInterval) = (s.now, s.station, s.zone, s.params.repeatInterval))
    (hwarn : ∀ k, (∃ g ∈ u.tx, g.frame.warnFor e.mic k = true) ↔ ∃ g ∈ s.tx, g.frame.warnFor e.mic k = true)
    (hroom : u.tx.length + 3 ≤ s.tx.length + room) (hafter : v.Apart e.mic t) : s.tellings t e role room := by
  simp only [Prod.mk.injEq] at hs
  obtain ⟨hnow, hst, hzone, hrep⟩ := hs
  intro f k hf
  obtain ⟨hkept, hlost, hgained⟩ := h f k (hafter.entry ▸ hf)
  have hheld : s.holdsBack k (e.record k).level = u.holdsBack k (e.record k).level := by simp only [State.holdsBack, hzone]
  refine ⟨hkept, fun h1 h2 => ?_, fun h1 h2 => ?_⟩
  · obtain ⟨hstop, hunknown, hsame⟩ := hlost h1 h2
    refine ⟨hstop, fun hq => hunknown ((hwarn k).mpr hq), fun hq => hsame fun g hg => ?_⟩
    refine Bool.eq_false_iff.mpr fun hfor => ?_
    obtain ⟨x, hx, hxfor⟩ := (hwarn k).mp ⟨g, hg, hfor⟩
    rw [hq x hx] at hxfor
    cases hxfor
  · obtain ⟨hrepeat, hblocked, htold⟩ := hgained h1 h2
    rw [hnow, hrep] at hrepeat
    refine ⟨hrepeat, fun hb => hblocked ?_, fun hsends hun hfree hlen => ?_⟩
    · rw [hst, ← hheld]
      exact hb
    · obtain ⟨hc, ha, g, hg, hgf⟩ := htold (by rw [hst]; exact hsends) hun (hheld ▸ hfree) (by omega)
      refine ⟨hc, ha, g, (hafter.queued g ?_).mpr hg, by rw [hgf, hnow]⟩
      rw [hgf]
      simp [Frame.warnOf, composeWarn]

/-! ## The visits of an absence (R107) -/

section
variable {s : State} {n : Nat}

/-- Over a sound table a sweep whose visits keep the check words is its visits. -/
theorem State.sweep_visits {act : Nat → State → State} (hS : SoundLaw s) (hact : ∀ mic u, SoundLaw u → SoundLaw (act mic u))
    (hgone : ∀ mic (u : State), u.entry? mic = none → act mic u = u) (fx : Nat → State → State) :
    s.sweep fx act = s.mics.foldl (fun u mic => act mic u) s := by
  unfold State.sweep
  generalize s.mics = mics
  induction mics generalizing s with
  | nil => rfl
  | cons mic rest ih =>
    have visit : (s.verified fx mic fun _ => act mic) = act mic s := by
      rw [State.verified_sound hS]
      cases he : s.entry? mic with
      | none => exact (hgone mic s he).symm
      | some e => rfl
    rw [List.foldl_cons, List.foldl_cons, visit]
    exact ih (hact mic s hS)

theorem State.removeClaim_gone {mic : Nat} (he : s.entry? mic = none) : s.removeClaim mic n = s := by
  simp only [State.removeClaim, he]

/-- A lawful state in which a claim of station `n` is listed only of HEARD entries. -/
structure State.HeardClaims (n : Nat) (s : State) : Prop where
  table : TableLaw s
  sound : SoundLaw s
  heard : ∀ x ∈ s.table, x.claims.any (fun c => c.station == n) = true → x.presence = .heard

/-- A visit takes place for three frames at most, and leaves the other microphones. -/
theorem State.HeardClaims.visit (h : s.HeardClaims n) (m : Nat) : let t := s.removeClaim m n
    t.HeardClaims n ∧ s.onlyQueues t ∧ t.tx.length ≤ s.tx.length + 3 ∧ ∀ mic, m ≠ mic → s.Apart mic t := by
  have idle : s.removeClaim m n = s → (s.removeClaim m n).HeardClaims n ∧ s.onlyQueues (s.removeClaim m n) ∧
      (s.removeClaim m n).tx.length ≤ s.tx.length + 3 ∧ ∀ mic, m ≠ mic → s.Apart mic (s.removeClaim m n) := fun hsame => by
    rw [hsame]
    exact ⟨h, .refl s, by omega, fun _ _ => .refl s⟩
  cases he : s.entry? m with
  | none => exact idle (State.removeClaim_gone he)
  | some e =>
    by_cases hc : e.claims.any (fun c => c.station == n) = true
    · have hp := h.heard e (State.entry?_some he).1 hc
      have keeps := State.removeClaim_keeps m n s
      have changed := (State.removeClaim_spec (n := n) h.table h.sound he fun _ hs => absurd (hp.symm.trans hs) (by decide)).1
      have hrole : s.departed n e = s.roleComputed { e with claims := e.claims.filter fun c => c.station ≠ n } := by
        rw [State.departed, if_pos hc, State.claimed_other fun hcov => absurd (hp.symm.trans hcov) (by decide)]
      refine ⟨⟨keeps.table h.table, keeps.sound h.sound, fun y hy hyc => ?_⟩, ?_⟩
      · obtain ⟨x, hx, hyx⟩ := changed.mem hy
        rw [Entry.presence_of_untold hyx]
        have hyclaims : y.claims = (if x.mic = m then s.departed n e else x).claims :=
          show y.untold.claims = Entry.claims (Entry.untold _) from congrArg _ hyx
        rw [hyclaims] at hyc
        split at hyc
        · rw [if_pos ‹_›, hrole, State.roleComputed_presence]
          exact hp
        · rw [if_neg ‹_›]
          exact h.heard x hx hyc
      · rw [State.removeClaim_heard h.table h.sound he hc hp]
        refine ⟨((State.onlyQueues.refl s).modEntry m _).computeRole m, State.computeRole_length m _, fun mic hm => ?_⟩
        exact ((State.Apart.refl s).modEntry hm (by exact fun _ => rfl)).computeRole hm
    · exact idle (State.removeClaim_idle he (Bool.eq_false_iff.mpr hc))

/-- The visits to several microphones. -/
theorem State.HeardClaims.visits (h : s.HeardClaims n) (mics : List Nat) :
    let t := mics.foldl (fun u m => u.removeClaim m n) s
    t.HeardClaims n ∧ s.onlyQueues t ∧ t.tx.length ≤ s.tx.length + 3 * mics.length ∧ ∀ mic, mic ∉ mics → s.Apart mic t := by
  induction mics generalizing s with
  | nil => exact ⟨h, .refl s, by simp, fun _ _ => .refl s⟩
  | cons m rest ih =>
    obtain ⟨hv, vqueues, vlen, vapart⟩ := h.visit m
    obtain ⟨ht, tqueues, tlen, tapart⟩ := ih hv
    refine ⟨ht, vqueues.trans tqueues, ?_, fun mic hmem => ?_⟩
    · rw [List.length_cons]
      exact tlen.trans (by omega)
    · rw [List.mem_cons, not_or] at hmem
      exact (vapart mic (Ne.symm hmem.1)).trans (tapart mic hmem.2)

/-- What an absence tells the chamber of each entry (R117, R118), where every claim that leaves is of a HEARD entry. -/
theorem State.HeardClaims.tellings (h : s.HeardClaims n) {e : Entry} (he : e ∈ s.table) (fx : Nat → State → State) :
    s.tellings (s.sweep fx fun mic u => u.removeClaim mic n) e (s.departed n e).role (3 * s.table.length) := by
  obtain ⟨pre, post, hsplit⟩ := List.append_of_mem he
  have hmics : s.mics = pre.map Entry.mic ++ e.mic :: post.map Entry.mic := by simp [State.mics, hsplit]
  have hnodup := h.table.nodup
  rw [hmics] at hnodup
  have hpre : e.mic ∉ pre.map Entry.mic := fun hm => (List.nodup_append.mp hnodup).2.2 _ hm e.mic (by simp) rfl
  have hpost : e.mic ∉ post.map Entry.mic := (List.nodup_cons.mp (List.nodup_append.mp hnodup).2.1).1
  rw [State.sweep_visits h.sound (fun mic u hu => (State.removeClaim_keeps mic n u).sound hu)
    (fun _ _ hgone => State.removeClaim_gone hgone), hmics, List.foldl_append, List.foldl_cons]
  obtain ⟨hu, queues, hlen, hapart⟩ := h.visits (pre.map Entry.mic)
  generalize (pre.map Entry.mic).foldl (fun u m => State.removeClaim m n u) s = u at *
  have before := hapart e.mic hpre
  have hfound : u.entry? e.mic = some e := before.entry.trans (h.table.entry? he)
  have after := ((hu.visit e.mic).1.visits (post.map Entry.mic)).2.2.2 e.mic hpost
  obtain ⟨hzone, -, hst, hnow, hparams, -⟩ := queues.keep
  have hcond : u.conditions = s.conditions := by
    unfold State.onlyQueues at queues
    rw [queues]
    rfl
  have visit := (State.removeClaim_spec (n := n) hu.table hu.sound hfound fun hc hs =>
    absurd ((hu.heard e (State.entry?_some hfound).1 hc).symm.trans hs) (by decide)).2
  have hstill : (u.removeClaim e.mic n).zone = u.zone := (hu.visit e.mic).2.1.keep.1
  rw [State.departed_of_conditions n hcond] at visit
  refine State.tellings_between (visit (.inr hstill)) (by rw [hnow, hst, hzone, hparams]) (fun k => ?_) ?_ after
  · refine exists_congr fun g => and_congr_left fun hg => before.queued g (Frame.warnOf_of_warnFor hg)
  · have hcount : s.table.length = pre.length + (post.length + 1) := by simp [hsplit]
    rw [List.length_map] at hlen
    omega

end

/-- Settles O30: an absence is a sweep of departing claims, and the expiry of a claim is one departure. -/
theorem claimsLeave : Obligations.ClaimsLeave := by
  unfold Obligations.ClaimsLeave
  refine fun s hT hS => ⟨fun n due hP hslot hdue => ?_, fun mic e c he hfind hfresh hp => ?_⟩
  · let left : State := { s with roster := s.roster.set n .absent }
    have leftT : TableLaw left := ⟨hT.ascending, hT.atMost96, hT.seats, hT.queuedSeats⟩
    have hexec : exec (.absenceTimerExpiry n) s = .next (left.sweep State.entryFault fun mic u => u.removeClaim mic n) := by
      refine congrArg Host.Outcome.next (if_pos ?_)
      simp [State.slot, List.getD, hslot, Slot.timer, Timer.isDue, hdue]
    obtain ⟨only, view⟩ := State.absenceSweep_spec (s := left) (n := n) leftT hS hP.silent State.entryFault
    refine ⟨_, hexec, only, view, fun hheard e he => ?_⟩
    have departs : left.HeardClaims n := ⟨leftT, hS, hheard⟩
    exact State.tellings_earlier (departs.tellings he State.entryFault) rfl
  · have hc : e.claims.any (fun x => x.station == c.station) = true :=
      List.any_eq_true.mpr ⟨c, List.mem_of_find?_eq_some hfind, by simp⟩
    have htimer : (e.claimTimer s.params c.station).isDue s.now = true := by
      simp only [Entry.claimTimer, hfind, Timer.isDue, Params.claimFresh, decide_eq_true_eq]
      omega
    have hexec : exec (.claimExpiry mic c.station) s = .next (s.removeClaim mic c.station) :=
      congrArg Host.Outcome.next (State.expiry_due hS he htimer _)
    obtain ⟨changed, htell⟩ := State.removeClaim_spec (n := c.station) hT hS he fun _ => hp
    rw [State.departed, if_pos hc] at changed htell
    exact ⟨_, hexec, changed.only, changed.view, htell⟩

end Sys2Proof.Machine
end

section
/-! What every record and every queued WARN says of a level and its acknowledgement, through what a taken WARN can hand off. -/

namespace Sys2Proof.Machine

/-! ## The levels of an entry -/

/-- The mic ID of an entry, and the level and the acknowledged flag of each record: what its WARN frames are composed from. -/
def Entry.levels (e : Entry) : Nat × (Level × Bool) × (Level × Bool) × (Level × Bool) :=
  (e.mic, (e.recBattery.level, e.recBattery.acked), (e.recMute.level, e.recMute.acked), (e.recSignal.level, e.recSignal.acked))

/-- A record that keeps its level and flag leaves the levels of its entry. -/
theorem Entry.levels_setRecord {e : Entry} {k : Kind} {r : Record} (hl : r.level = (e.record k).level)
    (ha : r.acked = (e.record k).acked) : (e.setRecord k r).levels = e.levels := by
  cases k
  all_goals
    simp only [Entry.levels, Entry.setRecord]
    rw [hl, ha]
    rfl

/-- Every record of the entry satisfies `ok` with its kind, level and flag. -/
def Entry.LevelsObey (ok : Nat → Kind → Level → Bool → Prop) (e : Entry) : Prop :=
  ∀ k, ok e.mic k (e.record k).level (e.record k).acked

theorem Entry.LevelsObey.congr {ok : Nat → Kind → Level → Bool → Prop} {e f : Entry} (h : e.LevelsObey ok)
    (hf : f.levels = e.levels) : f.LevelsObey ok := by
  simp only [Entry.levels, Prod.mk.injEq] at hf
  obtain ⟨hmic, ⟨hbl, hba⟩, ⟨hml, hma⟩, hsl, hsa⟩ := hf
  intro k
  have hk := h k
  rw [← hmic] at hk
  cases k with
  | battery => simpa only [Entry.record, hbl, hba] using hk
  | mute => simpa only [Entry.record, hml, hma] using hk
  | signal => simpa only [Entry.record, hsl, hsa] using hk

/-- A WARN satisfies `ok` with what it says. -/
def Frame.LevelsObey (ok : Nat → Kind → Level → Bool → Prop) (f : Frame) : Prop :=
  ∀ w, f = .warn w → ok w.mic w.kind w.level w.acked

/-- Every record and every queued WARN satisfies `ok`. -/
structure State.LevelsObey (ok : Nat → Kind → Level → Bool → Prop) (s : State) : Prop where
  entries : ∀ e ∈ s.table, e.LevelsObey ok
  queued : ∀ g ∈ s.tx, g.frame.LevelsObey ok

namespace State.LevelsObey

variable {ok : Nat → Kind → Level → Bool → Prop} {s t : State}

theorem frame (h : s.LevelsObey ok) (ht : (t.table, t.tx) = (s.table, s.tx)) : t.LevelsObey ok := by
  obtain ⟨htable, htx⟩ : t.table = s.table ∧ t.tx = s.tx := by simpa using ht
  exact ⟨htable ▸ h.entries, htx ▸ h.queued⟩

theorem withTx (h : s.LevelsObey ok) {q : List TxFrame} (hq : ∀ g ∈ q, g ∈ s.tx ∨ g.frame.LevelsObey ok) :
    State.LevelsObey ok { s with tx := q } :=
  ⟨h.entries, fun g hg => (hq g hg).elim (h.queued g) id⟩

/-! ## Entries -/

theorem mapEntry (h : s.LevelsObey ok) (m : Nat) {f : Entry → Entry} (hf : ∀ e, (f e).levels = e.levels) :
    (s.mapEntry m f).LevelsObey ok := by
  refine ⟨fun e he => ?_, h.queued⟩
  obtain ⟨x, hx, rfl⟩ := State.mem_mapEntry he
  split
  · exact (h.entries x hx).congr (hf x)
  · exact h.entries x hx

theorem modEntry (h : s.LevelsObey ok) (m : Nat) {f : Entry → Entry} (hf : ∀ e, (f e).levels = e.levels) :
    (s.modEntry m f).LevelsObey ok := h.mapEntry m (by exact hf)

theorem modRecord (h : s.LevelsObey ok) (m : Nat) (k : Kind) {f : Record → Record}
    (hf : ∀ r, (f r).level = r.level ∧ (f r).acked = r.acked) : (s.modRecord m k f).LevelsObey ok :=
  h.modEntry m fun _ => Entry.levels_setRecord (hf _).1 (hf _).2

theorem giveInputs (h : s.LevelsObey ok) (m : Nat) : (s.giveInputs m).LevelsObey ok := by
  have given : ∀ (u : State) (k : Kind), u.LevelsObey ok → (u.giveInput m k).LevelsObey ok := fun u k hu => by
    unfold State.giveInput
    split
    · exact hu
    · exact hu.modRecord m k fun r => ⟨Record.step_level .., Record.step_acked ..⟩
  exact given _ _ (given _ _ (given _ _ h))

theorem selectCue (h : s.LevelsObey ok) (m : Nat) : (s.selectCue m).LevelsObey ok := by
  have offer : ∀ (c : Cue) (u : State), u.LevelsObey ok → (u.offerCue c).LevelsObey ok := fun c u hu => by
    unfold State.offerCue
    split <;> exact hu.frame rfl
  unfold State.selectCue
  split
  · exact h
  · split
    · split
      · exact h
      · exact offer _ _ (h.modEntry m (by exact fun _ => rfl))
    · exact h.modEntry m (by exact fun _ => rfl)

/-! ## The transmit queue -/

theorem discardFrame (h : s.LevelsObey ok) (f : Frame) : (s.discardFrame f).LevelsObey ok := by
  rcases State.discardFrame_cases f s with hd | ⟨w, -, hd⟩ <;> rw [hd]
  · exact h
  · refine h.mapEntry w.mic fun e => ?_
    dsimp only
    split
    · rfl
    · exact Entry.levels_setRecord (r := (e.record w.kind).forgotten) rfl rfl

theorem removeWhere (h : s.LevelsObey ok) (drop : Frame → Bool) : (s.removeWhere drop).LevelsObey ok :=
  h.withTx fun _ hg => .inl (List.mem_of_mem_filter hg)

theorem discardWhere (h : s.LevelsObey ok) (drop : Frame → Bool) : (s.discardWhere drop).LevelsObey ok :=
  State.discardWhere_keeps (P := State.LevelsObey ok) (fun f _ hs => hs.discardFrame f) drop (h.removeWhere drop)

theorem submit (h : s.LevelsObey ok) {f : Frame} (hf : f.LevelsObey ok) : (s.submit f).1.LevelsObey ok := by
  rcases State.submit_cases f s with ⟨-, hs⟩ | ⟨-, v, rest, hv, hs⟩ | ⟨-, -, hs⟩ <;> rw [hs]
  · exact h.withTx fun g hg => (mem_placeTx.mp hg).elim (fun he => .inr (he ▸ hf)) .inl
  · obtain ⟨-, -, pre, post, hq, rfl, -⟩ := victimFor_some hv
    have placed : State.LevelsObey ok { s with tx := placeTx ⟨f, 0⟩ (pre ++ post) } := h.withTx fun g hg => by
      rcases mem_placeTx.mp hg with rfl | hg
      · exact .inr hf
      · refine .inl ?_
        rw [hq]
        simp only [List.mem_append, List.mem_cons] at hg ⊢
        tauto
    exact (placed.frame (t := State.count .framesDropped { s with tx := placeTx ⟨f, 0⟩ (pre ++ post) }) rfl).discardFrame _
  · exact h.frame rfl

/-- A WARN is composed from its entry, and says its level and flag. -/
theorem announce (h : s.LevelsObey ok) (m : Nat) (k : Kind) (reason : Reason) : (s.announce m k reason).LevelsObey ok := by
  have requested : (s.requestWarn m k reason).LevelsObey ok := by
    unfold State.requestWarn
    split
    · exact h
    · rename_i e he
      split
      · have composed : (Frame.warn (composeWarn s.now e k reason)).LevelsObey ok := fun w hw => by
          obtain rfl := Frame.warn.inj hw
          exact h.entries e (State.entry?_some he).1 k
        have placed := (h.removeWhere (Frame.warnFor m k)).submit composed
        dsimp only
        split
        · exact placed.modEntry m fun e => Entry.levels_setRecord rfl rfl
        · exact placed
      · exact h
  exact requested.modEntry m fun e => Entry.levels_setRecord rfl rfl

theorem adopt (h : s.LevelsObey ok) (m : Nat) (k : Kind) : (s.adopt m k).LevelsObey ok := by
  unfold State.adopt
  split
  · exact h
  · split
    · exact h.announce ..
    · exact h

theorem requestStation (h : s.LevelsObey ok) (start : Bool) : (s.requestStation start).LevelsObey ok := by
  unfold State.requestStation
  split
  · have placed := (h.removeWhere Frame.isStation).submit (f := .station (composeStation s)) fun w hw => by cases hw
    dsimp only
    split
    · exact placed.frame rfl
    · exact placed
  · exact h

/-! ## The zone and the lost count -/

theorem zoneHandOff (h : s.LevelsObey ok) : s.zoneHandOff.LevelsObey ok := h.frame (by simp [State.zoneHandOff])

theorem zoneEnter (h : s.LevelsObey ok) (cause : ZoneCause) : (s.zoneEnter cause).LevelsObey ok := by
  unfold State.zoneEnter
  extract_lets cleared asked
  have hasked : asked.LevelsObey ok :=
    ((h.discardWhere Frame.lostWarn).frame (t := { cleared with zone := .inForce cause }) rfl).requestStation false
  exact (hasked.frame (t := { asked with zoneRepeat := asked.after asked.params.repeatMs }) rfl).zoneHandOff

theorem zoneEnd (h : s.LevelsObey ok) (hS : SoundLaw s) (fx : Nat → State → State) : (s.zoneEnd fx).LevelsObey ok := by
  have asked : s.zoneEnded.LevelsObey ok :=
    (h.frame (t := { s with zone := .notInForce, zoneRepeat := .stopped }) rfl).requestStation false
  rw [State.zoneEnd_eq, State.reannounceSweep_eq (s.zoneEnded_told.sound hS)]
  refine (State.reannounceVisits_keep (P := State.LevelsObey ok) (fun m _ u hu => ?_) asked).zoneHandOff
  unfold State.reannounce
  split
  · exact hu
  · split
    · exact hu.announce ..
    · exact hu

theorem updateLost (h : s.LevelsObey ok) (hS : SoundLaw s) (fx : Nat → State → State) : (s.updateLost fx).LevelsObey ok := by
  have counted : State.LevelsObey ok { s with lostCount := lostOf s.table } := h.frame rfl
  rcases State.updateLost_cases fx s with hu | ⟨-, hu⟩ | ⟨-, hu⟩ <;> rw [hu]
  · exact counted
  · exact counted.zoneEnter _
  · exact counted.zoneEnd hS fx

theorem selectWarningLamps (h : s.LevelsObey ok) : s.selectWarningLamps.LevelsObey ok :=
  h.frame (by simp [State.selectWarningLamps])

theorem removeEntry (h : s.LevelsObey ok) (hS : SoundLaw s) (fx : Nat → State → State) (m : Nat) :
    (s.removeEntry fx m).LevelsObey ok := by
  have dropped : (s.dropEntry m).LevelsObey ok := ⟨fun e he => h.entries e (List.mem_of_mem_filter he), h.queued⟩
  have cut := State.removeWhere_told (Frame.warnOf m) (s.dropEntry m)
  exact ((dropped.removeWhere _).updateLost (cut.sound (hS.dropEntry m)) fx).selectWarningLamps

/-! ## Roles and presence -/

theorem loseReporter (h : s.LevelsObey ok) (m : Nat) : (s.loseReporter m).LevelsObey ok :=
  (((h.modEntry m (by exact fun _ => rfl)).discardWhere _).modEntry m (by exact fun _ => rfl)).selectCue m

theorem makeFollower (h : s.LevelsObey ok) (m : Nat) : (s.makeFollower m).LevelsObey ok := by
  unfold State.makeFollower
  split
  · exact h
  · split
    · exact h.loseReporter m
    · exact h.modEntry m (by exact fun _ => rfl)

theorem gainReporter (h : s.LevelsObey ok) (m : Nat) : (s.gainReporter m).LevelsObey ok :=
  (((((h.modEntry m (by exact fun _ => rfl)).adopt m _).adopt m _).adopt m _).modEntry m (by exact fun _ => rfl)).selectCue m

theorem computeRole (h : s.LevelsObey ok) (m : Nat) : (s.computeRole m).LevelsObey ok := by
  have decided : ∀ own, (s.decideRole m own).LevelsObey ok := fun own => by
    unfold State.decideRole
    split
    · exact h
    · split
      · split
        · exact h
        · exact h.gainReporter m
      · exact h.makeFollower m
  unfold State.computeRole
  split
  · exact h
  · split
    · exact decided _
    · exact h

theorem presenceRole (h : s.LevelsObey ok) (m : Nat) : (s.presenceRole m).LevelsObey ok := by
  unfold State.presenceRole
  split
  · exact h
  · split
    · exact h
    · exact (h.makeFollower m).modEntry m (by exact fun _ => rfl)
    · split
      · exact h
      · exact h.modEntry m (by exact fun _ => rfl)

theorem becomeCovered (h : s.LevelsObey ok) (hS : SoundLaw s) (m : Nat) : (s.becomeCovered m).LevelsObey ok := by
  have moved : (s.modEntry m Entry.moveCovered).LevelsObey ok := h.modEntry m (by exact fun _ => rfl)
  have sound : SoundLaw (s.modEntry m Entry.moveCovered) := hS.modEntry m _
  unfold State.becomeCovered
  split
  · exact h
  · split
    · exact moved.removeEntry sound _ m
    · have given := (moved.presenceRole m).giveInputs m
      have gsound : SoundLaw (((s.modEntry m Entry.moveCovered).presenceRole m).giveInputs m) :=
        (((State.Follows.refl Entry.place _).presenceRole m).giveInputs m).sound sound
      exact ((given.updateLost gsound _).selectCue m).selectWarningLamps

/-- A claim entered (R108, R110): a SILENT entry becomes COVERED, and else the role is computed. -/
theorem enterClaimFor (h : s.LevelsObey ok) (hS : SoundLaw s) (m : Nat) (c : Claim) : (s.enterClaimFor m c).LevelsObey ok := by
  cases he : s.entry? m with
  | none => simpa only [State.enterClaimFor, he] using h
  | some e =>
    cases hpeer : s.hasPeer c.station with
    | false => rw [State.enterClaimFor_absent hpeer]; exact h
    | true =>
      cases hl : enterClaim s.params c e.claims with
      | none => rw [State.enterClaimFor_dropped he hl]; exact h
      | some l =>
        have listed : (s.modEntry m fun e => { e with claims := l }).LevelsObey ok := h.modEntry m (by exact fun _ => rfl)
        rw [State.enterClaimFor_entered he hpeer hl]
        by_cases hp : e.presence = .silent
        · rw [State.setClaims_covers hS he hp (enterClaim_ne_nil hl)]
          exact (listed.becomeCovered (hS.modEntry m _) m).computeRole m
        · have hstays : s.setClaims m l = (s.modEntry m fun e => { e with claims := l }).computeRole m := by
            simp only [State.setClaims, State.claimsChanged, State.claimsSet_found hS he l]
            rw [if_neg fun hc => hp hc.1, if_neg fun hc => enterClaim_ne_nil hl hc.2]
          rw [hstays]
          exact listed.computeRole m

end State.LevelsObey

end Sys2Proof.Machine
end

section
/-! WARN_TAKEN, step 2 of R119: the frame absorbed by the record of its kind (R72), with the queued WARN marked (R149). -/

namespace Sys2Proof.Machine

/-! ## The queued WARN marked -/

section
variable {mic : Nat} {k : Kind} {l : Level}

/-- A mark sets the flag of a WARN and leaves what it is of. -/
theorem markAcked_frame (g : TxFrame) : (markAcked mic k l g).frame = g.frame ∨
    ∃ v, g.frame = .warn v ∧ v.mic = mic ∧ v.kind = k ∧ v.level = l ∧
      (markAcked mic k l g).frame = .warn { v with acked := true } := by
  by_cases h : ∃ v, g.frame = .warn v ∧ v.mic = mic ∧ v.kind = k ∧ v.level = l
  · obtain ⟨v, hv, hm⟩ := h
    exact .inr ⟨v, hv, hm.1, hm.2.1, hm.2.2, by rw [markAcked_match hv hm]⟩
  · refine .inl ?_
    rw [markAcked_other fun v hv hm => h ⟨v, hv, hm⟩]

theorem markAcked_warnFor (g : TxFrame) (m : Nat) (j : Kind) :
    (markAcked mic k l g).frame.warnFor m j = g.frame.warnFor m j := by
  rcases markAcked_frame (mic := mic) (k := k) (l := l) g with h | ⟨v, hv, -, -, -, h⟩
  · rw [h]
  · rw [h, hv]
    rfl

theorem WarnLaw.frame {s t : State} (h : WarnLaw s) (ht : (t.table, t.tx) = (s.table, s.tx)) : WarnLaw t := by
  obtain ⟨htable, htx⟩ : t.table = s.table ∧ t.tx = s.tx := by simpa using ht
  refine ⟨htx ▸ h.one, fun g hg w hw => ?_⟩
  obtain ⟨e, he, hr⟩ := h.reported g (htx ▸ hg) w hw
  refine ⟨e, ?_, hr⟩
  rw [State.entry?, htable]
  exact he

theorem WarnLaw.ackQueued {s : State} (h : WarnLaw s) (mic : Nat) (k : Kind) (l : Level) : WarnLaw (s.ackQueued mic k l) where
  one := by
    rw [State.ackQueued_tx, List.pairwise_map]
    refine h.one.imp fun hab m j => ?_
    rw [markAcked_warnFor, markAcked_warnFor]
    exact hab m j
  reported := fun t ht w hw => by
    obtain ⟨g, hg, rfl⟩ := List.mem_map.mp ht
    rcases markAcked_frame (mic := mic) (k := k) (l := l) g with hf | ⟨v, hv, -, -, -, hf⟩
    · exact h.reported g hg w (hf ▸ hw)
    · obtain rfl := Frame.warn.inj (hf.symm.trans hw)
      exact h.reported g hg v hv

end

/-! ## The record told -/

theorem Record.matchesWarn_iff (r : Record) (w : Warn) :
    r.matchesWarn w = true ↔ w.acked = true ∧ w.level = r.level ∧ w.level ≠ .none := by
  simp [Record.matchesWarn, and_assoc]

/-- A told record field by field (R72, R76). -/
theorem Record.absorb_eq (w : Warn) (r : Record) : r.absorb w = { r with
    acked := r.acked || r.matchesWarn w
    chamber := .told w.level
    chamberAcked := w.acked && decide (w.level ≠ .none)
    repeatTimer := if r.matchesWarn w = true then .stopped else r.repeatTimer } := by
  unfold Record.absorb
  dsimp only
  rw [Bool.and_comm]
  split
  · simp [*]
  · simp [*]

/-- The entry whose record of the frame's kind has absorbed the frame. -/
def Entry.absorbed (w : Warn) (e : Entry) : Entry := e.setRecord w.kind ((e.record w.kind).absorb w)

section
variable {w : Warn} {e : Entry}

@[simp] theorem Entry.absorbed_mic : (e.absorbed w).mic = e.mic := by simp [Entry.absorbed]

@[simp] theorem Entry.absorbed_role : (e.absorbed w).role = e.role := by simp [Entry.absorbed]

/-- A matching acknowledgement lets a held entry go when it is of its SIGNAL record (R29). -/
theorem Entry.absorbed_letGo (h : (e.record w.kind).matchesWarn w = true) :
    (w.kind = .signal ∧ (e.absorbed w).letGo = true) ↔ w.kind = .signal ∧ e.presence = .silent ∧ e.lostForget = .expired := by
  refine and_congr_right fun hk => ?_
  have hacked : (e.absorbed w).recSignal.acked = true := by
    simp only [Entry.absorbed, hk, Entry.setRecord, Record.absorb_eq]
    rw [hk] at h
    simp [h]
  have hsame : (e.absorbed w).presence = e.presence ∧ (e.absorbed w).lostForget = e.lostForget := by
    simp only [Entry.absorbed, hk]
    exact ⟨rfl, rfl⟩
  rw [Entry.letGo_iff, hsame.1, hsame.2]
  exact ⟨fun ⟨hp, hf, _⟩ => ⟨hp, hf⟩, fun ⟨hp, hf⟩ => ⟨hp, hf, hacked⟩⟩

end

/-! ## The absorption -/

/-- The state that has absorbed a WARN for the entry `e`: the record told, and for a matching acknowledgement the queued WARN
marked. -/
def State.absorbed (w : Warn) (e : Entry) (s : State) : State :=
  let told := s.modRecord w.mic w.kind (Record.absorb w)
  if (e.record w.kind).matchesWarn w then told.ackQueued w.mic w.kind w.level else told

section
variable {s : State} {w : Warn} {e : Entry}

theorem State.absorbed_table (w : Warn) (e : Entry) (s : State) :
    (s.absorbed w e).table = (s.modRecord w.mic w.kind (Record.absorb w)).table := by
  unfold State.absorbed
  split <;> rfl

theorem State.absorbed_tx (w : Warn) (e : Entry) (s : State) : (s.absorbed w e).tx =
    if (e.record w.kind).matchesWarn w = true then s.tx.map (markAcked w.mic w.kind w.level) else s.tx := by
  unfold State.absorbed
  split <;> rfl

theorem State.absorbed_entry (hS : SoundLaw s) (he : s.entry? w.mic = some e) :
    (s.absorbed w e).entry? w.mic = some (e.absorbed w) := by
  have hfound : (s.modRecord w.mic w.kind (Record.absorb w)).entry? w.mic = some (e.absorbed w) := by
    refine (State.modEntry_found he _ fun x => by simp).trans (congrArg some (Entry.checked_eq ?_))
    rw [Entry.setRecord_checkGood]
    exact hS e (State.entry?_some he).1
  rw [State.entry?, State.absorbed_table]
  exact hfound

theorem State.absorbed_changed (hT : TableLaw s) (he : s.entry? w.mic = some e) :
    s.Changed (s.absorbed w e) w.mic (e.absorbed w) := by
  have told : s.Changed (s.modRecord w.mic w.kind (Record.absorb w)) w.mic (e.absorbed w) :=
    State.modEntry_changed hT he fun x => x.setRecord w.kind ((x.record w.kind).absorb w)
  unfold State.absorbed
  split
  · exact told.told (State.ackQueued_told ..)
  · exact told

theorem State.absorbed_warnLaw (h : WarnLaw s) : WarnLaw (s.absorbed w e) := by
  have told : WarnLaw (s.modRecord w.mic w.kind (Record.absorb w)) :=
    h.modEntry w.mic (fun x => by simp) fun x => by simp
  unfold State.absorbed
  split
  · exact told.ackQueued ..
  · exact told

theorem State.absorbed_zone (w : Warn) (e : Entry) (s : State) : (s.absorbed w e).zone = s.zone := by
  unfold State.absorbed
  split <;> rfl

/-- The hand-offs of R71: the held entry is let go, or a lamp is selected. -/
theorem State.absorbWarn_eq (hS : SoundLaw s) (he : s.entry? w.mic = some e) : s.absorbWarn w e =
    if (e.record w.kind).matchesWarn w = true then
      if w.kind = .signal ∧ e.presence = .silent ∧ e.lostForget = .expired then
        (s.absorbed w e).removeEntry State.entryFault w.mic
      else (s.absorbed w e).selectLamp (lampOf w.kind)
    else s.absorbed w e := by
  unfold State.absorbWarn
  dsimp only
  split
  · rename_i hm
    have hfound := State.absorbed_entry hS he
    have hmarked : s.absorbed w e = (s.modRecord w.mic w.kind (Record.absorb w)).ackQueued w.mic w.kind w.level := if_pos hm
    rw [← hmarked]
    simp only [State.ackHandOff, hfound, Entry.absorbed_letGo hm]
  · rename_i hm
    exact (if_neg hm).symm

/-- The level and flag of the frame's record as a matching acknowledgement leaves them everywhere. -/
def Warn.marks (w : Warn) (m : Nat) (k : Kind) (l : Level) (acked : Bool) : Prop :=
  m = w.mic → k = w.kind → l = w.level → acked = true

/-- After a matching acknowledgement every record and every queued WARN of that pair and level is acknowledged (R149). -/
theorem State.absorbed_marks (hT : TableLaw s) (he : s.entry? w.mic = some e) (hm : (e.record w.kind).matchesWarn w = true) :
    (s.absorbed w e).LevelsObey w.marks := by
  obtain ⟨hmem, hmic⟩ := State.entry?_some he
  refine ⟨fun x hx k hxm hk _ => ?_, fun g hg v hv hvm hvk hvl => ?_⟩
  · rw [State.absorbed_table] at hx
    obtain ⟨y, hy, rfl⟩ := State.mem_modEntry hx
    split at hxm
    · rename_i hym
      obtain rfl := hT.unique hy hmem (hym.trans hmic.symm)
      subst hk
      rw [if_pos hym, Entry.record_checked, Entry.record_setRecord_same, Record.absorb_eq]
      simp [hm]
    · exact absurd hxm ‹_›
  · rw [State.absorbed_tx, if_pos hm] at hg
    obtain ⟨x, -, rfl⟩ := List.mem_map.mp hg
    rcases markAcked_frame (mic := w.mic) (k := w.kind) (l := w.level) x with hf | ⟨u, -, -, -, -, hf⟩
    · rw [markAcked_match (hf.symm.trans hv) ⟨hvm, hvk, hvl⟩] at hv
      exact (congrArg Warn.acked (Frame.warn.inj hv)).symm
    · rw [hf] at hv
      exact (congrArg Warn.acked (Frame.warn.inj hv)).symm

end

end Sys2Proof.Machine
end

section
/-! WARN_TAKEN, steps 3 to 5 of R119 (the claim, the yield and the takeover cancel), and the whole (O44). -/

namespace Sys2Proof.Machine

/-! ## The claim of a sender that hears -/

section
variable {s : State} {source : Nat} {w : Warn} {e : Entry}

/-- What the claim of the frame makes of the entry. -/
def State.warnClaimed (source : Nat) (w : Warn) (s : State) (e : Entry) : Option Entry :=
  if w.hears then s.claimedBy source e ⟨w.mic, w.q, w.reporter⟩ else some e

/-- A claim that leaves an entry SILENT has not been entered. -/
theorem State.enterClaimFor_silent {mic : Nat} (he : s.entry? mic = some e) (hsource : source ≠ 0) {p : Pair} (hp : p.mic = mic)
    {f : Entry} (hf : s.claimedBy source e p = some f) (hsilent : f.presence = .silent) :
    s.enterClaimFor mic ⟨source, p.q, p.reporter, s.now⟩ = s ∧ f = e := by
  rcases State.claimedBy_cases (s := s) (source := source) (hp.trans (State.entry?_some he).2.symm) with
    ⟨hdrop, hclaimed⟩ | ⟨-, -, l, -, ⟨-, -, hclaimed⟩ | ⟨-, -, hclaimed⟩ | ⟨hother, hclaimed⟩⟩
  · refine ⟨?_, Option.some.inj (hf.symm.trans hclaimed)⟩
    rcases hdrop with h | h | h
    · exact absurd h hsource
    · exact State.enterClaimFor_absent h mic
    · exact State.enterClaimFor_dropped he h
  · exact absurd (hf.symm.trans hclaimed) (by simp)
  · obtain rfl := Option.some.inj (hf.symm.trans hclaimed)
    have hcovered : (s.covered { e with claims := l }).presence = .covered := rfl
    rw [hcovered] at hsilent
    cases hsilent
  · obtain rfl := Option.some.inj (hf.symm.trans hclaimed)
    rw [State.roleComputed_presence] at hsilent
    exact absurd hsilent hother

/-- Step 3 of R119. -/
theorem State.warnClaim_spec (hT : TableLaw s) (hS : SoundLaw s) (he : s.entry? w.mic = some e) : let t := s.warnClaim source w
    (∀ f, s.warnClaimed source w e = some f → s.Changed t w.mic f ∧ f.mic = w.mic ∧
      (w.hears = false ∨ WarnLaw s → s.tellings t e f.role) ∧ (w.hears = false ∨ f.presence = .silent → t = s ∧ f = e)) ∧
    (s.warnClaimed source w e = none → s.Removed t w.mic) := by
  have hmic := (State.entry?_some he).2
  unfold State.warnClaimed
  by_cases hc : w.hears = true ∧ source ≠ 0
  · obtain ⟨hhears, hsource⟩ := hc
    have ht : s.warnClaim source w = s.enterClaimFor w.mic ⟨source, w.q, w.reporter, s.now⟩ := if_pos ⟨hhears, hsource⟩
    rw [ht, if_pos hhears]
    obtain ⟨hstays, hremoves, -⟩ := State.enterClaimFor_spec hT hS he hsource (p := ⟨w.mic, w.q, w.reporter⟩) rfl
    refine ⟨fun f hf => ?_, hremoves⟩
    obtain ⟨changed, hfmic, htell⟩ := hstays f hf
    refine ⟨changed, hfmic, fun h => htell (.inl (h.resolve_left (by simp [hhears]))), fun h => ?_⟩
    exact State.enterClaimFor_silent he hsource (p := ⟨w.mic, w.q, w.reporter⟩) rfl hf (h.resolve_left (by simp [hhears]))
  · have ht : s.warnClaim source w = s := if_neg hc
    have hsame : (if w.hears = true then s.claimedBy source e ⟨w.mic, w.q, w.reporter⟩ else some e) = some e := by
      split
      · refine if_pos (.inr (.inl ?_))
        by_contra hsource
        exact hc ⟨‹_›, hsource⟩
      · rfl
    rw [ht, hsame]
    refine ⟨fun f hf => ?_, fun h => absurd h (by simp)⟩
    obtain rfl := Option.some.inj hf
    exact ⟨.refl hT he, hmic, fun _ => State.tellings_refl (hmic ▸ he), fun _ => ⟨rfl, rfl⟩⟩

/-! ## The yield (R115) -/

theorem State.yieldTo_stays (he : s.entry? w.mic = some e)
    (h : ¬(e.presence = .silent ∧ e.role = .reporter ∧ w.reporter = true ∧ source < s.number)) : s.yieldTo source w = s := by
  simp only [State.yieldTo, he]
  exact if_neg h

/-- A SILENT reporter yields to a lower-numbered one. -/
theorem State.yieldTo_yields (hT : TableLaw s) (he : s.entry? w.mic = some e)
    (h : e.presence = .silent ∧ e.role = .reporter ∧ w.reporter = true ∧ source < s.number) : let t := s.yieldTo source w
    s.Changed t w.mic { e with
      role := .follower, cue := 0, cueRefresh := .stopped, takeover := .running (s.now + s.params.repeatInterval * 1000) } ∧
    t.tx = s.tx.filter (fun g => !g.frame.warnOf w.mic) ∧ s.tellings t e .follower := by
  have hmic := (State.entry?_some he).2
  have ht : s.yieldTo source w = (s.loseReporter w.mic).modEntry w.mic fun x => { x with takeover := s.after s.params.repeatMs } := by
    simp only [State.yieldTo, he]
    exact if_pos h
  have lost := State.loseReporter_changed hT he
  rw [State.recued_of_not_heard (e := { e with role := .follower }) (by simp [h.1])] at lost
  have timed : Entry.Unheeding fun x => { x with takeover := s.after s.params.repeatMs } := fun _ => rfl
  rw [ht]
  refine ⟨lost.andThen hmic (by simp [he]) timed fun x hx => ?_, ?_, ?_⟩
  · exact State.modEntry_changed (lost.table hmic hT) hx fun x => { x with takeover := s.after s.params.repeatMs }
  · rw [State.modEntry_tx, State.loseReporter, State.selectCue_tx, State.modEntry_tx, State.discardWhere_tx, State.modEntry_tx]
  · obtain ⟨x, hx, hxk⟩ := State.loseReporter_found he h.2.1
    have htimed := State.modEntry_found hx (fun x => { x with takeover := s.after s.params.repeatMs }) fun _ => rfl
    refine State.tellings_follower (by decide) fun f hf k => ?_
    obtain rfl := Option.some.inj (htimed.symm.trans (hmic ▸ hf))
    rw [← hxk k]
    cases k <;> rfl

/-! ## The takeover cancel (R116) -/

/-- The entry whose running takeover news of the loss has cancelled. -/
def Entry.takeoverCancelled (w : Warn) (e : Entry) : Entry :=
  { e with takeover :=
      if (w.kind = .signal ∧ w.level = .higher) ∧ e.presence = .silent ∧ e.takeover.isRunning = true then .stopped
      else e.takeover }

theorem State.cancelTakeover_spec (hT : TableLaw s) (he : s.entry? w.mic = some e) : let t := s.cancelTakeover w
    s.Changed t w.mic (e.takeoverCancelled w) ∧
    t.tx = s.tx ∧ ∃ f, t.entry? w.mic = some f ∧ ∀ k, f.record k = e.record k := by
  by_cases hc : e.presence = .silent ∧ e.takeover.isRunning = true ∧ w.kind = .signal ∧ w.level = .higher
  · have ht : s.cancelTakeover w = s.modEntry w.mic fun x => { x with takeover := .stopped } := by
      simp only [State.cancelTakeover, he]
      exact if_pos hc
    rw [ht, Entry.takeoverCancelled, if_pos ⟨hc.2.2, hc.1, hc.2.1⟩]
    refine ⟨State.modEntry_changed hT he fun x => { x with takeover := .stopped }, rfl, _,
      State.modEntry_found he _ fun _ => rfl, fun k => ?_⟩
    cases k <;> rfl
  · have ht : s.cancelTakeover w = s := by
      simp only [State.cancelTakeover, he]
      exact if_neg hc
    rw [ht, Entry.takeoverCancelled, if_neg fun h => hc ⟨h.2.1, h.2.2, h.1⟩]
    exact ⟨.refl hT he, rfl, e, he, fun _ => rfl⟩

/-- Steps 4 and 5 find nothing to do when the entry is gone. -/
theorem State.yieldCancel_gone (he : s.entry? w.mic = none) : (s.yieldTo source w).cancelTakeover w = s := by
  have hyield : s.yieldTo source w = s := by simp only [State.yieldTo, he]
  rw [hyield]
  simp only [State.cancelTakeover, he]

/-- Steps 3 to 5 find nothing to do when the entry is gone. -/
theorem State.warnSteps_gone (he : s.entry? w.mic = none) :
    (((s.warnClaim source w).yieldTo source w).cancelTakeover w) = s := by
  have hclaim : s.warnClaim source w = s := by
    unfold State.warnClaim
    split
    · simp only [State.enterClaimFor, he]
    · rfl
  rw [hclaim]
  exact State.yieldCancel_gone he

end

namespace State.LevelsObey

variable {ok : Nat → Kind → Level → Bool → Prop} {s : State}

/-- Steps 3 to 5 of R119 leave what records and queued WARN frames say of levels. -/
theorem warnSteps (h : s.LevelsObey ok) (hS : SoundLaw s) (source : Nat) (w : Warn) :
    (((s.warnClaim source w).yieldTo source w).cancelTakeover w).LevelsObey ok := by
  have claimed : (s.warnClaim source w).LevelsObey ok := by
    unfold State.warnClaim
    split
    · exact h.enterClaimFor hS ..
    · exact h
  have yielded : ((s.warnClaim source w).yieldTo source w).LevelsObey ok := by
    unfold State.yieldTo
    split
    · exact claimed
    · split
      · exact (claimed.loseReporter _).modEntry _ (by exact fun _ => rfl)
      · exact claimed
  unfold State.cancelTakeover
  split
  · exact yielded
  · split
    · exact yielded.modEntry _ (by exact fun _ => rfl)
    · exact yielded

end State.LevelsObey

/-! ## Steps 3 to 5 for an entry -/

section
variable {s : State} {source : Nat} {w : Warn} {e : Entry}

/-- Whether the entry, a SILENT one, yields to the sender. -/
def Entry.yields (source number : Nat) (w : Warn) (f : Entry) : Prop :=
  f.presence = .silent ∧ f.role = .reporter ∧ w.reporter = true ∧ source < number

/-- The entry that has yielded: its takeover timer runs, unless the frame was news of the loss. -/
def State.yielded (w : Warn) (s : State) (f : Entry) : Entry :=
  { f with
    role := .follower
    cue := 0
    cueRefresh := .stopped
    takeover := if w.kind = .signal ∧ w.level = .higher then .stopped else .running (s.now + s.params.repeatInterval * 1000) }

/-- An entry that yields, with its takeover cancelled again by news of the loss. -/
theorem State.warnSteps_yield (hT : TableLaw s) (hS : SoundLaw s) (he : s.entry? w.mic = some e) {f : Entry}
    (hf : s.warnClaimed source w e = some f) (hy : f.yields source s.number w) :
    let t := ((s.warnClaim source w).yieldTo source w).cancelTakeover w
    s.Changed t w.mic (s.yielded w f) ∧
    t.tx = s.tx.filter (fun g => !g.frame.warnOf w.mic) ∧ s.tellings t e .follower := by
  have hmic := (State.entry?_some he).2
  obtain ⟨hsame, rfl⟩ := ((State.warnClaim_spec hT hS he).1 f hf).2.2.2 (.inr hy.1)
  rw [hsame]
  obtain ⟨yielded, htx, htell⟩ := State.yieldTo_yields hT he hy
  obtain ⟨x, hx, hxf⟩ := yielded.found hmic (by simp [he])
  obtain ⟨cancelled, hctx, z, hz, hzk⟩ := State.cancelTakeover_spec (yielded.table hmic hT) hx
  have hpresence : x.presence = .silent := (Entry.presence_of_untold hxf).trans hy.1
  have htakeover : x.takeover = .running (s.now + s.params.repeatInterval * 1000) :=
    show x.untold.takeover = _ from (congrArg Entry.takeover hxf)
  have stopped : Entry.Unheeding fun y => { y with takeover := (s.yielded w f).takeover } := fun _ => rfl
  refine ⟨yielded.trans ?_ (cancelled.congr ?_), hctx.trans htx, State.tellings_later htell (fun g hg => ?_) fun h => ?_⟩
  · exact hmic
  · have htimer : x.takeoverCancelled w = { x with takeover := (s.yielded w f).takeover } := by
      simp [Entry.takeoverCancelled, hpresence, htakeover, Timer.isRunning, State.yielded]
    rw [htimer]
    exact stopped.congr hxf
  · rw [hmic] at hg ⊢
    obtain rfl := Option.some.inj (hz.symm.trans hg)
    exact ⟨x, hx, fun k => by rw [hzk]⟩
  · cases h

/-- An entry that does not yield, with its takeover cancelled by news of the loss. -/
theorem State.warnSteps_stay (hT : TableLaw s) (hS : SoundLaw s) (he : s.entry? w.mic = some e) {f : Entry}
    (hf : s.warnClaimed source w e = some f) (hy : ¬f.yields source s.number w) :
    let t := ((s.warnClaim source w).yieldTo source w).cancelTakeover w
    s.Changed t w.mic (f.takeoverCancelled w) ∧
    (w.hears = false → t.tx = s.tx) ∧ (w.hears = false ∨ WarnLaw s → s.tellings t e f.role) := by
  have hmic := (State.entry?_some he).2
  obtain ⟨changed, hfmic, htell, hidle⟩ := (State.warnClaim_spec hT hS he).1 f hf
  obtain ⟨x, hx, hxf⟩ := changed.found hfmic (by simp [he])
  have hnumber : (s.warnClaim source w).number = s.number := by
    have := State.conditions_of_onlyHandOffs changed.only
    simp only [State.conditions, Prod.mk.injEq] at this
    exact this.2.2.2.1
  have hstays : (s.warnClaim source w).yieldTo source w = s.warnClaim source w := State.yieldTo_stays hx fun h => by
    rw [Entry.presence_of_untold hxf, Entry.role_of_untold hxf, hnumber] at h
    exact hy h
  rw [hstays]
  obtain ⟨cancelled, hctx, z, hz, hzk⟩ := State.cancelTakeover_spec (changed.table hfmic hT) hx
  have cancelling : Entry.Unheeding (Entry.takeoverCancelled w) := fun _ => rfl
  refine ⟨changed.trans hfmic (cancelled.congr (cancelling.congr hxf)), fun hh => ?_, fun h => ?_⟩
  · rw [hctx, (hidle (.inl hh)).1]
  · refine State.tellings_later (htell h) (fun g hg => ?_) fun _ => hctx
    rw [hmic] at hg ⊢
    obtain rfl := Option.some.inj (hz.symm.trans hg)
    exact ⟨x, hx, fun k => by rw [hzk]⟩

end

end Sys2Proof.Machine
end

section
/-! WARN_TAKEN settled (O44): the frame absorbed, and steps 3 to 5 of R119 for the entry that stays. -/

namespace Sys2Proof.Machine

section
variable {s : State} {source : Nat} {w : Warn} {e : Entry}

/-- A held entry that the acknowledgement of its LOST lets go (R29). -/
def Entry.releasedBy (w : Warn) (e : Entry) : Prop :=
  w.kind = .signal ∧ (e.record w.kind).matchesWarn w = true ∧ e.presence = .silent ∧ e.lostForget = .expired

theorem State.absorbed_filter (w : Warn) (e : Entry) (s : State) :
    ((s.absorbed w e).table.filter fun x => x.mic ≠ w.mic) = s.table.filter fun x => x.mic ≠ w.mic := by
  rw [State.absorbed_table]
  exact State.modEntry_filter w.mic (fun x => by simp) s

/-! ## The entry is let go -/

theorem State.applyWarn_releases (hT : TableLaw s) (hS : SoundLaw s) (he : s.entry? w.mic = some e) (h : e.releasedBy w) :
    s.Removed (s.applyWarn source w e) w.mic := by
  obtain ⟨hk, hm, hp, hf⟩ := h
  have changed := State.absorbed_changed hT he
  have sound := changed.sound hS
  have habsorb : s.absorbWarn w e = (s.absorbed w e).removeEntry State.entryFault w.mic := by
    rw [State.absorbWarn_eq hS he, if_pos hm, if_pos ⟨hk, hp, hf⟩]
  obtain ⟨only, gone, view, queue⟩ := State.removeEntry_leaves sound w.mic
  have ht : s.applyWarn source w e = (s.absorbed w e).removeEntry State.entryFault w.mic := by
    rw [State.applyWarn, habsorb]
    exact State.warnSteps_gone gone
  rw [ht]
  exact ⟨State.onlyHandOffs_trans changed.only only, gone, by rw [view, State.absorbed_filter],
    State.removeEntry_lostCount sound w.mic _, queue⟩

/-! ## The entry stays -/

/-- What an absorption that leaves the entry leaves of the state: the lamps and ATTN beside it may differ. -/
structure State.Absorbs (s b : State) (w : Warn) (e : Entry) : Prop where
  changed : s.Changed b w.mic (e.absorbed w)
  entry : b.entry? w.mic = some (e.absorbed w)
  table : b.table = (s.absorbed w e).table
  tx : b.tx = (s.absorbed w e).tx
  zone : b.zone = s.zone

theorem State.absorbWarn_absorbs (hT : TableLaw s) (hS : SoundLaw s) (he : s.entry? w.mic = some e) (h : ¬e.releasedBy w) :
    s.Absorbs (s.absorbWarn w e) w e := by
  have changed := State.absorbed_changed hT he
  have hentry := State.absorbed_entry hS he
  rw [State.absorbWarn_eq hS he]
  split
  · rename_i hm
    rw [if_neg fun hr => h ⟨hr.1, hm, hr.2⟩]
    refine ⟨changed.told (State.selectLamp_told ..), ?_, by simp, by simp, by simp [State.absorbed_zone]⟩
    rw [State.entry?, State.selectLamp_table]
    exact hentry
  · exact ⟨changed, hentry, rfl, rfl, State.absorbed_zone ..⟩

namespace State.Absorbs

variable {b t : State}

theorem conditions (h : s.Absorbs b w e) : b.conditions = s.conditions := State.conditions_of_onlyHandOffs h.changed.only

theorem warnClaimed (h : s.Absorbs b w e) : b.warnClaimed source w = s.warnClaimed source w := by
  funext x
  simp only [State.warnClaimed, State.claimedBy_of_conditions h.conditions]

theorem warnLaw (h : s.Absorbs b w e) (hw : WarnLaw s) : WarnLaw b :=
  (State.absorbed_warnLaw (w := w) (e := e) hw).frame (by rw [h.table, h.tx])

/-- The mark leaves which records have a WARN queued, so that what is told after it is told of the event. -/
theorem tellings (h : s.Absorbs b w e) {x : Entry} {role : Role} (ht : b.tellings t x role) : s.tellings t x role := by
  have hcond := h.conditions
  simp only [State.conditions, Prod.mk.injEq] at hcond
  obtain ⟨hnow, hst, hparams, -⟩ := hcond
  have htx : b.tx = s.tx ∨ b.tx = s.tx.map (markAcked w.mic w.kind w.level) := by
    rw [h.tx, State.absorbed_tx]
    split
    · exact .inr rfl
    · exact .inl rfl
  refine State.tellings_between ht (by rw [hnow, hst, hparams, h.zone]) (fun k => ?_) ?_ (.refl t)
  · rcases htx with htx | htx <;> rw [htx]
    simp only [List.mem_map, exists_exists_and_eq_and, markAcked_warnFor]
  · rcases htx with htx | htx <;> rw [htx]
    rw [List.length_map]

end State.Absorbs

/-- The claim of the sender ends the entry (R27). -/
theorem State.applyWarn_removes (hT : TableLaw s) (hS : SoundLaw s) (he : s.entry? w.mic = some e) (h : ¬e.releasedBy w)
    (hc : s.warnClaimed source w (e.absorbed w) = none) : s.Removed (s.applyWarn source w e) w.mic := by
  have absorbs := State.absorbWarn_absorbs hT hS he h
  have hmic : (e.absorbed w).mic = w.mic := Entry.absorbed_mic.trans (State.entry?_some he).2
  have removed := (State.warnClaim_spec (source := source) (absorbs.changed.table hmic hT) (absorbs.changed.sound hS) absorbs.entry).2
    (absorbs.warnClaimed ▸ hc)
  have ht : s.applyWarn source w e = (s.absorbWarn w e).warnClaim source w := State.yieldCancel_gone removed.gone
  rw [ht]
  refine ⟨State.onlyHandOffs_trans absorbs.changed.only removed.only, removed.gone, ?_, removed.counted, removed.queue⟩
  rw [removed.view, absorbs.table, State.absorbed_filter]

/-- The entry yields (R115). -/
theorem State.applyWarn_yields (hT : TableLaw s) (hS : SoundLaw s) (he : s.entry? w.mic = some e) (h : ¬e.releasedBy w) {f : Entry}
    (hf : s.warnClaimed source w (e.absorbed w) = some f) (hy : f.yields source s.number w) : let t := s.applyWarn source w e
    s.Changed t w.mic (s.yielded w f) ∧ t.tx = (s.absorbed w e).tx.filter (fun g => !g.frame.warnOf w.mic) ∧
      s.tellings t (e.absorbed w) .follower := by
  have absorbs := State.absorbWarn_absorbs hT hS he h
  have hmic : (e.absorbed w).mic = w.mic := Entry.absorbed_mic.trans (State.entry?_some he).2
  have hcond := absorbs.conditions
  simp only [State.conditions, Prod.mk.injEq] at hcond
  obtain ⟨hnow, -, hparams, hnumber, -⟩ := hcond
  obtain ⟨changed, htx, htell⟩ := State.warnSteps_yield (absorbs.changed.table hmic hT) (absorbs.changed.sound hS) absorbs.entry
    (absorbs.warnClaimed ▸ hf) (hnumber ▸ hy)
  have hyielded : (s.absorbWarn w e).yielded w f = s.yielded w f := by simp only [State.yielded, hnow, hparams]
  exact ⟨absorbs.changed.trans hmic (hyielded ▸ changed), absorbs.tx ▸ htx, absorbs.tellings htell⟩

/-- The entry keeps what the claim made of it, but for a takeover that news of the loss cancels (R116). -/
theorem State.applyWarn_stays (hT : TableLaw s) (hS : SoundLaw s) (he : s.entry? w.mic = some e) (h : ¬e.releasedBy w) {f : Entry}
    (hf : s.warnClaimed source w (e.absorbed w) = some f) (hy : ¬f.yields source s.number w) : let t := s.applyWarn source w e
    s.Changed t w.mic (f.takeoverCancelled w) ∧
    (w.hears = false → t.tx = (s.absorbed w e).tx) ∧
    (w.hears = false ∨ WarnLaw s → s.tellings t (e.absorbed w) f.role) := by
  have absorbs := State.absorbWarn_absorbs hT hS he h
  have hmic : (e.absorbed w).mic = w.mic := Entry.absorbed_mic.trans (State.entry?_some he).2
  have hcond := absorbs.conditions
  simp only [State.conditions, Prod.mk.injEq] at hcond
  obtain ⟨-, -, -, hnumber, -⟩ := hcond
  obtain ⟨changed, htx, htell⟩ := State.warnSteps_stay (absorbs.changed.table hmic hT) (absorbs.changed.sound hS) absorbs.entry
    (absorbs.warnClaimed ▸ hf) (hnumber ▸ hy)
  exact ⟨absorbs.changed.trans hmic changed, fun hh => (htx hh).trans absorbs.tx,
    fun hc => absorbs.tellings (htell (hc.imp_right absorbs.warnLaw))⟩

/-! ## The flags of the queued WARN frames (R149) -/

theorem State.applyWarn_marks (hT : TableLaw s) (hS : SoundLaw s) (he : s.entry? w.mic = some e)
    (hm : (e.record w.kind).matchesWarn w = true) : (s.applyWarn source w e).LevelsObey w.marks := by
  have marked := State.absorbed_marks hT he hm
  have sound := (State.absorbed_changed hT he).sound hS
  have absorbed : (s.absorbWarn w e).LevelsObey w.marks := by
    rw [State.absorbWarn_eq hS he, if_pos hm]
    split
    · exact marked.removeEntry sound _ w.mic
    · exact marked.frame (by simp)
  have asound : SoundLaw (s.absorbWarn w e) := ((State.Follows.refl Entry.place s).absorbWarn w e).sound hS
  exact absorbed.warnSteps asound source w

/-- What an entry makes of a WARN is hand-offs. -/
theorem State.applyWarn_only (hT : TableLaw s) (hS : SoundLaw s) (he : s.entry? w.mic = some e) :
    s.onlyHandOffs (s.applyWarn source w e) := by
  by_cases h : e.releasedBy w
  · exact (State.applyWarn_releases hT hS he h).only
  · cases hf : s.warnClaimed source w (e.absorbed w) with
    | none => exact (State.applyWarn_removes hT hS he h hf).only
    | some f =>
      by_cases hy : f.yields source s.number w
      · exact (State.applyWarn_yields hT hS he h hf hy).1.only
      · exact (State.applyWarn_stays hT hS he h hf hy).1.only

end

/-- Settles O44: the entry is let go or ended by the claim, or it yields, or it stays. -/
theorem warnTaken : Obligations.WarnTaken := by
  unfold Obligations.WarnTaken
  intro s source w rest hT hS hi hrx taken
  let met : State := { taken with inDispatch := some ⟨source, .warn w⟩ }
  have hdone : { met with inDispatch := none } = taken := by rw [← hi]
  have hexec : ∀ u, met.verified State.entryFault w.mic (State.applyWarn source w) = u →
      exec .warnTaken s = .next { u with inDispatch := none } := fun u hu => by
    rw [← hu]
    exact congrArg _ (State.dispatch_eq hi hrx rfl)
  have hmetT : TableLaw met := ⟨hT.ascending, hT.atMost96, hT.seats, hT.queuedSeats⟩
  have hmetS : SoundLaw met := hS
  refine ⟨fun hnone => ?_, fun e he => ?_⟩
  · have hnone' : met.entry? w.mic = none := hnone
    rw [hexec met (by simp only [State.verified, hnone']), hdone]
  · have hmet : met.entry? w.mic = some e := he
    intro r acks told gone lost claimed removed queue
    have hacks : (e.record w.kind).matchesWarn w = true ↔ acks := Record.matchesWarn_iff ..
    have hgone : gone ↔ e.releasedBy w := and_congr_right fun _ => and_congr_left fun _ => hacks.symm
    have htold : told = e.absorbed w := by
      have hbool : decide acks = (e.record w.kind).matchesWarn w := by
        rw [Bool.eq_iff_iff, decide_eq_true_iff]
        exact hacks.symm
      rw [Entry.absorbed, Record.absorb_eq, if_congr hacks rfl rfl, ← hbool]
    have hclaimed : claimed = met.warnClaimed source w (e.absorbed w) := by
      rw [← htold, State.warnClaimed, State.claimedBy_of_conditions (t := met) (s := s) rfl]
    have hqueue : queue = (met.absorbed w e).tx := by
      rw [State.absorbed_tx]
      exact (if_congr hacks rfl rfl).symm
    refine ⟨_, hexec _ (State.verified_entry hmetS hmet _ _), ?_, fun ha g hg v hv hvm hvk hvl => ?_, fun hg => ?_, fun hg hc => ?_,
      ?_⟩
    · exact State.onlyHandOffs_dispatched (f := met.inDispatch) hi (State.applyWarn_only hmetT hmetS hmet)
    · exact (State.applyWarn_marks hmetT hmetS hmet (hacks.mpr ha)).queued g hg v hv hvm hvk hvl
    · exact (State.applyWarn_releases hmetT hmetS hmet (hgone.mp hg)).view
    · exact (State.applyWarn_removes hmetT hmetS hmet (hgone.not.mp hg) (hclaimed ▸ hc)).view
    · intro f hg hf yields
      have hstays : ¬e.releasedBy w := hgone.not.mp hg
      rw [hclaimed] at hf
      rw [hqueue, htold]
      by_cases hy : yields
      · obtain ⟨changed, htx, htell⟩ := State.applyWarn_yields hmetT hmetS hmet hstays hf hy
        rw [if_pos hy, if_pos hy]
        exact ⟨fun _ => changed.view, fun h => absurd hy h, fun _ => htx, fun _ => State.tellings_earlier htell rfl⟩
      · obtain ⟨changed, htx, htell⟩ := State.applyWarn_stays hmetT hmetS hmet hstays hf hy
        rw [if_neg hy, if_neg hy]
        refine ⟨fun h => absurd h hy, fun _ => changed.view, htx, fun h => State.tellings_earlier (htell ?_) rfl⟩
        exact h.imp_right fun hw => hw.frame rfl

end Sys2Proof.Machine
end

section
/-! Access to the line and a completed frame (R127 to R131). -/

namespace Sys2Proof.Machine

section
variable {s : State}

theorem State.lineQuiet_busy (h : s.access = .busy) :
    s.lineQuiet = { s with access := .idle 0, assembler := { s.assembler with joinedLate := false } } := by
  simp only [State.lineQuiet, h]

/-- Another station's start bit defers the head frame, if one is queued (R130). -/
theorem State.lineStart_idle {k : Nat} (h : s.access = .idle k) :
    s.lineStart = if s.tx = [] then { s with access := .busy } else State.count .framesDeferred { s with access := .busy } := by
  simp only [State.lineStart, h, List.isEmpty_iff]

theorem State.slotEnds_empty {k : Nat} (h : s.access = .idle k) (hq : s.tx = []) :
    s.slotEnds = { s with access := .idle (k + 1) } := by
  simp only [State.slotEnds, h, hq]

/-- The head frame is sent at the slot boundary that ends its access wait (R128). -/
theorem State.slotEnds_head {k : Nat} {t : TxFrame} {rest : List TxFrame} (h : s.access = .idle k) (hq : s.tx = t :: rest) :
    s.slotEnds = if s.accessWait t.frame ≤ k then { s with tx := rest, inFlight := some t, access := .sending }
      else { s with access := .idle (k + 1) } := by
  simp only [State.slotEnds, h, hq]

theorem State.sendDone_sending {t : TxFrame} (h : s.access = .sending) (hf : s.inFlight = some t) :
    s.sendDone = State.count .framesSent
      { s with access := .busy, inFlight := none, lastSender := true, assembler := Assembler.empty } := by
  simp only [State.sendDone, h, hf]

end

/-- Settles O36: each command in the access state that it speaks of, the slot boundary by the head frame's access wait. -/
theorem lineAccess : Obligations.LineAccess := by
  unfold Obligations.LineAccess
  refine ⟨fun s h => congrArg _ (State.lineQuiet_busy h), fun s k h => ⟨fun hq => ?_, fun hq => ?_, fun hq => ?_, ?_⟩,
    fun s t h hf => congrArg _ (State.sendDone_sending h hf)⟩
  · exact congrArg _ ((State.lineStart_idle h).trans (if_pos hq))
  · exact congrArg _ ((State.lineStart_idle h).trans (if_neg hq))
  · exact congrArg _ (State.slotEnds_empty h hq)
  · intro t rest hq wait
    have hwait : s.accessWait t.frame = wait := by simp only [State.accessWait, wait, Nat.mul_comm]
    have hend := State.slotEnds_head h hq
    rw [hwait] at hend
    exact ⟨fun hk => congrArg _ (hend.trans (if_neg (by omega))), fun hk => congrArg _ (hend.trans (if_pos hk))⟩

end Sys2Proof.Machine
end

section
/-! A frame that has collided (R132, R133, R74): dropped, replaced by a newer one, or handed back to the head of the queue. -/

namespace Sys2Proof.Machine

/-- Tests 1 to 6 of R133 as the statement spells them: the frame would no longer be true of the station. -/
def State.Untrue (s : State) (f : Frame) : Prop :=
  s.station = .joining ∨ (s.station = .listenOnly ∧ f.isStation = false) ∨
  (∃ w, f = .warn w ∧ ∀ e, s.entry? w.mic = some e →
    e.role ≠ .reporter ∨ s.zone ≠ .notInForce ∧ w.kind = .signal ∧ w.level = .higher) ∨
  ∃ r pairs, f = .claim r pairs ∧ r < s.round

/-- Test 7 of R133 as the statement spells it: a newer form of the frame is queued. -/
def State.Newer (s : State) (f : Frame) : Prop :=
  (∃ w, f = .warn w ∧ ∃ g ∈ s.tx, g.frame.warnFor w.mic w.kind = true) ∨
  f.isStation = true ∧ ∃ g ∈ s.tx, g.frame.isStation = true

section
variable {s : State}

theorem State.recheckDrops_iff (f : Frame) : s.recheckDrops f = true ↔ s.Untrue f := by
  cases f with
  | warn w =>
    cases he : s.entry? w.mic with
    | none => simp [State.recheckDrops, State.Untrue, Frame.isStation, he]
    | some e => simp [State.recheckDrops, State.Untrue, Frame.isStation, Frame.lostWarn, he, or_assoc]
  | claim r pairs => simp [State.recheckDrops, State.Untrue, Frame.isStation, or_assoc]
  | station r => simp [State.recheckDrops, State.Untrue, Frame.isStation]
  | entry mic r => simp [State.recheckDrops, State.Untrue, Frame.isStation]
  | stats c => simp [State.recheckDrops, State.Untrue, Frame.isStation]

theorem State.recheckReplaced_iff (f : Frame) : s.recheckReplaced f = true ↔ s.Newer f := by
  cases f <;> simp [State.recheckReplaced, State.Newer, Frame.isStation]

/-- A frame that returns no more is counted, and its record forgets as R74 says. -/
theorem State.dropReturning_eq (f : Frame) :
    s.dropReturning f = { s.count .framesDropped with table := discarded s.tx f s.table } :=
  State.discardFrame_discarded f (s.count .framesDropped)

/-! ## The validity recheck, test by test (R133) -/

variable {t : TxFrame}

theorem State.recheck_untrue (hu : s.Untrue t.frame) : s.recheck t = s.dropReturning t.frame := by
  rw [State.recheck, if_pos ((State.recheckDrops_iff _).mpr hu)]

section
variable (hu : ¬s.Untrue t.frame)
include hu

theorem State.recheck_newer (hr : s.Newer t.frame) : s.recheck t = s := by
  rw [State.recheck, if_neg ((State.recheckDrops_iff _).not.mpr hu), if_pos ((State.recheckReplaced_iff _).mpr hr)]

variable (hr : ¬s.Newer t.frame)
include hr

theorem State.recheck_room (hroom : s.tx.length < txMax) : s.recheck t = s.placeHead t := by
  rw [State.recheck, if_neg ((State.recheckDrops_iff _).not.mpr hu), if_neg ((State.recheckReplaced_iff _).not.mpr hr),
    if_pos hroom]

variable (hfull : txMax ≤ s.tx.length)
include hfull

/-- In a full queue that holds nothing less urgent the frame itself is lost. -/
theorem State.recheck_least (hle : ∀ g ∈ s.tx, g.frame.cls ≤ t.frame.cls) : s.recheck t = s.dropReturning t.frame := by
  rw [State.recheck, if_neg ((State.recheckDrops_iff _).not.mpr hu), if_neg ((State.recheckReplaced_iff _).not.mpr hr),
    if_neg hfull.not_gt, victimFor_none.mpr hle]

/-- In a full queue the newest frame of the least urgent class gives way. -/
theorem State.recheck_victim (hlt : ∃ g ∈ s.tx, t.frame.cls < g.frame.cls) : ∃ pre v post,
    s.tx = pre ++ v :: post ∧ (∀ g ∈ s.tx, g.frame.cls ≤ v.frame.cls) ∧ (∀ g ∈ post, g.frame.cls ≠ v.frame.cls) ∧
      s.recheck t = { s.count .framesDropped with
        tx := t :: (pre ++ post), table := discarded (t :: (pre ++ post)) v.frame s.table } := by
  cases hv : victimFor t.frame.cls s.tx with
  | none =>
    obtain ⟨g, hg, hlt⟩ := hlt
    exact absurd (victimFor_none.mp hv g hg) hlt.not_ge
  | some vr =>
    obtain ⟨v, rest⟩ := vr
    obtain ⟨-, hleast, pre, post, hq, rfl, hnewest⟩ := victimFor_some hv
    refine ⟨pre, v, post, hq, hleast, hnewest, ?_⟩
    rw [State.recheck, if_neg ((State.recheckDrops_iff _).not.mpr hu), if_neg ((State.recheckReplaced_iff _).not.mpr hr),
      if_neg hfull.not_gt, hv]
    exact State.discardFrame_discarded v.frame _

end

/-! ## The handing back (R132) -/

theorem State.handBack_fourth (h : collisionMax ≤ t.collisions) : s.handBack t = s.dropReturning t.frame := if_pos h

theorem State.handBack_earlier (h : t.collisions < collisionMax) : s.handBack t = s.recheck t := if_neg h.not_ge

theorem State.handBack_drops (h : collisionMax ≤ t.collisions ∨ s.Untrue t.frame) : s.handBack t = s.dropReturning t.frame := by
  by_cases hn : collisionMax ≤ t.collisions
  · exact State.handBack_fourth hn
  · rw [State.handBack_earlier (not_le.mp hn), State.recheck_untrue (h.resolve_left hn)]

/-- What is handed back is the frame with one collision more, after the collision has been counted. -/
theorem State.collide_sending (h : s.access = .sending) (hf : s.inFlight = some t) : s.collide =
    (State.count .collisions { s with access := .busy, inFlight := none }).handBack { t with collisions := t.collisions + 1 } := by
  simp only [State.collide, h, hf]

end

/-- Settles O37: the collision counted and the frame handed back, by the tests of R133 in their order. -/
theorem collision : Obligations.Collision := by
  unfold Obligations.Collision
  intro s t hsend hflight n counted stopped missed sameWarn untrue newer back dropped
  have hexec : ∀ u : State, stopped.handBack back = u → exec .collision s = .next u := fun u hu =>
    congrArg _ ((State.collide_sending hsend hflight).trans hu)
  have hdrop : stopped.handBack back = stopped.dropReturning t.frame → dropped := fun hb =>
    hexec _ (hb.trans (State.dropReturning_eq t.frame))
  have hback : n < 4 → stopped.handBack back = stopped.recheck back := State.handBack_earlier (t := back)
  refine ⟨fun h => hdrop (State.handBack_drops h), fun hn hu hr => hexec _ ((hback hn).trans (State.recheck_newer hu hr)),
    fun hn hu hr => ⟨fun hroom => hexec _ ((hback hn).trans (State.recheck_room hu hr hroom)),
      fun hfull hle => hdrop ((hback hn).trans (State.recheck_least hu hr hfull hle)), fun hfull hlt => ?_⟩⟩
  obtain ⟨pre, v, post, hq, hleast, hnewest, hplaced⟩ := State.recheck_victim (s := stopped) (t := back) hu hr hfull hlt
  exact ⟨pre, v, post, hq, hleast, hnewest, hexec _ ((hback hn).trans hplaced)⟩

end Sys2Proof.Machine
end

section
/-! The entry into LISTEN_ONLY for a duplicate number (R135, R143, R181), with the STATION frame alone in the queue. -/

namespace Sys2Proof.Machine

/-- A WARN request that the station's state refuses changes nothing (R143). -/
theorem State.requestWarn_refused {s : State} (h : s.station.sendsAll = false) (mic : Nat) (k : Kind) (reason : Reason) :
    s.requestWarn mic k reason = s := by
  have hgate : ∀ e, s.warnGate e k = false := fun e => by simp [State.warnGate, h]
  unfold State.requestWarn
  split
  · rfl
  · exact if_neg (by simp [hgate])

/-! ## LISTEN_ONLY with only STATION frames -/

/-- A station in LISTEN_ONLY with a sound table that has queued nothing but STATION frames and does not repeat them (R143, R151). -/
structure State.OnlyReports (s : State) : Prop where
  station : s.station = .listenOnly
  sound : SoundLaw s
  queue : ∀ g ∈ s.tx, g.frame.isStation = true
  timer : s.stationRepeat = .stopped

namespace State.OnlyReports

variable {s t : State}

theorem frame (h : s.OnlyReports) (ht : (t.station, t.table, t.tx, t.stationRepeat) = (s.station, s.table, s.tx, s.stationRepeat)) :
    t.OnlyReports := by
  obtain ⟨hst, htable, htx, htimer⟩ : t.station = s.station ∧ t.table = s.table ∧ t.tx = s.tx ∧
      t.stationRepeat = s.stationRepeat := by simpa using ht
  exact ⟨hst.trans h.station, fun e he => h.sound e (htable ▸ he), htx ▸ h.queue, htimer.trans h.timer⟩

theorem modEntry (h : s.OnlyReports) (mic : Nat) (f : Entry → Entry) : (s.modEntry mic f).OnlyReports :=
  { h with sound := h.sound.modEntry mic f }

theorem giveInputs (h : s.OnlyReports) (mic : Nat) : (s.giveInputs mic).OnlyReports := by
  have given : ∀ (u : State) (k : Kind), u.OnlyReports → (u.giveInput mic k).OnlyReports := fun u k hu => by
    unfold State.giveInput
    split
    · exact hu
    · exact hu.modEntry mic _
  exact given _ _ (given _ _ (given _ _ h))

theorem discardWhere (h : s.OnlyReports) (drop : Frame → Bool) : (s.discardWhere drop).OnlyReports where
  station := (State.discardWhere_told drop s).keep.2.1.trans h.station
  sound := (State.discardWhere_told drop s).sound h.sound
  queue := by
    rw [State.discardWhere_tx]
    exact fun g hg => h.queue g (List.mem_of_mem_filter hg)
  timer := by
    rw [State.discardWhere_eq]
    exact h.timer

theorem requestStation (h : s.OnlyReports) : (s.requestStation false).OnlyReports where
  station := (State.requestStation_told false s).keep.2.1.trans h.station
  sound := (State.requestStation_told false s).sound h.sound
  queue := fun g hg => (State.mem_requestStation hg).elim (h.queue g) id
  timer := by
    rw [State.requestStation_stationRepeat (by rw [h.station]; rfl), h.timer]
    rfl

theorem zoneHandOff (h : s.OnlyReports) : s.zoneHandOff.OnlyReports := h.frame (by simp [State.zoneHandOff])

theorem stationHandOff (h : s.OnlyReports) : s.stationHandOff.OnlyReports :=
  h.frame (by simp [State.stationHandOff, State.selectAllLamps, State.selectWarningLamps])

/-- With WARN requests refused, an announcement reaches the repeat timer at most. -/
theorem reannounce (h : s.OnlyReports) (mic : Nat) : (s.reannounce mic).OnlyReports := by
  unfold State.reannounce
  split
  · exact h
  · split
    · rw [State.announce, State.requestWarn_refused (by rw [h.station]; rfl)]
      exact h.modEntry mic _
    · exact h

theorem sweep {fx act : Nat → State → State} (h : s.OnlyReports)
    (hact : ∀ mic u, State.OnlyReports u → (act mic u).OnlyReports) : (s.sweep fx act).OnlyReports := by
  refine State.sweep_keeps (P := State.OnlyReports) (fun mic u e he hbad hu => ?_) (fun mic u e _ _ hu => hact mic u hu) h
  have := hu.sound e (State.entry?_some he).1
  simp [hbad] at this

/-! ## The zone (R98, R101, R103) -/

theorem zoneCause (h : s.OnlyReports) (cause : ZoneCause) : (s.zoneCause cause).OnlyReports := by
  unfold State.zoneCause
  extract_lets asked
  have hasked : asked.OnlyReports := (h.frame (t := { s with zone := .inForce cause }) rfl).requestStation
  exact (hasked.frame (t := { asked with zoneRepeat := asked.after asked.params.repeatMs }) rfl).zoneHandOff

theorem zoneEnter (h : s.OnlyReports) (cause : ZoneCause) : (s.zoneEnter cause).OnlyReports :=
  (h.discardWhere Frame.lostWarn).zoneCause cause

theorem zoneEnd (h : s.OnlyReports) (fx : Nat → State → State) : (s.zoneEnd fx).OnlyReports := by
  have ended : State.OnlyReports { s with zone := .notInForce, zoneRepeat := .stopped } := h.frame rfl
  exact (ended.requestStation.sweep fun mic _ hu => hu.reannounce mic).zoneHandOff

theorem updateLost (h : s.OnlyReports) (fx : Nat → State → State) : (s.updateLost fx).OnlyReports := by
  have counted : State.OnlyReports { s with lostCount := lostOf s.table } := h.frame rfl
  rcases State.updateLost_cases fx s with hu | ⟨-, hu⟩ | ⟨-, hu⟩ <;> rw [hu]
  · exact counted
  · exact counted.zoneEnter _
  · exact counted.zoneEnd fx

theorem feedCauseEnds (h : s.OnlyReports) (fx : Nat → State → State) : (s.feedCauseEnds fx).OnlyReports := by
  unfold State.feedCauseEnds
  split
  · split
    · exact h.zoneCause _
    · exact h.zoneEnd fx
  · exact h

theorem resumeSweep (h : s.OnlyReports) (fx : Nat → State → State) : (s.resumeSweep fx).OnlyReports :=
  h.sweep fun mic _ hu => ((hu.modEntry mic _).giveInputs mic).updateLost fx

end State.OnlyReports

/-! ## The entry into LISTEN_ONLY (R181) -/

/-- The role sweep of a sound table (R114) leaves the station's state and the check words. -/
theorem State.quietSweep_sound {s : State} (hS : SoundLaw s) (fx : Nat → State → State) :
    (s.sweep fx State.quietEntry).station = s.station ∧ SoundLaw (s.sweep fx State.quietEntry) := by
  refine State.sweep_keeps (P := fun u => u.station = s.station ∧ SoundLaw u) (fun mic u e he hbad hu => ?_)
    (fun mic u e _ _ hu => ?_) ⟨rfl, hS⟩
  · have := hu.2 e (State.entry?_some he).1
    simp [hbad] at this
  · obtain ⟨-, -, hst, -⟩ := ((State.onlyQueues.refl u).makeFollower mic).keep
    exact ⟨hst.trans hu.1, (((State.Follows.refl Entry.place u).makeFollower mic).sound hu.2).modEntry mic _⟩

theorem State.enterListenOnly_onlyReports {s : State} (hS : SoundLaw s) (fx : Nat → State → State) :
    (s.enterListenOnly fx).OnlyReports := by
  unfold State.enterListenOnly
  extract_lets quiet emptied stopped resumed
  obtain ⟨hst, hsound⟩ := State.quietSweep_sound (s := { s with station := .listenOnly, joining := .stopped }) hS fx
  have told : ({ quiet with claimRound := .stopped } : State).Told emptied := State.discardWhere_told _ _
  have hstopped : stopped.OnlyReports := by
    refine ⟨told.keep.2.1.trans hst, told.sound hsound, fun g hg => ?_, rfl⟩
    have hkept : g ∈ ({ quiet with claimRound := .stopped } : State).tx.filter fun t => !!t.frame.isStation :=
      State.discardWhere_tx (fun f => !f.isStation) _ ▸ hg
    simpa using (List.mem_filter.mp hkept).2
  have hresumed : resumed.OnlyReports := by
    unfold resumed
    split
    · exact (hstopped.resumeSweep fx).feedCauseEnds fx
    · exact hstopped
  exact hresumed.requestStation.stationHandOff

/-! ## A microphone that takes no part -/

/-- The microphone that a WARN names. -/
def Frame.warned : Frame → List Nat
  | .warn w => [w.mic]
  | _ => []

theorem Frame.mem_warned {f : Frame} {mic : Nat} {k : Kind} (h : f.warnFor mic k = true) : mic ∈ f.warned := by
  cases f with
  | warn w =>
    obtain ⟨hmic, -⟩ : w.mic = mic ∧ w.kind = k := by simpa [Frame.warnFor] using h
    simp [Frame.warned, hmic]
  | _ => cases h

/-- Some number is neither an entry's nor a queued WARN's. -/
theorem State.exists_aloof (s : State) : ∃ mic, s.Aloof mic none := by
  obtain ⟨mic, hmic⟩ := Infinite.exists_notMem_finset (s.mics ++ s.tx.flatMap fun g => g.frame.warned).toFinset
  simp only [List.mem_toFinset, List.mem_append, List.mem_flatMap, not_or, not_exists, not_and] at hmic
  obtain ⟨hentry, hwarn⟩ := hmic
  refine ⟨mic, State.entry?_none.mpr fun e he hm => hentry (hm ▸ List.mem_map_of_mem he), fun e he => absurd he (by simp), ?_⟩
  exact fun g hg k hk => absurd (Frame.mem_warned hk) (hwarn g hg)

/-! ## The duplicate number (R135) -/

/-- A duplicate of the station's number sends a station that is in neither state into LISTEN_ONLY with the cause recorded (R181). -/
theorem State.duplicateNumber_enters {s : State} (hl : s.station ≠ .listenOnly) (hst : s.station ≠ .starting) :
    s.duplicateNumber = ({ s with fault := some .duplicateId }).enterListenOnly State.entryFault := by
  unfold State.duplicateNumber
  split
  · exact absurd ‹_› hst
  · exact absurd ‹_› hl
  all_goals rfl

theorem State.duplicateNumber_listenOnly {s : State} (h : s.station = .listenOnly) : s.duplicateNumber = s := by
  simp only [State.duplicateNumber, h]

/-- A duplicate of the station's number, reported (R135): the station is in LISTEN_ONLY with its timers stopped, every entry FOLLOWER
and its STATION frame alone in the queue. -/
theorem State.duplicateNumber_reported {s : State} (hT : TableLaw s) (hS : SoundLaw s) (hl : s.station ≠ .listenOnly)
    (hst : s.station ≠ .starting) : let t := s.duplicateNumber
    t.station = .listenOnly ∧ t.fault = some .duplicateId ∧ t.joining = .stopped ∧ t.claimRound = .stopped ∧
      t.stationRepeat = .stopped ∧ t.attn = true ∧ t.roster = s.roster ∧ t.lastSender = s.lastSender ∧
      (∀ e ∈ t.table, e.role = .follower) ∧ ∃ f, t.tx = [f] ∧ f.frame.isStation = true := by
  intro t
  let faulty : State := { s with fault := some .duplicateId }
  have ht : t = faulty.enterListenOnly State.entryFault := State.duplicateNumber_enters hl hst
  obtain ⟨mic, aloof⟩ := s.exists_aloof
  have faultyTable : TableLaw faulty := ⟨hT.ascending, hT.atMost96, hT.seats, hT.queuedSeats⟩
  obtain ⟨settles, hattn, hreport⟩ := State.enterListenOnly_spec faultyTable hS (aloof.frame rfl) State.entryFault
  have only := State.enterListenOnly_onlyReports (s := faulty) hS State.entryFault
  rw [← ht] at settles hattn hreport only
  rw [List.filter_eq_self.mpr only.queue] at hreport
  have kept := settles.only
  unfold State.onlyHandOffs at kept
  refine ⟨only.station, ?_, ?_, ?_, only.timer, hattn, ?_, ?_, fun e he => settles.follower he, _, hreport, rfl⟩
  all_goals rw [kept]

end Sys2Proof.Machine
end

section
/-! A frame of the line that is complete (R134 to R137): what the checks make of it, outcome by outcome. -/

namespace Sys2Proof.Machine

/-! ## Kind and source (R136) -/

theorem acceptedFrom_of_fromMonitor {b : RxBody} (h : b.fromMonitor = true) (source : Nat) :
    acceptedFrom source b = true ↔ source ≠ 0 := by
  unfold acceptedFrom
  split <;> simp [*]

theorem acceptedFrom_of_console {b : RxBody} (h : b.fromMonitor = false) (source : Nat) :
    acceptedFrom source b = true ↔ source = 0 := by
  unfold acceptedFrom
  split <;> simp [*]

/-! ## The checks -/

section
variable {s : State}

/-- What every checked frame clears: the last-sender memory (R129) and the assembler. -/
def State.checked (s : State) : State := { s with lastSender := false, assembler := Assembler.empty }

/-- Within 2 bit times of the last stop bit no frame is complete (R125). -/
theorem State.frameDone_short {gap : Nat} (h : gap ≤ 2) (bits : List Bool) (late : Bool) : s.frameDone bits gap late = s :=
  if_pos (.inr h)

section
variable {bits : List Bool} {gap : Nat} {late : Bool} (ha : s.access ≠ .off) (hgap : 2 < gap)
include ha hgap

/-- A frame joined late goes unchecked (R127). -/
theorem State.frameDone_late (hj : s.assembler.joinedLate = true) (hl : late = true) :
    s.frameDone bits gap late = { s with assembler := Assembler.empty } := by
  rw [State.frameDone, if_neg (by simp [ha, hgap]), if_pos (by simp [hj, hl])]

theorem State.frameDone_checked (h : s.assembler.joinedLate = false ∨ late = false) : s.frameDone bits gap late =
    s.receive (s.assembler.bytes ++ (lineRead bits).1) (s.assembler.framing || (lineRead bits).2) := by
  rw [State.frameDone, if_neg (by simp [ha, hgap]), if_neg (by rcases h with h | h <;> simp [h])]

end

section
variable {bytes : List Byte} {framing : Bool}

theorem State.receive_bad (h : readFrame bytes framing = .bad) : s.receive bytes framing = s.checked.count .rxBad := by
  simp only [State.receive, h]
  rfl

/-- A good frame of another station makes its source PRESENT and is accepted or refused (R106, R136). -/
theorem State.receive_other {n : Nat} {body : Option RxBody} (h : readFrame bytes framing = .good n body) (hn : n ≠ s.number) :
    s.receive bytes framing = (s.checked.refreshRoster n).acceptFrame n body := by
  simp only [State.receive, h, if_neg hn]
  rfl

theorem State.receive_own {body : Option RxBody} (h : readFrame bytes framing = .good s.number body) :
    s.receive bytes framing = s.checked.duplicateNumber := by
  simp only [State.receive, h, if_true]
  rfl

end

/-! ## Acceptance (R136, R137) -/

theorem State.acceptFrame_refused {n : Nat} {body : Option RxBody} (h : ∀ b, body = some b → acceptedFrom n b = false) :
    s.acceptFrame n body = s.count .rxRefused := by
  cases body with
  | none => rfl
  | some b => exact if_neg (by simp [h b rfl])

theorem State.acceptFrame_accepted {n : Nat} {b : RxBody} (h : acceptedFrom n b = true) :
    s.acceptFrame n (some b) = (s.count .rxGood).offerRx ⟨n, b⟩ := if_pos h

theorem State.offerRx_room {f : RxFrame} (h : s.rx.length < rxMax) : s.offerRx f = { s with rx := s.rx ++ [f] } := if_pos h

theorem State.offerRx_full {f : RxFrame} (h : rxMax ≤ s.rx.length) : s.offerRx f = s.count .rxOverrun := if_neg h.not_gt

end

/-- Settles O38: kind and source, the frames that go unchecked, and each reading of a checked one. -/
theorem reception : Obligations.Reception := by
  unfold Obligations.Reception
  refine ⟨fun source => ?_, fun s bits gap late hgap => congrArg _ (State.frameDone_short hgap bits late), ?_⟩
  · have monitor := fun {b : RxBody} (h : b.fromMonitor = true) => acceptedFrom_of_fromMonitor h source
    have console := fun {b : RxBody} (h : b.fromMonitor = false) => acceptedFrom_of_console h source
    exact ⟨fun _ => monitor rfl, fun _ => monitor rfl, fun _ _ => monitor rfl, fun _ => console rfl, fun _ _ _ => console rfl,
      fun _ _ => console rfl, console rfl⟩
  · intro s bits gap late ha hgap done cleared reading heard good
    refine ⟨fun hj hl => congrArg _ (State.frameDone_late ha hgap hj hl), fun hchecked => ?_⟩
    have hdone : ∀ u, s.receive (s.assembler.bytes ++ (lineRead bits).1) (s.assembler.framing || (lineRead bits).2) = u →
        done = .next u := fun u hu => congrArg _ ((State.frameDone_checked ha hgap hchecked).trans hu)
    refine ⟨fun h => hdone _ (State.receive_bad h), fun n body h hn => ⟨fun href => ?_, fun b hb hacc => ?_⟩, fun body h => ?_⟩
    · exact hdone _ ((State.receive_other h hn).trans (State.acceptFrame_refused href))
    · subst hb
      have taken := (State.receive_other h hn).trans (State.acceptFrame_accepted hacc)
      exact ⟨fun hroom => hdone _ (taken.trans (State.offerRx_room hroom)),
        fun hfull => hdone _ (taken.trans (State.offerRx_full hfull))⟩
    · have own := State.receive_own h
      refine ⟨fun hl => hdone _ (own.trans (State.duplicateNumber_listenOnly hl)), fun hl hst hT hS => ⟨_, hdone _ own, ?_⟩⟩
      have checkedTable : TableLaw s.checked := ⟨hT.ascending, hT.atMost96, hT.seats, hT.queuedSeats⟩
      exact State.duplicateNumber_reported checkedTable hS hl hst

end Sys2Proof.Machine
end

section
/-! What the assembler makes of the line (R124, R125), and the bad-frame tests on the bytes of a frame (R126). -/

namespace Sys2Proof.Machine

/-! ## The line (R124, R125) -/

/-- A gap of at most 2 bit times goes on. -/
theorem assemble_released {gap k : Nat} (h : gap + k ≤ 2) (rest : List Bool) :
    assemble gap (List.replicate k true ++ rest) = assemble (gap + k) rest := by
  induction k generalizing gap with
  | zero => rfl
  | succ k ih =>
    have hstep : assemble gap (true :: (List.replicate k true ++ rest)) = assemble (gap + 1) (List.replicate k true ++ rest) :=
      if_pos (by omega)
    rw [List.replicate_succ, List.cons_append, hstep, ih (by omega), Nat.add_right_comm, Nat.add_assoc]

/-- A gap that passes 2 bit times ends the frame. -/
theorem assemble_ended {gap k : Nat} (hgap : gap ≤ 2) (h : 2 < gap + k) (rest : List Bool) :
    assemble gap (List.replicate k true ++ rest) = ([], false) := by
  obtain ⟨left, rfl⟩ : ∃ left, k = (2 - gap) + (left + 1) := ⟨gap + k - 3, by omega⟩
  rw [List.replicate_add, List.append_assoc, assemble_released (by omega)]
  exact if_neg (by omega)

/-- Bytes with a gap behind each, read from within a gap that still goes on. -/
theorem assemble_gap_behind {pieces : List (Byte × Nat)} (h : ∀ p ∈ pieces, p.2 ≤ 2) {gap : Nat} (hgap : gap ≤ 2) :
    assemble gap (pieces.flatMap (fun p => lineBits p.1 ++ List.replicate p.2 true) ++ List.replicate 9 true) =
      (pieces.map Prod.fst, false) := by
  induction pieces generalizing gap with
  | nil => simpa using assemble_ended hgap (k := 9) (by omega) []
  | cons p pieces ih =>
    obtain ⟨hp, hrest⟩ := List.forall_mem_cons.mp h
    rw [List.flatMap_cons, List.append_assoc, List.append_assoc, assemble_lineBits, assemble_released (by omega), Nat.zero_add,
      ih hrest hp]
    rfl

/-- Bytes with a gap before each, and a longer gap behind the last: what follows it is another frame's. -/
theorem assemble_gap_before {pieces : List (Byte × Nat)} (h : ∀ p ∈ pieces, p.2 ≤ 2) (tail : List Bool) :
    assemble 0 (pieces.flatMap (fun p => List.replicate p.2 true ++ lineBits p.1) ++ (List.replicate 3 true ++ tail)) =
      (pieces.map Prod.fst, false) := by
  induction pieces with
  | nil => exact assemble_ended (by omega) (by omega) tail
  | cons p pieces ih =>
    obtain ⟨hp, hrest⟩ := List.forall_mem_cons.mp h
    rw [List.flatMap_cons, List.append_assoc, List.append_assoc, assemble_released (by omega), assemble_lineBits, ih hrest]
    rfl

/-- A stop bit read 0 is a framing error, whatever follows. -/
theorem assemble_framing (bytes : List Byte) (b : Byte) (tail : List Bool) :
    (assemble 0 (bytes.flatMap lineBits ++ ((lineBits b).dropLast ++ false :: tail))).2 = true := by
  induction bytes with
  | nil => rfl
  | cons c bytes ih => rw [List.flatMap_cons, List.append_assoc, assemble_lineBits, ih]

/-! ## The CRC (R126) -/

/-- The generator is added where the bit that leaves the register differs from the bit that comes. -/
theorem crcBit_eq (reg : BitVec 16) (bit : Bool) :
    crcBit reg bit = if reg.msb = bit then reg <<< 1 else reg <<< 1 ^^^ 0x1021#16 := by
  have hmsb : reg.getLsbD 15 = reg.msb := (BitVec.msb_eq_getLsbD_last reg).symm
  rw [crcBit, hmsb]
  cases reg.msb <;> cases bit <;> rfl

theorem crc16_concat (bytes : List Byte) (b : Byte) : crc16 (bytes ++ [b]) = crcByte (crc16 bytes) b := by
  simp only [crc16, List.foldl_append, List.foldl_cons, List.foldl_nil]

/-- Two bytes are a CRC's when they are its number, high byte first. -/
theorem eq_word16_iff {l : List Byte} (h : l.length = 2) (crc : BitVec 16) :
    l = word16 crc.toNat ↔ 256 * (l.getD 0 0).toNat + (l.getD 1 0).toNat = crc.toNat := by
  obtain ⟨hi, lo, rfl⟩ := List.length_eq_two.mp h
  have hcrc := crc.isLt
  have hhi := hi.isLt
  have hlo := lo.isLt
  simp only [word16, List.cons.injEq, and_true, ← BitVec.toNat_inj, BitVec.toNat_ofNat, List.getD_cons_zero, List.getD_cons_succ]
  omega

/-! ## The bad-frame tests (R126) -/

/-- The tests that do not look into the payload. -/
def EnvelopeBad (bytes : List Byte) (framing : Bool) : Prop :=
  let len := (bytes.getD 2 0).toNat
  bytes.length < 5 ∨ bytes.head? ≠ some 0x96#8 ∨ 120 < len ∨ bytes.length ≠ 5 + len ∨ framing = true ∨
    256 * (bytes.getD (3 + len) 0).toNat + (bytes.getD (4 + len) 0).toNat ≠ (crc16 ((bytes.drop 1).take (len + 2))).toNat

/-- Those tests as the part applies them to a frame that has a length byte. -/
theorem envelopeBad_iff {sync header len : Byte} {rest : List Byte} {framing : Bool} :
    EnvelopeBad (sync :: header :: len :: rest) framing ↔ framing = true ∨ sync ≠ syncByte ∨ 120 < len.toNat ∨
      rest.length ≠ len.toNat + 2 ∨ rest.drop len.toNat ≠ word16 (crc16 (header :: len :: rest.take len.toNat)).toNat := by
  by_cases hlen : rest.length = len.toNat + 2
  · have hcrc := eq_word16_iff (l := rest.drop len.toNat) (by simp [hlen]) (crc16 (header :: len :: rest.take len.toNat))
    have hget : ∀ i, (sync :: header :: len :: rest).getD (i + len.toNat + 3) 0 = (rest.drop len.toNat).getD i 0 := fun i => by
      simp [List.getD_eq_getElem?_getD, Nat.add_comm i]
    have hhi : (sync :: header :: len :: rest).getD (3 + len.toNat) 0 = (rest.drop len.toNat).getD 0 0 := by
      rw [← hget, Nat.zero_add, Nat.add_comm]
    have hlo : (sync :: header :: len :: rest).getD (4 + len.toNat) 0 = (rest.drop len.toNat).getD 1 0 := by
      rw [← hget]
      congr 1
      omega
    have hcovered : ((sync :: header :: len :: rest).drop 1).take (len.toNat + 2) = header :: len :: rest.take len.toNat := rfl
    have hlength : (sync :: header :: len :: rest).length = 5 + len.toNat := by
      simp only [List.length_cons, hlen]
      omega
    have hsync : (sync :: header :: len :: rest).head? = some 0x96#8 ↔ sync = syncByte := Option.some_inj
    have hthird : (sync :: header :: len :: rest).getD 2 0 = len := rfl
    simp only [EnvelopeBad, hthird, hlength, hhi, hlo, hcovered, ne_eq, hsync, hcrc, hlen, not_true, false_or,
      not_lt_of_ge (Nat.le_add_right 5 len.toNat)]
    tauto
  · have hother : (sync :: header :: len :: rest).length ≠ 5 + len.toNat := by
      simp only [List.length_cons]
      omega
    exact iff_of_true (.inr (.inr (.inr (.inl hother)))) (.inr (.inr (.inr (.inl hlen))))

/-- What a frame from `source` whose envelope is good reads as, by its payload. -/
def PayloadReading.readAs (source : Nat) : PayloadReading → Reading
  | .bad => .bad
  | .unknownKind => .good source none
  | .good body => .good source (some body)

theorem PayloadReading.readAs_bad {source : Nat} {r : PayloadReading} : r.readAs source = .bad ↔ r = .bad := by
  cases r <;> simp [PayloadReading.readAs]

/-- The payload of a frame, read by the kind its header names. -/
def payloadReading (bytes : List Byte) : PayloadReading :=
  readPayload ((bytes.getD 1 0).toNat % 16) (((bytes.drop 1).take ((bytes.getD 2 0).toNat + 2)).drop 2)

theorem readFrame_envelopeBad {bytes : List Byte} {framing : Bool} (h : EnvelopeBad bytes framing) :
    readFrame bytes framing = .bad := by
  match bytes with
  | [] => rfl
  | [_] => rfl
  | [_, _] => rfl
  | sync :: header :: len :: rest => exact if_pos (envelopeBad_iff.mp h)

theorem readFrame_envelopeGood {bytes : List Byte} {framing : Bool} (h : ¬EnvelopeBad bytes framing) :
    readFrame bytes framing = (payloadReading bytes).readAs ((bytes.getD 1 0).toNat / 16) := by
  match bytes with
  | [] => exact absurd (.inl (by simp)) h
  | [_] => exact absurd (.inl (by simp)) h
  | [_, _] => exact absurd (.inl (by simp)) h
  | sync :: header :: len :: rest =>
    refine (if_neg (envelopeBad_iff.not.mp h)).trans ?_
    have hpayload : payloadReading (sync :: header :: len :: rest) = readPayload (header.toNat % 16) (rest.take len.toNat) := rfl
    rw [hpayload]
    cases readPayload (header.toNat % 16) (rest.take len.toNat) <;> rfl

theorem readFrame_bad_iff {bytes : List Byte} {framing : Bool} :
    readFrame bytes framing = .bad ↔ EnvelopeBad bytes framing ∨ payloadReading bytes = .bad := by
  by_cases h : EnvelopeBad bytes framing
  · exact iff_of_true (readFrame_envelopeBad h) (.inl h)
  · rw [readFrame_envelopeGood h, PayloadReading.readAs_bad, or_iff_right h]

theorem readFrame_of_not_bad {bytes : List Byte} {framing : Bool} (h : readFrame bytes framing ≠ .bad) :
    readFrame bytes framing = (payloadReading bytes).readAs ((bytes.getD 1 0).toNat / 16) :=
  readFrame_envelopeGood fun hbad => h (readFrame_envelopeBad hbad)

/-- Settles O39: the line by induction on the bytes sent, the tests by the envelope and the payload, the CRC bit by bit. -/
theorem badFrames : Obligations.BadFrames := by
  unfold Obligations.BadFrames
  refine ⟨fun pieces tail h => ⟨assemble_gap_behind h (Nat.zero_le _), ?_⟩, fun bytes b tail => ?_, fun bytes framing => ?_, rfl,
    fun bytes b => ?_⟩
  · rw [lineRead, List.append_assoc, List.append_assoc]
    exact assemble_gap_before h _
  · rw [lineRead, List.append_assoc, List.append_assoc, List.append_assoc]
    exact assemble_framing bytes b _
  · intro len covered
    refine ⟨?_, fun h => ⟨fun body hbody => ?_, fun hunknown => ?_⟩⟩
    · rw [readFrame_bad_iff]
      simp only [EnvelopeBad, or_assoc]
      rfl
    · rw [readFrame_of_not_bad h, show payloadReading bytes = .good body from hbody]
      rfl
    · rw [readFrame_of_not_bad h, show payloadReading bytes = .unknownKind from hunknown]
      rfl
  · rw [crc16_concat]
    simp only [crcByte, List.foldl_cons, List.foldl_nil, crcBit_eq]

end Sys2Proof.Machine
end

section
/-! What the laws of the transmit queue and of the station's states speak of (R99, R114, R133, R141 to R143, R181), the changes that
operations make of it, and what each law makes of these changes. -/

namespace Sys2Proof.Machine

/-! ## The stance of a station -/

/-- What an entry has to do with the queue and with LISTEN_ONLY: its role and its role timers (R112, R113, R116). -/
structure Duty where
  mic : Nat
  role : Role
  pendingTimer : Timer
  takeover : Timer

def Entry.duty (e : Entry) : Duty := ⟨e.mic, e.role, e.pendingTimer, e.takeover⟩

/-- The duty that LISTEN_ONLY leaves an entry (R114). -/
structure Duty.Quiet (d : Duty) : Prop where
  role : d.role = .follower
  pendingTimer : d.pendingTimer = .stopped
  takeover : d.takeover = .stopped

/-- All that the laws of the transmit queue and of the station's states speak of, but for what STARTING alone asks. -/
structure Stance where
  tx : List TxFrame
  inFlight : Option TxFrame
  duties : List Duty
  zone : Zone
  load : Load
  station : StationState
  joining : Timer
  claimRound : Timer
  stationRepeat : Timer

/-- The stance of a state. -/
def State.stance (s : State) : Stance where
  tx := s.tx
  inFlight := s.inFlight
  duties := s.table.map Entry.duty
  zone := s.zone
  load := s.load
  station := s.station
  joining := s.joining
  claimRound := s.claimRound
  stationRepeat := s.stationRepeat

/-- The duty of the entry of a mic ID, if there is one. -/
def Stance.duty? (p : Stance) (mic : Nat) : Option Duty := p.duties.find? fun d => d.mic == mic

theorem State.stance_duty? (s : State) (mic : Nat) : s.stance.duty? mic = (s.entry? mic).map Entry.duty := List.find?_map ..

/-- A frame may join the queue: the state of the station lets it be sent (R143), and a WARN names a reported entry, is the only one
of its microphone and kind (R141), and is not held back by ZONE_SILENT (R99). -/
structure Stance.Admits (p : Stance) (f : Frame) : Prop where
  joined : p.station ≠ .joining
  heard : p.station = .listenOnly → f.isStation = true
  reported : ∀ w, f = .warn w → ∃ d, p.duty? w.mic = some d ∧ d.role = .reporter
  only : ∀ g ∈ p.tx, ∀ mic k, f.warnFor mic k = true → g.frame.warnFor mic k = false
  silent : p.zone ≠ .notInForce → f.lostWarn = false

/-- `q` comes of `p` by the changes that operations make while the station runs. -/
inductive Stance.Runs : Stance → Stance → Prop
  | refl (p : Stance) : Runs p p
  | trans {p q r : Stance} (h : Runs p q) (k : Runs q r) : Runs p r
  /-- Frames leave the queue. -/
  | thin {p : Stance} {q : List TxFrame} (h : q.Sublist p.tx) : Runs p { p with tx := q }
  /-- Queued WARN frames are marked acknowledged (R149). -/
  | mark (p : Stance) (mic : Nat) (k : Kind) (l : Level) : Runs p { p with tx := p.tx.map (markAcked mic k l) }
  /-- A frame takes its place in the queue (R142). -/
  | place {p : Stance} {f : Frame} (h : p.Admits f) : Runs p { p with tx := placeTx ⟨f, 0⟩ p.tx }
  /-- The head of the queue goes on the line (R128). -/
  | send {p : Stance} {t : TxFrame} {rest : List TxFrame} (h : p.tx = t :: rest) : Runs p { p with tx := rest, inFlight := some t }
  /-- The line is done with the frame in flight (R131, R132). -/
  | sent (p : Stance) : Runs p { p with inFlight := none }
  /-- The frame in flight is handed back to the head of the queue (R133). -/
  | handBack {p : Stance} {t u : TxFrame} (hu : p.inFlight = some u) (ht : t.returned = true) (h : p.Admits t.frame) :
      Runs p { p with tx := t :: p.tx, inFlight := none }
  /-- The duty of an entry changes. No WARN is queued of an entry that gives REPORTER up, and in LISTEN_ONLY a quiet duty stays quiet. -/
  | assign {p : Stance} {mic : Nat} {f : Duty → Duty} (hmic : ∀ d, (f d).mic = d.mic)
      (hrole : ∀ d, p.duty? mic = some d → d.role = .reporter → (f d).role ≠ .reporter → ∀ g ∈ p.tx, g.frame.warnOf mic = false)
      (hquiet : p.station = .listenOnly → (∀ d ∈ p.duties, d.mic = mic → d.Quiet) → ∀ d ∈ p.duties, d.mic = mic → (f d).Quiet) :
      Runs p { p with duties := p.duties.map fun d => if d.mic = mic then f d else d }
  /-- Entries go, and no WARN is queued of them (R34). -/
  | leave {p : Stance} {keep : Nat → Bool} (h : ∀ g ∈ p.tx, ∀ mic, keep mic = false → g.frame.warnOf mic = false) :
      Runs p { p with duties := p.duties.filter fun d => keep d.mic }
  /-- ZONE_SILENT comes into force, with no WARN of LOST queued, or its cause changes (R98, R102, R103). -/
  | force {p : Stance} {cause : ZoneCause} (h : p.zone = .notInForce → ∀ g ∈ p.tx, g.frame.lostWarn = false) :
      Runs p { p with zone := .inForce cause }
  /-- ZONE_SILENT ends (R101). -/
  | unforce (p : Stance) : Runs p { p with zone := .notInForce }
  /-- The station's timers change; in LISTEN_ONLY a stopped one stays stopped. -/
  | time {p : Stance} {joining claimRound stationRepeat : Timer}
      (h : p.station = .listenOnly → (p.joining = .stopped → joining = .stopped) ∧ (p.claimRound = .stopped → claimRound = .stopped) ∧
        (p.stationRepeat = .stopped → stationRepeat = .stopped)) :
      Runs p { p with joining := joining, claimRound := claimRound, stationRepeat := stationRepeat }
  /-- The station state changes, but not to STARTING and neither to nor from LISTEN_ONLY; into JOINING with an empty queue (R143). -/
  | enter {p : Stance} {st : StationState} (hp : p.station ≠ .listenOnly)
      (hst : st = .running ∨ st = .feedDown ∨ st = .joining ∧ p.tx = []) : Runs p { p with station := st }
  /-- The station enters LISTEN_ONLY: the role sweep has run when all but the STATION frames leave the queue (R181). -/
  | listen {p q : Stance} (h : Runs { p with station := .listenOnly, joining := .stopped } q) (hq : ∀ d ∈ q.duties, d.Quiet) :
      Runs p { q with
        tx := q.tx.filter fun g => g.frame.isStation
        claimRound := .stopped
        stationRepeat := .stopped }

namespace Stance

variable {p q : Stance}

/-! ## What the changes keep -/

theorem find?_duties {ds : List Duty} {mic m : Nat} {f : Duty → Duty} (hmic : ∀ d, (f d).mic = d.mic) :
    (ds.map fun d => if d.mic = mic then f d else d).find? (fun d => d.mic == m) =
      (ds.find? fun d => d.mic == m).map fun d => if m = mic then f d else d := by
  rw [List.find?_map]
  have hkey : ((fun d : Duty => d.mic == m) ∘ fun d => if d.mic = mic then f d else d) = fun d => d.mic == m := by
    funext d
    by_cases hd : d.mic = mic <;> simp [hd, hmic]
  rw [hkey]
  cases hd : ds.find? fun d => d.mic == m with
  | none => rfl
  | some d =>
    have hm : d.mic = m := by simpa using List.find?_some hd
    simp [hm]

/-- The duties after a change of the entry of `mic`. -/
theorem duty?_assign {p : Stance} {mic : Nat} {f : Duty → Duty} (hmic : ∀ d, (f d).mic = d.mic) (m : Nat) :
    ({ p with duties := p.duties.map fun d => if d.mic = mic then f d else d } : Stance).duty? m =
      (p.duty? m).map fun d => if m = mic then f d else d := find?_duties hmic

theorem duty?_leave {p : Stance} {keep : Nat → Bool} {m : Nat} (hm : keep m = true) :
    ({ p with duties := p.duties.filter fun d => keep d.mic } : Stance).duty? m = p.duty? m := by
  unfold duty?
  rw [List.find?_filter]
  congr 1
  funext d
  by_cases hd : d.mic = m <;> simp [hd, hm]

/-- No entry comes, and a mic ID without an entry stays without one. -/
theorem Runs.mics (h : Runs p q) : (q.duties.map Duty.mic).Sublist (p.duties.map Duty.mic) := by
  induction h with
  | trans _ _ ih ik => exact ik.trans ih
  | @assign p mic f hmic _ _ =>
    have hkey : (p.duties.map fun d => if d.mic = mic then f d else d).map Duty.mic = p.duties.map Duty.mic := by
      rw [List.map_map]
      refine List.map_congr_left fun d _ => ?_
      by_cases hd : d.mic = mic <;> simp [hd, hmic]
    exact hkey ▸ .refl _
  | leave _ => exact List.filter_sublist.map _
  | listen _ _ ih => exact ih
  | _ => exact .refl _

/-- LISTEN_ONLY is left by RESET alone (R181), with the JOINING timer stopped, and quiet duties stay quiet there. -/
theorem Runs.listening (h : Runs p q) (hp : p.station = .listenOnly) :
    q.station = .listenOnly ∧ (p.joining = .stopped → q.joining = .stopped) ∧
      ∀ V : Nat → Prop, (∀ d ∈ p.duties, V d.mic → d.Quiet) → ∀ d ∈ q.duties, V d.mic → d.Quiet := by
  induction h with
  | trans _ _ ih ik =>
    obtain ⟨hq, hj, hV⟩ := ih hp
    obtain ⟨hr, hj', hV'⟩ := ik hq
    exact ⟨hr, hj' ∘ hj, fun V => hV' V ∘ hV V⟩
  | @assign p mic f hmic _ hquiet =>
    refine ⟨hp, id, fun V hV x hx hm => ?_⟩
    obtain ⟨d, hd, rfl⟩ := List.mem_map.mp hx
    by_cases hdm : d.mic = mic
    · simp only [hdm, if_true, hmic] at hm ⊢
      exact hquiet hp (fun y hy hym => hV y hy (hym.symm ▸ hm)) d hd hdm
    · simp only [hdm, if_false] at hm ⊢
      exact hV d hd hm
  | leave _ => exact ⟨hp, id, fun V hV d hd => hV d (List.mem_of_mem_filter hd)⟩
  | time h => exact ⟨hp, (h hp).1, fun _ => id⟩
  | enter hne _ => exact absurd hp hne
  | listen _ _ ih =>
    obtain ⟨hq, hj, hV⟩ := ih rfl
    exact ⟨hq, fun _ => hj rfl, hV⟩
  | _ => exact ⟨hp, id, fun _ => id⟩

end Stance

end Sys2Proof.Machine
end

section
/-! The order of the transmit queue (R133, R141, R142) and the queued WARN frames (R99, R141) through every change of the stance. -/

namespace Sys2Proof.Machine

/-! ## The order of the queue -/

/-- The queue stands in order of class but for a returned frame, which stands at its head. -/
structure QueueOrdered (q : List TxFrame) : Prop where
  ordered : (q.filter fun t => !t.returned).Pairwise fun a b => a.frame.cls ≤ b.frame.cls
  head : ∀ t ∈ q.tail, t.returned = false

namespace QueueOrdered

variable {q r : List TxFrame}

theorem sublist (h : QueueOrdered q) (hr : r.Sublist q) : QueueOrdered r :=
  ⟨h.ordered.sublist (hr.filter _), fun t ht => h.head t (hr.tail.subset ht)⟩

theorem map (h : QueueOrdered q) {f : TxFrame → TxFrame} (hf : ∀ t, (f t).returned = t.returned ∧ (f t).frame.cls = t.frame.cls) :
    QueueOrdered (q.map f) where
  ordered := by
    have hkey : (fun t : TxFrame => !t.returned) ∘ f = fun t => !t.returned := funext fun t => congrArg not (hf t).1
    rw [List.filter_map, hkey, List.pairwise_map]
    exact h.ordered.imp fun {a b} hab => by rwa [(hf a).2, (hf b).2]
  head := by
    rw [← List.map_tail]
    intro t ht
    obtain ⟨x, hx, rfl⟩ := List.mem_map.mp ht
    exact (hf x).1.trans (h.head x hx)

/-- A frame handed back stands at the head of a queue without another (R133). -/
theorem cons (h : QueueOrdered q) {t : TxFrame} (ht : t.returned = true) (hq : ∀ g ∈ q, g.returned = false) : QueueOrdered (t :: q) :=
  ⟨by rw [List.filter_cons_of_neg (by simp [ht])]; exact h.ordered, hq⟩

/-- A new frame falls in behind its own class (R142). -/
theorem placeTx (h : QueueOrdered q) {f : TxFrame} (hf : f.returned = false) : QueueOrdered (placeTx f q) := by
  obtain ⟨pre, post, hq, hp, hpre, hpost⟩ := placeTx_split f q
  have hbehind : ∀ g ∈ post, g.returned = false ∧ f.frame.cls < g.frame.cls := by
    cases post with
    | nil => simp
    | cons x rest =>
      obtain ⟨hx, hlt⟩ := hpost x rfl
      have hrest : ∀ g ∈ rest, g.returned = false := fun g hg => h.head g (by
        rw [hq]
        cases pre <;> simp [hg])
      have hsorted := h.ordered
      rw [hq, List.filter_append, List.filter_cons_of_pos (by simp [hx])] at hsorted
      have hclass := (List.pairwise_cons.mp (List.pairwise_append.mp hsorted).2.1).1
      intro g hg
      rcases List.mem_cons.mp hg with rfl | hg
      · exact ⟨hx, hlt⟩
      · exact ⟨hrest g hg, hlt.trans_le (hclass g (List.mem_filter.mpr ⟨hg, by simp [hrest g hg]⟩))⟩
  rw [hp]
  constructor
  · have hsorted := h.ordered
    rw [hq, List.filter_append, List.pairwise_append] at hsorted
    obtain ⟨hbefore, hafter, hacross⟩ := hsorted
    rw [List.filter_append, List.filter_cons_of_pos (by simp [hf]), List.pairwise_append, List.pairwise_cons]
    refine ⟨hbefore, ⟨fun g hg => (hbehind g (List.mem_of_mem_filter hg)).2.le, hafter⟩, fun a ha b hb => ?_⟩
    obtain ⟨hmem, hnew⟩ := List.mem_filter.mp ha
    have hle : a.frame.cls ≤ f.frame.cls := (hpre a hmem).resolve_left (by simpa using hnew)
    rcases List.mem_cons.mp hb with rfl | hb
    · exact hle
    · exact hle.trans (hbehind b (List.mem_of_mem_filter hb)).2.le
  · cases pre with
    | nil => exact fun g hg => (hbehind g hg).1
    | cons x rest =>
      intro g hg
      have hg : g ∈ rest ++ f :: post := hg
      rcases List.mem_append.mp hg with hg | hg
      · exact h.head g (by rw [hq]; simp [hg])
      · rcases List.mem_cons.mp hg with rfl | hg
        · exact hf
        · exact (hbehind g hg).1

end QueueOrdered

/-- What `OrderLaw` says of a stance. -/
structure Stance.Ordered (p : Stance) : Prop extends QueueOrdered p.tx where
  alone : p.inFlight.isSome → ∀ t ∈ p.tx, t.returned = false

theorem orderLaw_iff {s : State} : OrderLaw s ↔ s.stance.Ordered :=
  ⟨fun h => ⟨⟨h.ordered, h.head⟩, h.alone⟩, fun h => ⟨h.ordered, h.head, h.alone⟩⟩

/-- An acknowledgement is marked without a change of class or of the collision count (R149). -/
theorem markAcked_class (mic : Nat) (k : Kind) (l : Level) (t : TxFrame) :
    (markAcked mic k l t).returned = t.returned ∧ (markAcked mic k l t).frame.cls = t.frame.cls := by
  unfold markAcked
  split
  · rename_i w hw
    split
    · exact ⟨rfl, by rw [hw]; rfl⟩
    · exact ⟨rfl, rfl⟩
  · exact ⟨rfl, rfl⟩

theorem Stance.Runs.ordered {p q : Stance} (h : p.Runs q) (hp : p.Ordered) : q.Ordered := by
  induction h with
  | trans _ _ ih ik => exact ik (ih hp)
  | thin hq => exact ⟨hp.sublist hq, fun hf t ht => hp.alone hf t (hq.subset ht)⟩
  | mark p mic k l =>
    refine ⟨hp.map (markAcked_class mic k l), fun hf t ht => ?_⟩
    obtain ⟨x, hx, rfl⟩ := List.mem_map.mp ht
    exact (markAcked_class mic k l x).1.trans (hp.alone hf x hx)
  | place _ =>
    refine ⟨hp.placeTx rfl, fun hf t ht => ?_⟩
    rcases mem_placeTx.mp ht with rfl | ht
    · rfl
    · exact hp.alone hf t ht
  | @send p t rest hq =>
    exact ⟨hp.sublist (hq ▸ List.sublist_cons_self t rest), fun _ g hg => hp.head g (by rw [hq]; exact hg)⟩
  | sent p => exact ⟨hp.toQueueOrdered, fun hf => absurd hf (by simp)⟩
  | handBack hu ht _ => exact ⟨hp.cons ht (hp.alone (by simp [hu])), fun hf => absurd hf (by simp)⟩
  | listen _ _ ih =>
    have hq := ih ⟨hp.toQueueOrdered, hp.alone⟩
    exact ⟨hq.sublist List.filter_sublist, fun hf t ht => hq.alone hf t (List.mem_of_mem_filter ht)⟩
  | _ => exact ⟨hp.toQueueOrdered, hp.alone⟩

/-! ## The queued WARN frames -/

/-- What `WarnLaw` and `ZoneQueueLaw` say of a stance. -/
structure Stance.Warned (p : Stance) : Prop where
  one : p.tx.Pairwise fun a b => ∀ mic k, ¬(a.frame.warnFor mic k ∧ b.frame.warnFor mic k)
  reported : ∀ t ∈ p.tx, ∀ w, t.frame = .warn w → ∃ d, p.duty? w.mic = some d ∧ d.role = .reporter
  silent : p.zone ≠ .notInForce → ∀ t ∈ p.tx, t.frame.lostWarn = false

theorem warnLaws_iff {s : State} : WarnLaw s ∧ ZoneQueueLaw s ↔ s.stance.Warned := by
  have hduty : ∀ mic, (∃ d, s.stance.duty? mic = some d ∧ d.role = .reporter) ↔ ∃ e, s.entry? mic = some e ∧ e.role = .reporter := by
    intro mic
    rw [State.stance_duty?]
    cases s.entry? mic <;> simp [Entry.duty]
  constructor
  · rintro ⟨hw, hz⟩
    exact ⟨hw.one, fun t ht w h => (hduty w.mic).mpr (hw.reported t ht w h), hz⟩
  · intro h
    exact ⟨⟨h.one, fun t ht w hw => (hduty w.mic).mp (h.reported t ht w hw)⟩, h.silent⟩

/-- Marked frames are WARN frames of the same microphone, kind and level (R149). -/
theorem markAcked_warn (mic : Nat) (k : Kind) (l : Level) (t : TxFrame) :
    (∀ m j, (markAcked mic k l t).frame.warnFor m j = t.frame.warnFor m j) ∧
      (markAcked mic k l t).frame.lostWarn = t.frame.lostWarn ∧
      ∀ w, (markAcked mic k l t).frame = .warn w → ∃ v, t.frame = .warn v ∧ v.mic = w.mic := by
  unfold markAcked
  split
  · rename_i v hv
    split
    · refine ⟨fun m j => by rw [hv]; rfl, by rw [hv]; rfl, fun w hw => ⟨v, hv, ?_⟩⟩
      cases hw
      rfl
    · exact ⟨fun _ _ => rfl, rfl, fun w hw => ⟨w, hw, rfl⟩⟩
  · exact ⟨fun _ _ => rfl, rfl, fun w hw => ⟨w, hw, rfl⟩⟩

namespace Stance.Warned

variable {p : Stance}

theorem withTx (h : p.Warned) {q : List TxFrame} (hq : q.Sublist p.tx) : ({ p with tx := q } : Stance).Warned :=
  ⟨h.one.sublist hq, fun t ht => h.reported t (hq.subset ht), fun hz t ht => h.silent hz t (hq.subset ht)⟩

/-- An admitted frame joins the queue, wherever its place is. -/
theorem join (h : p.Warned) {f : TxFrame} (hf : p.Admits f.frame) {q : List TxFrame} (hq : q.Perm (f :: p.tx)) :
    ({ p with tx := q } : Stance).Warned where
  one := by
    refine List.Pairwise.perm ?_ hq.symm (fun hab mic k hc => hab mic k hc.symm)
    refine List.pairwise_cons.mpr ⟨fun g hg mic k hc => ?_, h.one⟩
    simp [hf.only g hg mic k hc.1] at hc
  reported := fun t ht => by
    rcases List.mem_cons.mp (hq.subset ht) with rfl | ht
    · exact hf.reported
    · exact h.reported t ht
  silent := fun hz t ht => by
    rcases List.mem_cons.mp (hq.subset ht) with rfl | ht
    · exact hf.silent hz
    · exact h.silent hz t ht

end Stance.Warned

theorem placeTx_perm (f : TxFrame) (q : List TxFrame) : (placeTx f q).Perm (f :: q) := by
  obtain ⟨pre, post, hq, hp, -⟩ := placeTx_split f q
  rw [hp, hq]
  exact List.perm_middle

theorem Stance.Runs.warned {p q : Stance} (h : p.Runs q) (hp : p.Warned) : q.Warned := by
  induction h with
  | trans _ _ ih ik => exact ik (ih hp)
  | thin hq => exact hp.withTx hq
  | mark p mic k l =>
    refine ⟨List.pairwise_map.mpr (hp.one.imp fun {a b} hab m j => ?_), fun t ht w hw => ?_, fun hz t ht => ?_⟩
    · rw [(markAcked_warn mic k l a).1, (markAcked_warn mic k l b).1]
      exact hab m j
    all_goals obtain ⟨x, hx, rfl⟩ := List.mem_map.mp ht
    · obtain ⟨v, hv, hm⟩ := (markAcked_warn mic k l x).2.2 w hw
      exact hm ▸ hp.reported x hx v hv
    · exact (markAcked_warn mic k l x).2.1.trans (hp.silent hz x hx)
  | place h => exact hp.join (f := ⟨_, 0⟩) h (placeTx_perm _ _)
  | @send p t rest hq =>
    have := hp.withTx (hq ▸ List.sublist_cons_self t rest)
    exact ⟨this.one, this.reported, this.silent⟩
  | handBack _ _ h =>
    have := hp.join h (.refl _)
    exact ⟨this.one, this.reported, this.silent⟩
  | @assign p mic f hmic hrole _ =>
    refine ⟨hp.one, fun t ht w hw => ?_, hp.silent⟩
    obtain ⟨d, hd, hr⟩ := hp.reported t ht w hw
    rw [duty?_assign hmic, hd]
    refine ⟨_, rfl, ?_⟩
    split
    · rename_i hm
      by_contra hne
      have := hrole d (hm ▸ hd) hr hne t ht
      simp [hw, Frame.warnOf, hm] at this
    · exact hr
  | @leave p keep h =>
    refine ⟨hp.one, fun t ht w hw => ?_, hp.silent⟩
    have hkeep : keep w.mic = true := by
      by_contra hne
      have := h t ht w.mic (by simpa using hne)
      simp [hw, Frame.warnOf] at this
    rw [duty?_leave hkeep]
    exact hp.reported t ht w hw
  | @force p cause h =>
    refine ⟨hp.one, hp.reported, fun _ => ?_⟩
    by_cases hz : p.zone = .notInForce
    · exact h hz
    · exact hp.silent hz
  | unforce p => exact ⟨hp.one, hp.reported, fun hz => absurd rfl hz⟩
  | listen _ _ ih =>
    have := (ih ⟨hp.one, hp.reported, hp.silent⟩).withTx (List.filter_sublist (p := fun g => g.frame.isStation))
    exact ⟨this.one, this.reported, this.silent⟩
  | refl p => exact hp
  | _ => exact ⟨hp.one, hp.reported, hp.silent⟩

/-! ## The station's states -/

/-- What the laws of the station's states say of a stance that has left STARTING (R114, R121, R143, R151, R176, R181). -/
structure Stance.Settled (p : Stance) : Prop where
  loaded : p.load = .done
  awake : p.station ≠ .starting
  joining : p.station = .joining → p.tx = []
  follower : p.station = .listenOnly → ∀ d ∈ p.duties, d.Quiet
  queue : p.station = .listenOnly → ∀ t ∈ p.tx, t.frame.isStation = true
  timers : p.station = .listenOnly → p.joining = .stopped ∧ p.claimRound = .stopped ∧ p.stationRepeat = .stopped

theorem Stance.Runs.load_eq {p q : Stance} (h : p.Runs q) : q.load = p.load := by
  induction h with
  | trans _ _ ih ik => exact ik.trans ih
  | listen _ _ ih => exact ih
  | _ => rfl

theorem Stance.Settled.withTx {p : Stance} (h : p.Settled) {q : List TxFrame} (hj : p.station = .joining → q = [])
    (hl : p.station = .listenOnly → ∀ t ∈ q, t.frame.isStation = true) : ({ p with tx := q } : Stance).Settled :=
  { h with joining := hj, queue := hl }

theorem Stance.Runs.settled {p q : Stance} (h : p.Runs q) (hp : p.Settled) : q.Settled := by
  induction h with
  | trans _ _ ih ik => exact ik (ih hp)
  | thin hq =>
    exact hp.withTx (fun hj => List.sublist_nil.mp (hp.joining hj ▸ hq)) fun hl t ht => hp.queue hl t (hq.subset ht)
  | mark p mic k l =>
    refine hp.withTx (fun hj => by rw [hp.joining hj]; rfl) fun hl t ht => ?_
    obtain ⟨x, hx, rfl⟩ := List.mem_map.mp ht
    have hst := hp.queue hl x hx
    cases hf : x.frame with
    | station r => simpa [markAcked, hf] using hst
    | _ => simp [hf, Frame.isStation] at hst
  | place h =>
    refine hp.withTx (fun hj => absurd hj h.joined) fun hl t ht => ?_
    rcases mem_placeTx.mp ht with rfl | ht
    · exact h.heard hl
    · exact hp.queue hl t ht
  | @send p t rest hq =>
    have := hp.withTx (q := rest) (fun hj => absurd (hq.symm.trans (hp.joining hj)) (by simp))
      fun hl g hg => hp.queue hl g (hq ▸ List.mem_cons_of_mem t hg)
    exact { this with }
  | sent p => exact { hp with }
  | handBack _ _ h =>
    refine { hp with joining := fun hj => absurd hj h.joined, queue := fun hl g hg => ?_ }
    rcases List.mem_cons.mp hg with rfl | hg
    · exact h.heard hl
    · exact hp.queue hl g hg
  | @assign p mic f hmic _ hquiet =>
    refine { hp with follower := fun hl x hx => ?_ }
    obtain ⟨d, hd, rfl⟩ := List.mem_map.mp hx
    split
    · exact hquiet hl (fun y hy _ => hp.follower hl y hy) d hd ‹_›
    · exact hp.follower hl d hd
  | leave _ => exact { hp with follower := fun hl d hd => hp.follower hl d (List.mem_of_mem_filter hd) }
  | time h =>
    refine { hp with timers := fun hl => ?_ }
    obtain ⟨hj, hc, hr⟩ := hp.timers hl
    obtain ⟨kj, kc, kr⟩ := h hl
    exact ⟨kj hj, kc hc, kr hr⟩
  | @enter p st hne hst =>
    have hother : st ≠ .starting ∧ st ≠ .listenOnly := by
      rcases hst with rfl | rfl | ⟨rfl, -⟩ <;> decide
    refine ⟨hp.loaded, hother.1, fun hj => ?_, fun hl => absurd hl hother.2, fun hl => absurd hl hother.2,
      fun hl => absurd hl hother.2⟩
    rcases hst with rfl | rfl | ⟨-, hq⟩
    · cases hj
    · cases hj
    · exact hq
  | listen h hq _ =>
    obtain ⟨hst, hj, -⟩ := h.listening rfl
    exact ⟨h.load_eq.trans hp.loaded, by simp [hst], fun hl => absurd (hst.symm.trans hl) (by decide), fun _ => hq,
      fun _ t ht => (List.mem_filter.mp ht).2, fun _ => ⟨hj rfl, rfl, rfl⟩⟩
  | refl p => exact hp
  | force _ => exact { hp with }
  | unforce p => exact { hp with }

end Sys2Proof.Machine
end

section
/-! The operations that blocks share, as changes of the stance: frames queued and removed, roles, the zone, removals, faults and the
entry into LISTEN_ONLY (R36, R75, R98 to R103, R113 to R118, R143 to R149, R180, R181). -/

namespace Sys2Proof.Machine

/-! ## Operations that leave the stance -/

section
variable (s : State)

theorem State.mapEntry_stance (mic : Nat) {f : Entry → Entry} (hf : ∀ e, (f e).duty = e.duty) :
    (s.mapEntry mic f).stance = s.stance := by
  have hduties : (s.table.map fun e => if e.mic = mic then f e else e).map Entry.duty = s.table.map Entry.duty := by
    rw [List.map_map]
    refine List.map_congr_left fun e _ => ?_
    by_cases hm : e.mic = mic <;> simp [hm, hf]
  show ({ s.stance with duties := (s.mapEntry mic f).table.map Entry.duty } : Stance) = s.stance
  exact congrArg (fun ds => ({ s.stance with duties := ds } : Stance)) hduties

theorem State.modEntry_stance (mic : Nat) {f : Entry → Entry} (hf : ∀ e, (f e).duty = e.duty) :
    (s.modEntry mic f).stance = s.stance := s.mapEntry_stance mic (by exact hf)

@[simp] theorem Entry.setRecord_duty (k : Kind) (r : Record) (e : Entry) : (e.setRecord k r).duty = e.duty := by cases k <;> rfl

@[simp] theorem State.modRecord_stance (mic : Nat) (k : Kind) (f : Record → Record) : (s.modRecord mic k f).stance = s.stance :=
  s.modEntry_stance mic fun e => e.setRecord_duty k _

@[simp] theorem State.discardFrame_stance (f : Frame) : (s.discardFrame f).stance = s.stance := by
  rcases State.discardFrame_cases f s with h | ⟨w, -, h⟩ <;> rw [h]
  refine s.mapEntry_stance w.mic fun e => ?_
  split
  · rfl
  · exact e.setRecord_duty w.kind _

theorem State.discardWhere_stance (drop : Frame → Bool) :
    (s.discardWhere drop).stance = { s.stance with tx := s.tx.filter fun t => !drop t.frame } :=
  State.discardWhere_keeps (P := fun u => u.stance = { s.stance with tx := s.tx.filter fun t => !drop t.frame })
    (fun f u hu => (u.discardFrame_stance f).trans hu) drop rfl

@[simp] theorem State.selectLamp_stance (l : Lamp) : (s.selectLamp l).stance = s.stance := by cases l <;> rfl

@[simp] theorem State.selectWarningLamps_stance : s.selectWarningLamps.stance = s.stance := by simp [State.selectWarningLamps]

@[simp] theorem State.zoneHandOff_stance : s.zoneHandOff.stance = s.stance := s.selectLamp_stance .station

@[simp] theorem State.stationHandOff_stance : s.stationHandOff.stance = s.stance :=
  (State.selectLamp_stance _ .station).trans s.selectWarningLamps_stance

@[simp] theorem State.offerCue_stance (c : Cue) : (s.offerCue c).stance = s.stance := by
  unfold State.offerCue
  split <;> rfl

@[simp] theorem State.selectCue_stance (mic : Nat) : (s.selectCue mic).stance = s.stance := by
  unfold State.selectCue
  split
  · rfl
  · split
    · split
      · rfl
      · exact (State.offerCue_stance _ _).trans (s.modEntry_stance mic fun _ => rfl)
    · exact s.modEntry_stance mic fun _ => rfl

@[simp] theorem State.giveInput_stance (mic : Nat) (k : Kind) : (s.giveInput mic k).stance = s.stance := by
  unfold State.giveInput
  split
  · rfl
  · exact s.modRecord_stance mic k _

@[simp] theorem State.giveInputs_stance (mic : Nat) : (s.giveInputs mic).stance = s.stance := by simp [State.giveInputs]

/-- A change of an entry as a change of its duty. -/
theorem State.modEntry_duties (mic : Nat) {f : Entry → Entry} {g : Duty → Duty} (hfg : ∀ e, (f e).duty = g e.duty) :
    (s.modEntry mic f).stance =
      { s.stance with duties := s.stance.duties.map fun d => if d.mic = mic then g d else d } := by
  have hduties : (s.modEntry mic f).table.map Entry.duty = (s.table.map Entry.duty).map fun d => if d.mic = mic then g d else d := by
    simp only [State.modEntry, State.mapEntry, List.map_map]
    refine List.map_congr_left fun e _ => ?_
    by_cases hm : e.mic = mic
    · simpa [hm, Entry.duty] using hfg e
    · simp [hm, Entry.duty]
  show { s.stance with duties := (s.modEntry mic f).table.map Entry.duty } = _
  rw [hduties]
  rfl

end

/-! ## Runs of states -/

theorem Stance.Admits.thin {p : Stance} {f : Frame} (h : p.Admits f) {q : List TxFrame} (hq : q.Sublist p.tx) :
    ({ p with tx := q } : Stance).Admits f :=
  { h with only := fun g hg => h.only g (hq.subset hg) }

/-- A frame other than a WARN is admitted by the state of the station alone (R143). -/
theorem Stance.admits_other {p : Stance} {f : Frame} (hf : ∀ w, f ≠ .warn w) (hj : p.station ≠ .joining)
    (hl : p.station = .listenOnly → f.isStation = true) : p.Admits f where
  joined := hj
  heard := hl
  reported := fun w hw => absurd hw (hf w)
  only := by cases f <;> simp_all [Frame.warnFor]
  silent := by cases f <;> simp_all [Frame.lostWarn]

/-- A WARN that passes the gates is admitted once the queued one of its microphone and kind is removed (R143 to R145). -/
theorem State.warnGate_admits {t : State} {mic : Nat} {e : Entry} {k : Kind} (he : t.entry? mic = some e)
    (hg : t.warnGate e k = true) (reason : Reason) :
    (t.removeWhere (Frame.warnFor mic k)).stance.Admits (.warn (composeWarn t.now e k reason)) := by
  obtain ⟨-, hm⟩ := State.entry?_some he
  simp only [State.warnGate, Bool.and_eq_true, decide_eq_true_eq] at hg
  obtain ⟨⟨hst, hrole⟩, hheld⟩ := hg
  exact {
    joined := fun hj : t.station = .joining => by simp [hj, StationState.sendsAll] at hst
    heard := fun hl : t.station = .listenOnly => by simp [hl, StationState.sendsAll] at hst
    reported := fun w hw => by
      cases hw
      refine ⟨e.duty, ?_, hrole⟩
      show t.stance.duty? e.mic = _
      rw [hm, State.stance_duty?, he]
      rfl
    only := fun g hg m j hf => by
      obtain ⟨hem, hkj⟩ := Bool.and_eq_true_iff.mp hf
      obtain rfl : e.mic = m := of_decide_eq_true hem
      obtain rfl : k = j := of_decide_eq_true hkj
      rw [hm]
      simpa using (List.mem_filter.mp hg).2
    silent := fun hz => by
      have hlost : ¬((Frame.warn (composeWarn t.now e k reason)).lostWarn = true) := fun hf => by
        obtain ⟨hk, hl⟩ := Bool.and_eq_true_iff.mp hf
        have hl : (e.record k).level = .higher := of_decide_eq_true hl
        obtain rfl : k = .signal := of_decide_eq_true hk
        exact hz (show t.zone = .notInForce by simpa [hl] using hheld)
      simpa using hlost }

/-- The stance of `t` comes of that of `s`. -/
def State.Runs (s t : State) : Prop := s.stance.Runs t.stance

/-- What a failed verification does in a state with no more entries than `s`: the entry goes, and the stance runs on. -/
def State.Handles (s : State) (fx : Nat → State → State) : Prop :=
  ∀ mic u, u.table.length ≤ s.table.length → u.entry? mic ≠ none → u.Runs (fx mic u) ∧ (fx mic u).entry? mic = none

namespace State.Runs

variable {s t u : State}

theorem refl (s : State) : s.Runs s := Stance.Runs.refl _

theorem trans (h : s.Runs t) (k : t.Runs u) : s.Runs u := Stance.Runs.trans h k

theorem same (h : s.Runs t) (hu : u.stance = t.stance) : s.Runs u := by
  unfold State.Runs
  rwa [hu]

theorem mics (h : s.Runs t) : t.mics.Sublist s.mics := by
  have hmics : ∀ v : State, v.stance.duties.map Duty.mic = v.mics := fun v => by
    simp only [State.stance, State.mics, List.map_map]
    rfl
  simpa only [hmics] using Stance.Runs.mics h

theorem gone (h : s.Runs t) {mic : Nat} (hn : s.entry? mic = none) : t.entry? mic = none :=
  State.entry?_none.mpr fun e he hm => by
    obtain ⟨x, hx, hxm⟩ := List.mem_map.mp (h.mics.subset (List.mem_map_of_mem he))
    exact State.entry?_none.mp hn x hx (hxm.trans hm)

theorem length_le (h : s.Runs t) : t.table.length ≤ s.table.length := by simpa [State.mics] using h.mics.length_le

theorem sweep (h : s.Runs t) {fx act : Nat → State → State} (hfx : s.Handles fx)
    (hact : ∀ mic u, s.Runs u → s.Runs (act mic u)) : s.Runs (t.sweep fx act) :=
  State.sweep_keeps (P := s.Runs) (fun mic u e he _ hu => hu.trans (hfx mic u hu.length_le (by simp [he])).1)
    (fun mic u _ _ _ hu => hact mic u hu) h

theorem verified (h : s.Runs t) {fx : Nat → State → State} (hfx : s.Handles fx) (mic : Nat) {act : Entry → State → State}
    (hact : ∀ e, t.entry? mic = some e → s.Runs (act e t)) : s.Runs (t.verified fx mic act) := by
  rcases State.verified_cases fx mic act t with hv | ⟨e, he, -, hv⟩ | ⟨e, he, -, hv⟩ <;> rw [hv]
  · exact h
  · exact h.trans (hfx mic t h.length_le (by simp [he])).1
  · exact hact e he

/-! ## Entries -/

/-- A change of an entry's duty. -/
theorem assign (h : s.Runs t) (mic : Nat) {f : Entry → Entry} {g : Duty → Duty} (hfg : ∀ e, (f e).duty = g e.duty)
    (hmic : ∀ d, (g d).mic = d.mic)
    (hrole : ∀ e, t.entry? mic = some e → e.role = .reporter → (g e.duty).role ≠ .reporter → ∀ x ∈ t.tx, x.frame.warnOf mic = false)
    (hquiet : t.station = .listenOnly → (∀ e, t.entry? mic = some e → e.duty.Quiet) → ∀ d : Duty, d.Quiet → (g d).Quiet) :
    s.Runs (t.modEntry mic f) := by
  unfold State.Runs
  rw [t.modEntry_duties mic hfg]
  refine Stance.Runs.trans h (.assign hmic (fun d hd => ?_) fun hst hall d hd hm => ?_)
  · rw [State.stance_duty?, Option.map_eq_some_iff] at hd
    obtain ⟨e, he, rfl⟩ := hd
    exact hrole e he
  · refine hquiet hst (fun e he => ?_) d (hall d hd hm)
    obtain ⟨hmem, hem⟩ := State.entry?_some he
    exact hall e.duty (List.mem_map_of_mem hmem) hem

/-- A change of an entry that stops role timers at most. -/
theorem rest (h : s.Runs t) (mic : Nat) {f : Entry → Entry} {g : Duty → Duty} (hfg : ∀ e, (f e).duty = g e.duty)
    (hg : ∀ d, (g d).mic = d.mic ∧ (g d).role = d.role ∧ (d.Quiet → (g d).Quiet)) : s.Runs (t.modEntry mic f) :=
  h.assign mic hfg (fun d => (hg d).1) (fun e _ hr hne => absurd ((hg e.duty).2.1.trans hr) hne) fun _ _ d => (hg d).2.2

theorem modEntry (h : s.Runs t) (mic : Nat) {f : Entry → Entry} (hf : ∀ e, (f e).duty = e.duty) : s.Runs (t.modEntry mic f) :=
  h.same (t.modEntry_stance mic hf)

theorem modRecord (h : s.Runs t) (mic : Nat) (k : Kind) (f : Record → Record) : s.Runs (t.modRecord mic k f) :=
  h.same (t.modRecord_stance mic k f)

theorem giveInput (h : s.Runs t) (mic : Nat) (k : Kind) : s.Runs (t.giveInput mic k) := h.same (t.giveInput_stance mic k)

theorem giveInputs (h : s.Runs t) (mic : Nat) : s.Runs (t.giveInputs mic) := h.same (t.giveInputs_stance mic)

theorem selectCue (h : s.Runs t) (mic : Nat) : s.Runs (t.selectCue mic) := h.same (t.selectCue_stance mic)

/-! ## The transmit queue -/

theorem thin (h : s.Runs t) {q : List TxFrame} (hq : q.Sublist t.tx) : s.Runs { t with tx := q } := Stance.Runs.trans h (.thin hq)

theorem removeWhere (h : s.Runs t) (drop : Frame → Bool) : s.Runs (t.removeWhere drop) := h.thin List.filter_sublist

theorem discardWhere (h : s.Runs t) (drop : Frame → Bool) : s.Runs (t.discardWhere drop) :=
  (h.thin List.filter_sublist).same (t.discardWhere_stance drop)

theorem submit (h : s.Runs t) {f : Frame} (hf : t.stance.Admits f) : s.Runs (t.submit f).1 := by
  rcases State.submit_cases f t with ⟨-, hs⟩ | ⟨-, v, rest, hv, hs⟩ | ⟨-, -, hs⟩ <;> rw [hs]
  · exact Stance.Runs.trans h (.place hf)
  · obtain ⟨-, -, pre, post, hq, rfl, -⟩ := victimFor_some hv
    have hsub : (pre ++ post).Sublist t.tx := hq ▸ (List.sublist_cons_self v post).append_left pre
    have placed : s.Runs { t with tx := placeTx ⟨f, 0⟩ (pre ++ post) } :=
      Stance.Runs.trans (h.thin hsub) (.place (p := { t.stance with tx := pre ++ post }) (hf.thin hsub))
    exact placed.same (State.discardFrame_stance _ _)
  · exact h.same rfl

theorem requestFrame (h : s.Runs t) {f : Frame} (hf : ∀ w, f ≠ .warn w) : s.Runs (t.requestFrame f) := by
  unfold State.requestFrame
  split
  · rename_i hst
    exact h.submit (Stance.admits_other hf (fun hj : t.station = .joining => by simp [hj, StationState.sendsAll] at hst)
      fun hl : t.station = .listenOnly => by simp [hl, StationState.sendsAll] at hst)
  · exact h

end State.Runs

end Sys2Proof.Machine
end

section
/-! Announcements, roles, the zone, removals, faults and the entry into LISTEN_ONLY as changes of the stance (R36, R75, R98 to R103,
R113 to R118, R180, R181). -/

namespace Sys2Proof.Machine

/-- The duty of an entry that is or has become FOLLOWER (R118). -/
def Duty.follow (d : Duty) : Duty := { d with role := .follower }

/-- The duty of an entry that has gained REPORTER (R117). -/
def Duty.gain (d : Duty) : Duty := { d with role := .reporter, takeover := .stopped }

/-- A loss of the role removes the entry's WARN frames and makes it FOLLOWER (R118). -/
theorem State.loseReporter_stance (mic : Nat) (s : State) : (s.loseReporter mic).stance =
    { s.stance with
      tx := s.tx.filter fun t => !t.frame.warnOf mic
      duties := s.stance.duties.map fun d => if d.mic = mic then d.follow else d } := by
  unfold State.loseReporter
  rw [State.selectCue_stance, State.modEntry_stance _ mic (by exact fun _ => rfl), State.discardWhere_stance,
    s.modEntry_duties mic (g := Duty.follow) (by exact fun _ => rfl)]
  rfl

/-- An entry made FOLLOWER, whatever its role was (R113, R114). -/
theorem State.makeFollower_duties {s : State} {mic : Nat} (h : s.entry? mic ≠ none) : (s.makeFollower mic).stance.duties =
    s.stance.duties.map fun d => if d.mic = mic then d.follow else d := by
  obtain ⟨e, he⟩ := Option.ne_none_iff_exists'.mp h
  simp only [State.makeFollower, he]
  split
  · rw [State.loseReporter_stance]
  · rw [s.modEntry_duties mic (g := Duty.follow) (by exact fun _ => rfl)]

/-- The role sweep leaves the entry it visits quiet (R114). -/
theorem State.quietEntry_quiet {s : State} {mic : Nat} (h : s.entry? mic ≠ none) :
    ∀ d ∈ (s.quietEntry mic).stance.duties, d.mic = mic → d.Quiet := by
  intro d hd hm
  rw [State.quietEntry, State.modEntry_duties _ mic
    (g := fun d => { d with pendingTimer := .stopped, takeover := .stopped }) (by exact fun _ => rfl), State.makeFollower_duties h,
    List.map_map] at hd
  obtain ⟨x, -, rfl⟩ := List.mem_map.mp hd
  by_cases hx : x.mic = mic
  · simp only [Function.comp_apply, hx, if_true, Duty.follow]
    exact ⟨rfl, rfl, rfl⟩
  · simp [hx] at hm

namespace State.Runs

variable {s t : State}

/-! ## Announcements -/

theorem requestWarn (h : s.Runs t) (mic : Nat) (k : Kind) (reason : Reason) : s.Runs (t.requestWarn mic k reason) := by
  unfold State.requestWarn
  split
  · exact h
  · rename_i e he
    split
    · rename_i hg
      have placed := (h.removeWhere (Frame.warnFor mic k)).submit (State.warnGate_admits he hg reason)
      dsimp only
      split
      · exact placed.modRecord mic k _
      · exact placed
    · exact h

theorem announce (h : s.Runs t) (mic : Nat) (k : Kind) (reason : Reason) : s.Runs (t.announce mic k reason) :=
  (h.requestWarn mic k reason).modEntry mic (by exact fun e => e.setRecord_duty k _)

theorem adopt (h : s.Runs t) (mic : Nat) (k : Kind) : s.Runs (t.adopt mic k) := by
  unfold State.adopt
  split
  · exact h
  · split
    · exact h.announce mic k _
    · exact h

theorem adoptAll (h : s.Runs t) (mic : Nat) : s.Runs (t.adoptAll mic) := ((h.adopt mic _).adopt mic _).adopt mic _

/-- The station's timers change; in LISTEN_ONLY the station repeat timer runs on only if it ran (R151). -/
theorem repeats (h : s.Runs t) {timer : Timer} (ht : t.station = .listenOnly → t.stationRepeat = .stopped → timer = .stopped) :
    s.Runs { t with stationRepeat := timer } :=
  Stance.Runs.trans h (.time (p := t.stance) fun hl => ⟨id, id, ht hl⟩)

/-- A timer that is reloaded while it runs or outside LISTEN_ONLY (R151). -/
theorem requestStation (h : s.Runs t) (start : Bool) : s.Runs (t.requestStation start) := by
  unfold State.requestStation
  split
  · rename_i hst
    have admitted : (t.removeWhere Frame.isStation).stance.Admits (.station (composeStation t)) :=
      Stance.admits_other (by simp) (fun hj : t.station = .joining => by simp [hj, StationState.sendsStation] at hst) fun _ => rfl
    have placed := (h.removeWhere Frame.isStation).submit admitted
    have hsubmit := State.submit_eq (.station (composeStation t)) (t.removeWhere Frame.isStation)
    dsimp only
    split
    · rename_i hrun
      refine placed.repeats fun hl hstop => ?_
      rw [hsubmit] at hl hstop
      have hl : t.station = .listenOnly := hl
      have hstop : t.stationRepeat = .stopped := hstop
      simp [hl, hstop, Timer.isRunning, StationState.sendsAll] at hrun
    · exact placed
  · exact h

/-! ## Roles -/

/-- An entry becomes REPORTER, out of LISTEN_ONLY or when it is not quiet (R113, R116). -/
theorem gain (h : s.Runs t) (mic : Nat) (hg : t.station = .listenOnly → ∃ e, t.entry? mic = some e ∧ ¬e.duty.Quiet) :
    s.Runs (t.modEntry mic fun e => { e with role := .reporter, takeover := .stopped }) :=
  h.assign mic (g := Duty.gain) (fun _ => rfl) (fun _ => rfl) (fun _ _ _ hne => absurd rfl hne) fun hl hall => by
    obtain ⟨e, he, hq⟩ := hg hl
    exact absurd (hall e he) hq

/-- The adoption and the hand-offs of a gain of the role (R117). -/
theorem gainReporter {mic : Nat} (h : s.Runs (t.modEntry mic fun e => { e with role := .reporter, takeover := .stopped })) :
    s.Runs (t.gainReporter mic) :=
  ((h.adoptAll mic).modEntry mic (by exact fun _ => rfl)).selectCue mic

/-- The WARN frames of an entry leave the queue, and its duty becomes one that is not REPORTER (R118). -/
theorem resign (h : s.Runs t) (mic : Nat) {g : Duty → Duty} (hmic : ∀ d, (g d).mic = d.mic)
    (hquiet : t.station = .listenOnly → (∀ e, t.entry? mic = some e → e.duty.Quiet) → ∀ d : Duty, d.Quiet → (g d).Quiet) {u : State}
    (hu : u.stance = { t.stance with
      tx := t.tx.filter fun x => !x.frame.warnOf mic
      duties := t.stance.duties.map fun d => if d.mic = mic then g d else d }) : s.Runs u := by
  have cleared : s.Runs (t.removeWhere (Frame.warnOf mic)) := h.removeWhere _
  refine Stance.Runs.trans cleared (hu ▸ .assign hmic (fun _ _ _ _ x hx => ?_) fun hl hall d hd hm => ?_)
  · simpa using (List.mem_filter.mp hx).2
  · refine hquiet hl (fun e he => ?_) d (hall d hd hm)
    obtain ⟨hmem, hem⟩ := State.entry?_some he
    exact hall e.duty (List.mem_map_of_mem hmem) hem

theorem follow_quiet {d : Duty} (h : d.Quiet) : d.follow.Quiet := ⟨rfl, h.pendingTimer, h.takeover⟩

theorem loseReporter (h : s.Runs t) (mic : Nat) : s.Runs (t.loseReporter mic) :=
  h.resign mic (g := Duty.follow) (fun _ => rfl) (fun _ _ _ => follow_quiet) (t.loseReporter_stance mic)

theorem makeFollower (h : s.Runs t) (mic : Nat) : s.Runs (t.makeFollower mic) := by
  unfold State.makeFollower
  split
  · exact h
  · rename_i e he
    split
    · exact h.loseReporter mic
    · rename_i hr
      refine h.assign mic (g := Duty.follow) (fun _ => rfl) (fun _ => rfl) (fun x hx hxr => absurd hxr ?_) fun _ _ _ => follow_quiet
      obtain rfl : e = x := by simpa [he] using hx
      exact hr

theorem quietEntry (h : s.Runs t) (mic : Nat) : s.Runs (t.quietEntry mic) :=
  (h.makeFollower mic).rest mic (g := fun d => { d with pendingTimer := .stopped, takeover := .stopped }) (fun _ => rfl)
    fun _ => ⟨rfl, rfl, fun hq => ⟨hq.role, rfl, rfl⟩⟩

theorem decideRole (h : s.Runs t) (hst : t.station ≠ .listenOnly) (mic own : Nat) : s.Runs (t.decideRole mic own) := by
  unfold State.decideRole
  split
  · exact h
  · split
    · split
      · exact h
      · exact (h.gain mic fun hl => absurd hl hst).gainReporter
    · exact h.makeFollower mic

theorem computeRole (h : s.Runs t) (mic : Nat) : s.Runs (t.computeRole mic) := by
  unfold State.computeRole
  split
  · exact h
  · split
    · rename_i hc
      exact h.decideRole hc.2.2 mic _
    · exact h

/-! ## The zone -/

/-- The zone in force, with the STATION frame asked for and the hand-offs (R98, R102, R103). -/
theorem force (h : s.Runs t) (cause : ZoneCause) (hz : t.zone = .notInForce → ∀ g ∈ t.tx, g.frame.lostWarn = false) :
    s.Runs (t.zoneCause cause) := by
  have forced : s.Runs { t with zone := .inForce cause } := Stance.Runs.trans h (.force (p := t.stance) hz)
  exact (forced.requestStation false).same (State.zoneHandOff_stance _)

theorem zoneEnter (h : s.Runs t) (cause : ZoneCause) : s.Runs (t.zoneEnter cause) :=
  (h.discardWhere Frame.lostWarn).force cause fun _ g hg => by
    rw [State.discardWhere_tx] at hg
    simpa using (List.mem_filter.mp hg).2

theorem zoneFeed (h : s.Runs t) : s.Runs t.zoneFeed := by
  unfold State.zoneFeed
  split
  · exact h.zoneEnter _
  · exact h.force _ fun hz => absurd hz ‹_›

theorem reannounce (h : s.Runs t) (mic : Nat) : s.Runs (t.reannounce mic) := by
  unfold State.reannounce
  split
  · exact h
  · split
    · exact h.announce mic _ _
    · exact h

/-- An entry gone with its WARN frames (R34). -/
theorem dropEntry (h : s.Runs t) (mic : Nat) : s.Runs ((t.dropEntry mic).removeWhere (Frame.warnOf mic)) := by
  have cleared : s.Runs (t.removeWhere (Frame.warnOf mic)) := h.removeWhere _
  refine Stance.Runs.trans cleared ?_
  have hstance : ((t.dropEntry mic).removeWhere (Frame.warnOf mic)).stance =
      { (t.removeWhere (Frame.warnOf mic)).stance with
        duties := t.stance.duties.filter fun d => decide (d.mic ≠ mic) } := by
    simp only [State.stance, List.filter_map]
    rfl
  rw [hstance]
  refine .leave (p := (t.removeWhere (Frame.warnOf mic)).stance) (keep := fun m => decide (m ≠ mic)) fun g hg m hm => ?_
  obtain rfl : m = mic := by simpa using hm
  simpa using (List.mem_filter.mp hg).2

section
variable {fx : Nat → State → State} (hfx : s.Handles fx)
include hfx

theorem zoneEnd (h : s.Runs t) : s.Runs (t.zoneEnd fx) := by
  have ended : s.Runs { t with zone := .notInForce, zoneRepeat := .stopped } := Stance.Runs.trans h (.unforce t.stance)
  exact ((ended.requestStation false).sweep hfx fun mic _ hu => hu.reannounce mic).same (State.zoneHandOff_stance _)

theorem updateLost (h : s.Runs t) : s.Runs (t.updateLost fx) := by
  have counted : s.Runs { t with lostCount := lostOf t.table } := h.same rfl
  rcases State.updateLost_cases fx t with hu | ⟨-, hu⟩ | ⟨-, hu⟩ <;> rw [hu]
  · exact counted
  · exact counted.zoneEnter _
  · exact counted.zoneEnd hfx

theorem feedCauseEnds (h : s.Runs t) : s.Runs (t.feedCauseEnds fx) := by
  unfold State.feedCauseEnds
  split
  · rename_i hz
    split
    · exact h.force _ fun hn => absurd (hz.symm.trans hn) (by decide)
    · exact h.zoneEnd hfx
  · exact h

/-! ## Sweeps, removals and faults -/

theorem pauseEntry (h : s.Runs t) (fromJoining : Bool) (mic : Nat) : s.Runs (t.pauseEntry fx fromJoining mic) := by
  have paused : s.Runs (if t.station = .feedDown then t.modEntry mic (Entry.mapPresence (Timer.pause t.now)) else t) := by
    split
    · exact h.modEntry mic fun _ => rfl
    · exact h
  have given := (paused.giveInputs mic).updateLost hfx
  unfold State.pauseEntry
  dsimp only
  split
  · exact given.selectCue mic
  · exact given

theorem resumeSweep (h : s.Runs t) : s.Runs (t.resumeSweep fx) :=
  h.sweep hfx fun mic _ hu => ((hu.modEntry mic (by exact fun _ => rfl)).giveInputs mic).updateLost hfx

theorem removeEntry (h : s.Runs t) (mic : Nat) : s.Runs (t.removeEntry fx mic) :=
  ((h.dropEntry mic).updateLost hfx).same (State.selectWarningLamps_stance _)

/-- The role sweep leaves every entry quiet: those visited are FOLLOWER or gone, and no entry comes (R114). -/
theorem quietSweep (h : s.Runs t) (hst : t.station = .listenOnly) :
    s.Runs (t.sweep fx State.quietEntry) ∧ ∀ d ∈ (t.sweep fx State.quietEntry).stance.duties, d.Quiet := by
  suffices ∀ (mics : List Nat) (done : Nat → Prop) (u : State), t.Runs u → (∀ d ∈ u.stance.duties, done d.mic → d.Quiet) →
      let v := mics.foldl (fun s mic => s.verified fx mic fun _ => State.quietEntry mic) u
      t.Runs v ∧ ∀ d ∈ v.stance.duties, done d.mic ∨ d.mic ∈ mics → d.Quiet by
    obtain ⟨hrun, hquiet⟩ := this t.mics (fun _ => False) t (.refl t) (by simp)
    refine ⟨h.trans hrun, fun d hd => hquiet d hd (.inr (hrun.mics.subset ?_))⟩
    obtain ⟨e, he, rfl⟩ := List.mem_map.mp hd
    exact List.mem_map_of_mem he
  intro mics
  induction mics with
  | nil => exact fun done u hu hdone => ⟨hu, fun d hd hm => hdone d hd (by simpa using hm)⟩
  | cons mic rest ih =>
    intro done u hu hdone
    have visited : ∀ v : State, u.Runs v → (∀ d ∈ v.stance.duties, d.mic = mic → d.Quiet) →
        t.Runs v ∧ ∀ d ∈ v.stance.duties, done d.mic ∨ d.mic = mic → d.Quiet := fun v hv hvisit => by
      obtain ⟨-, -, hV⟩ := Stance.Runs.listening hv (Stance.Runs.listening hu hst).1
      exact ⟨hu.trans hv, fun d hd hm => hm.elim (hV done hdone d hd) (hvisit d hd)⟩
    have absent : ∀ v : State, v.entry? mic = none → ∀ d ∈ v.stance.duties, d.mic = mic → d.Quiet := fun v hn d hd hm => by
      obtain ⟨e, he, rfl⟩ := List.mem_map.mp hd
      exact absurd hm (State.entry?_none.mp hn e he)
    obtain ⟨hrun, hquiet⟩ := show t.Runs (u.verified fx mic fun _ => State.quietEntry mic) ∧
        ∀ d ∈ (u.verified fx mic fun _ => State.quietEntry mic).stance.duties, done d.mic ∨ d.mic = mic → d.Quiet by
      cases he : u.entry? mic with
      | none =>
        have hv : u.verified fx mic (fun _ => State.quietEntry mic) = u := by simp [State.verified, he]
        rw [hv]
        exact visited u (.refl u) (absent u he)
      | some e =>
        have hsome : u.entry? mic ≠ none := by simp [he]
        cases hc : e.checkGood with
        | false =>
          rw [State.verified_faulty he hc]
          obtain ⟨hfault, hgone⟩ := hfx mic u (h.trans hu).length_le hsome
          exact visited _ hfault (absent _ hgone)
        | true =>
          have hv : u.verified fx mic (fun _ => State.quietEntry mic) = u.quietEntry mic := by simp [State.verified, he, hc]
          rw [hv]
          exact visited _ ((refl u).quietEntry mic) (State.quietEntry_quiet hsome)
    obtain ⟨hrest, hall⟩ := ih (fun m => done m ∨ m = mic) _ hrun hquiet
    refine ⟨hrest, fun d hd hm => hall d hd ?_⟩
    simpa [or_assoc] using hm

/-- The entry into LISTEN_ONLY (R181): the role sweep, the queue emptied of all but STATION frames, and the rest. -/
theorem enterListenOnly (h : s.Runs t) : s.Runs (t.enterListenOnly fx) := by
  unfold State.enterListenOnly
  extract_lets quiet emptied stopped resumed
  let listening : State := { t with station := .listenOnly, joining := .stopped }
  have hlistening : listening.Handles fx := fun mic u hu => hfx mic u (hu.trans h.length_le)
  obtain ⟨hswept, hquiet⟩ := (refl listening).quietSweep hlistening rfl
  have hstopped : s.Runs stopped := by
    have hstance : stopped.stance = { quiet.stance with
        tx := quiet.tx.filter fun g => g.frame.isStation
        claimRound := .stopped
        stationRepeat := .stopped } := by
      show ({ emptied.stance with stationRepeat := .stopped } : Stance) = _
      simp only [emptied, State.discardWhere_stance, Bool.not_not]
      rfl
    exact Stance.Runs.trans h (hstance ▸ .listen (p := t.stance) (q := quiet.stance) hswept hquiet)
  have hresumed : s.Runs resumed := by
    unfold resumed
    split
    · exact (hstopped.resumeSweep hfx).feedCauseEnds hfx
    · exact hstopped
  exact (hresumed.requestStation false).same (State.stationHandOff_stance _)

theorem faultReport (h : s.Runs t) (mic : Nat) : s.Runs (t.faultReport fx mic) := by
  have reported : s.Runs (if t.window.isRunning then
      ({ t with fault := some .doubleFault, window := .stopped }).enterListenOnly fx
    else ({ t with fault := some (.table mic), window := t.after windowMs }).requestStation false) := by
    split
    · exact (h.same (u := { t with fault := some .doubleFault, window := .stopped }) rfl).enterListenOnly hfx
    · exact (h.same (u := { t with fault := some (.table mic), window := t.after windowMs }) rfl).requestStation false
  unfold State.faultReport
  split
  · exact h
  · exact h.requestStation false
  · exact reported
  · exact reported
  · exact reported

end

end State.Runs

/-- An integrity fault with fuel for every entry takes its entry out, and so do the faults that its own sweeps find (R36, R180). -/
theorem integrityFault_runs (fuel : Nat) : ∀ (mic : Nat) (s : State), s.table.length ≤ fuel → s.entry? mic ≠ none →
    s.Runs (integrityFault fuel mic s) ∧ (integrityFault fuel mic s).entry? mic = none := by
  induction fuel with
  | zero =>
    intro mic s hlen hs
    obtain ⟨e, he⟩ := Option.ne_none_iff_exists'.mp hs
    have := List.length_pos_of_mem (State.entry?_some he).1
    omega
  | succ fuel ih =>
    intro mic s hlen hs
    obtain ⟨e, he⟩ := Option.ne_none_iff_exists'.mp hs
    have hlt := State.dropEntry_length_lt he
    have dropped : s.Runs ((s.dropEntry mic).removeWhere (Frame.warnOf mic)) := (State.Runs.refl s).dropEntry mic
    have hfx : ((s.dropEntry mic).removeWhere (Frame.warnOf mic)).Handles (integrityFault fuel) := fun m u hu =>
      ih m u (hu.trans (show (s.dropEntry mic).table.length ≤ fuel by omega))
    have faulted : ((s.dropEntry mic).removeWhere (Frame.warnOf mic)).Runs (integrityFault (fuel + 1) mic s) := by
      have updated := (State.Runs.refl ((s.dropEntry mic).removeWhere (Frame.warnOf mic))).updateLost hfx
      exact (updated.same (u := (s.removeEntry (integrityFault fuel) mic).count .integrityFaults)
        (State.selectWarningLamps_stance _)).faultReport hfx mic
    exact ⟨dropped.trans faulted, faulted.gone (show (s.dropEntry mic).entry? mic = none by simp)⟩

theorem State.entryFault_handles (s : State) : s.Handles State.entryFault := fun mic u _ hu => integrityFault_runs _ mic u le_rfl hu

end Sys2Proof.Machine
end

section
/-! Presence, claims, the station's states, the expiries of an entry's timers, the feed and the frames taken as changes of the stance
(sections 1, 2, 4, 7 to 9 and 11). -/

namespace Sys2Proof.Machine

namespace State.Runs

variable {s t : State}

/-! ## Presence and claims -/

theorem presenceRole (h : s.Runs t) (mic : Nat) : s.Runs (t.presenceRole mic) := by
  unfold State.presenceRole
  split
  · exact h
  · rename_i e he
    split
    · exact h
    · exact (h.makeFollower mic).rest mic (g := fun d => { d with pendingTimer := .stopped, takeover := .stopped }) (fun _ => rfl)
        fun _ => ⟨rfl, rfl, fun hq => ⟨hq.role, rfl, rfl⟩⟩
    · split
      · exact h
      · rename_i hr
        refine h.assign mic (g := fun d => { d with
          role := .follower
          pendingTimer := .stopped
          takeover := if t.station = .listenOnly then d.takeover else t.after t.params.repeatMs })
          (fun _ => rfl) (fun _ => rfl) (fun x hx hxr => absurd hxr ?_) fun hl _ d hq => ⟨rfl, rfl, (if_pos hl).trans hq.takeover⟩
        obtain rfl : e = x := by simpa [he] using hx
        exact hr

theorem presenceHandOff (h : s.Runs t) (mic : Nat) : s.Runs (t.presenceHandOff mic) :=
  ((((h.presenceRole mic).giveInputs mic).updateLost s.entryFault_handles).selectCue mic).same (State.selectWarningLamps_stance _)

theorem becomeCovered (h : s.Runs t) (mic : Nat) : s.Runs (t.becomeCovered mic) := by
  have moved : s.Runs (t.modEntry mic fun e => { e with presence := .covered, loss := .stopped, lostForget := .stopped }) :=
    h.modEntry mic (by exact fun _ => rfl)
  unfold State.becomeCovered
  dsimp only
  split
  · exact h
  · split
    · exact moved.removeEntry s.entryFault_handles mic
    · exact moved.presenceHandOff mic

theorem becomeSilent (h : s.Runs t) (mic : Nat) : s.Runs (t.becomeSilent mic) :=
  (h.modEntry mic (by exact fun _ => rfl)).presenceHandOff mic

theorem claimsChanged (h : s.Runs t) (mic : Nat) : s.Runs (t.claimsChanged mic) := by
  unfold State.claimsChanged
  split
  · exact h
  · dsimp only
    split
    · exact (h.becomeCovered mic).computeRole mic
    · split
      · exact (h.becomeSilent mic).computeRole mic
      · exact h.computeRole mic

theorem enterClaimFor (h : s.Runs t) (mic : Nat) (c : Claim) : s.Runs (t.enterClaimFor mic c) := by
  rcases State.enterClaimFor_cases mic c t with hc | ⟨e, l, -, -, -, hc⟩ <;> rw [hc]
  · exact h
  · exact (h.modEntry mic (by exact fun _ => rfl)).claimsChanged mic

theorem removeClaim (h : s.Runs t) (mic station : Nat) : s.Runs (t.removeClaim mic station) := by
  unfold State.removeClaim
  split
  · exact h
  · split
    · exact (h.modEntry mic (by exact fun _ => rfl)).claimsChanged mic
    · exact h

/-! ## Station states -/

theorem adoptionEntry (h : s.Runs t) (mic : Nat) : s.Runs (t.adoptionEntry mic) := by
  unfold State.adoptionEntry
  split
  · exact h
  · split
    · exact (h.adoptAll mic).selectCue mic
    · exact h

/-- Outside LISTEN_ONLY the station's timers are free (R121, R151, R176). -/
theorem time (h : s.Runs t) (ht : t.station ≠ .listenOnly) (joining claimRound : Timer) :
    s.Runs { t with joining := joining, claimRound := claimRound } :=
  Stance.Runs.trans h (.time (p := t.stance) (stationRepeat := t.stationRepeat) fun hl => absurd hl ht)

theorem enter (h : s.Runs t) {st : StationState} (ht : t.station ≠ .listenOnly)
    (hst : st = .running ∨ st = .feedDown ∨ st = .joining ∧ t.tx = []) : s.Runs { t with station := st } :=
  Stance.Runs.trans h (.enter (p := t.stance) ht hst)

theorem runningWork (h : s.Runs t) : s.Runs t.runningWork := by
  unfold State.runningWork
  extract_lets asked timed
  have hasked : s.Runs asked := h.requestStation true
  have htimed : s.Runs timed := by
    unfold timed
    split
    · rename_i hr
      exact hasked.time (by simp [hr]) asked.joining _
    · exact hasked
  exact htimed.sweep s.entryFault_handles fun mic _ hu => hu.adoptionEntry mic

theorem enterRunning (h : s.Runs t) (ht : t.station ≠ .listenOnly) : s.Runs t.enterRunning :=
  (h.enter ht (.inl rfl)).runningWork.same (State.stationHandOff_stance _)

theorem enterFeedDown (h : s.Runs t) (ht : t.station ≠ .listenOnly) (fromJoining : Bool) : s.Runs (t.enterFeedDown fromJoining) := by
  have entered : s.Runs { t with station := .feedDown, claimRound := .stopped } :=
    (h.time ht t.joining .stopped).enter ht (.inr (.inl rfl))
  have paused := entered.zoneFeed.sweep s.entryFault_handles fun mic _ hu => hu.pauseEntry s.entryFault_handles fromJoining mic
  exact (paused.requestStation fromJoining).same (State.stationHandOff_stance _)

theorem leaveFeedDown (h : s.Runs t) (ht : t.station ≠ .listenOnly) : s.Runs t.leaveFeedDown :=
  ((((h.enter ht (.inl rfl)).resumeSweep s.entryFault_handles).feedCauseEnds s.entryFault_handles).runningWork).same
    (State.stationHandOff_stance _)

theorem joiningEnds (h : s.Runs t) : s.Runs t.joiningEnds := by
  unfold State.joiningEnds
  split
  · rename_i hj
    have hne : t.station ≠ .listenOnly := by simp [hj.1]
    have stopped : s.Runs { t with joining := .stopped } := h.time hne .stopped t.claimRound
    split
    · exact stopped.enterRunning hne
    · exact stopped.enterFeedDown hne true
  · exact h

theorem windowEnds (h : s.Runs t) : s.Runs t.windowEnds := by
  unfold State.windowEnds
  split
  · exact h.same rfl
  · exact h

/-- A sitting restart (R187): the queue and the table are emptied, and the station joins anew or stays in LISTEN_ONLY. -/
theorem restarted (h : s.Runs t) : s.Runs t.restarted := by
  have emptied : s.Runs { t with tx := [] } := h.thin (List.nil_sublist _)
  have left : s.Runs { t with tx := [], table := [] } := by
    refine Stance.Runs.trans emptied ?_
    have hnil : ({ t with tx := [], table := [] } : State).stance =
        { ({ t with tx := [] } : State).stance with
          duties := ({ t with tx := [] } : State).stance.duties.filter fun _ => false } := by
      rw [List.filter_false]
      rfl
    rw [hnil]
    exact .leave (keep := fun _ => false) fun g hg => absurd hg List.not_mem_nil
  have cleared : s.Runs t.cleared :=
    Stance.Runs.trans left (Stance.Runs.trans (.unforce _) (.time (joining := t.joining) (claimRound := .stopped)
      (stationRepeat := .stopped) fun _ => ⟨id, fun _ => rfl, fun _ => rfl⟩))
  have rejoined : s.Runs t.cleared.rejoin := by
    unfold State.rejoin
    split
    · exact cleared.requestStation false
    · rename_i hne
      exact (cleared.time hne (t.cleared.after t.cleared.params.joiningMs) t.cleared.claimRound).enter hne (.inr (.inr ⟨rfl, rfl⟩))
  exact rejoined.same (State.selectLamp_stance _ .station)

/-! ## The expiries of an entry's timers -/

theorem expiry (h : s.Runs t) (mic : Nat) (timer : Entry → Timer) {act : Entry → State → State}
    (hact : ∀ e, t.entry? mic = some e → (timer e).isDue t.now = true → s.Runs (act e t)) : s.Runs (t.expiry mic timer act) := by
  rcases State.expiry_cases mic timer act t with hx | ⟨e, he, -, -, hx⟩ | ⟨e, he, hd, -, hx⟩ <;> rw [hx]
  · exact h
  · exact h.trans (t.entryFault_handles mic t le_rfl (by simp [he])).1
  · exact hact e he hd

theorem lossExpiry (h : s.Runs t) (mic : Nat) : s.Runs (t.lossExpiry mic) :=
  h.expiry mic _ fun e _ _ => by
    split
    · exact h.becomeSilent mic
    · exact h.becomeCovered mic

theorem forgetExpiry (h : s.Runs t) (mic : Nat) : s.Runs (t.forgetExpiry mic) :=
  h.expiry mic _ fun e _ _ => by
    split
    · exact h.removeEntry s.entryFault_handles mic
    · exact h.modEntry mic (by exact fun _ => rfl)

theorem lostForgetExpiry (h : s.Runs t) (mic : Nat) : s.Runs (t.lostForgetExpiry mic) :=
  h.expiry mic _ fun e _ _ => by
    split
    · exact h.removeEntry s.entryFault_handles mic
    · exact h.modEntry mic (by exact fun _ => rfl)

theorem epochExpiry (h : s.Runs t) (mic : Nat) : s.Runs (t.epochExpiry mic) :=
  h.expiry mic _ fun e _ _ => by
    split
    · exact h.modEntry mic (by exact fun _ => rfl)
    · exact (h.modEntry mic (by exact fun _ => rfl)).giveInput mic _

theorem staleExpiry (h : s.Runs t) (mic : Nat) : s.Runs (t.staleExpiry mic) :=
  h.expiry mic _ fun _ _ _ => (h.modEntry mic (by exact fun _ => rfl)).giveInput mic _

theorem levelHandOff (h : s.Runs t) (mic : Nat) (k : Kind) : s.Runs (t.levelHandOff mic k) := by
  rcases State.levelHandOff_cases mic k t with ⟨-, hl⟩ | ⟨e, -, ⟨-, -, hl⟩ | ⟨-, hl⟩⟩ <;> rw [hl]
  · exact h
  · exact h.removeEntry s.entryFault_handles mic
  · refine State.Runs.same ?_ (State.selectLamp_stance _ _)
    split
    · exact (h.updateLost s.entryFault_handles).selectCue mic
    · exact h.selectCue mic

theorem persistenceExpiry (h : s.Runs t) (mic : Nat) (k : Kind) : s.Runs (t.persistenceExpiry mic k) :=
  h.expiry mic _ fun e _ _ => by
    have moved := fun f reason => ((h.modRecord mic k f).announce mic k reason).levelHandOff mic k
    unfold State.persistenceEnds
    split
    · exact moved _ _
    · exact moved _ _
    · exact moved _ _
    · exact h
    · exact h

theorem repeatExpiry (h : s.Runs t) (mic : Nat) (k : Kind) : s.Runs (t.repeatExpiry mic k) :=
  h.expiry mic _ fun _ _ _ => (h.requestWarn mic k _).modRecord mic k _

theorem claimExpires (h : s.Runs t) (mic station : Nat) : s.Runs (t.claimExpires mic station) :=
  h.expiry mic _ fun _ _ _ => h.removeClaim mic station

theorem pendingExpiry (h : s.Runs t) (mic : Nat) : s.Runs (t.pendingExpiry mic) :=
  h.expiry mic _ fun e _ _ => by
    have stopped : s.Runs (t.modEntry mic fun e => { e with pendingTimer := .stopped }) :=
      h.rest mic (g := fun d => { d with pendingTimer := .stopped }) (fun _ => rfl)
        fun _ => ⟨rfl, rfl, fun hq => ⟨hq.role, rfl, hq.takeover⟩⟩
    dsimp only
    split
    · rename_i hc
      exact stopped.decideRole hc.2 mic _
    · exact stopped

/-- A takeover timer that is due is not stopped: the gain of the role finds the entry not quiet (R116). -/
theorem takeoverExpiry (h : s.Runs t) (mic : Nat) : s.Runs (t.takeoverExpiry mic) :=
  h.expiry mic _ fun e he hd => by
    dsimp only
    split
    · exact h.rest mic (g := fun d => { d with takeover := .stopped }) (fun _ => rfl)
        fun _ => ⟨rfl, rfl, fun hq => ⟨hq.role, hq.pendingTimer, rfl⟩⟩
    · have hloud : ¬e.duty.Quiet := fun hq => by
        have hstop : e.takeover = .stopped := hq.takeover
        simp [hstop, Timer.isDue] at hd
      have gained : s.Runs ((t.modEntry mic fun e => { e with takeover := .stopped }).modEntry mic fun e =>
          { e with role := .reporter, takeover := .stopped }) := by
        refine (h.gain mic fun _ => ⟨e, he, hloud⟩).same ?_
        rw [State.modEntry_duties _ mic (g := Duty.gain) (by exact fun _ => rfl),
          State.modEntry_duties _ mic (g := fun d => { d with takeover := .stopped }) (by exact fun _ => rfl),
          State.modEntry_duties _ mic (g := Duty.gain) (by exact fun _ => rfl)]
        simp only [List.map_map]
        congr 1
        refine List.map_congr_left fun d _ => ?_
        by_cases hm : d.mic = mic <;> simp [hm, Duty.gain]
      exact gained.gainReporter

theorem refreshExpiry (h : s.Runs t) (mic : Nat) : s.Runs (t.refreshExpiry mic) :=
  h.expiry mic _ fun _ _ _ => (h.same (t.offerCue_stance _)).modEntry mic (by exact fun _ => rfl)

/-! ## The feed and a sighting's processing -/

theorem feedReturn (h : s.Runs t) : s.Runs t.feedReturn := by
  unfold State.feedReturn
  extract_lets live marked queued
  have hlive : s.Runs live := h.same rfl
  have hmarked : s.Runs marked := hlive.sweep s.entryFault_handles fun mic _ hu => hu.modEntry mic (by exact fun _ => rfl)
  have hqueued : s.Runs queued := hmarked.same rfl
  split
  · rename_i hst
    exact hqueued.leaveFeedDown (by simp [hst])
  · exact hqueued

theorem offerSighting (h : s.Runs t) (g : Sighting) : s.Runs (t.offerSighting g) := by
  unfold State.offerSighting
  split <;> exact h.same rfl

theorem recordDone (h : s.Runs t) (bits : List Bool) : s.Runs (t.recordDone bits) := by
  have accepted : ∀ (u : State) (b : List Bool), s.Runs u → s.Runs (u.acceptRecord b) := fun u b hu => by
    have counted : s.Runs (u.count .feedAccepted) := hu.same rfl
    unfold State.acceptRecord
    dsimp only
    split
    · exact counted.feedReturn.offerSighting _
    · refine State.Runs.offerSighting ?_ _
      exact counted.same rfl
  unfold State.recordDone
  dsimp only
  split
  · exact h.same rfl
  · split
    · unfold State.validateRecord
      split
      · exact h.same rfl
      · exact h.same rfl
      · exact h.same rfl
      · exact accepted _ _ (h.same rfl)
    · exact h
    · exact h.same rfl

theorem feedSilence (h : s.Runs t) : s.Runs t.feedSilence := by
  have silent : s.Runs { t with feed := .silent, feedTimer := .stopped } := h.same rfl
  unfold State.feedSilence
  dsimp only
  split
  · split
    · rename_i hst
      exact silent.enterFeedDown (by simp [hst]) false
    · exact silent
  · exact h

theorem processStep (h : s.Runs t) (creating : Bool) (g : Sighting) (n : Nat) : s.Runs (t.processStep creating g n) := by
  unfold State.processStep
  split
  · exact h.modEntry g.mic (by exact fun _ => rfl)
  · exact h.modEntry g.mic fun e => by rw [Entry.sample_eq]; rfl
  · exact h.modEntry g.mic fun e => by rw [Entry.muteStep_eq]; rfl
  · exact ((h.modEntry g.mic (by exact fun _ => rfl)).giveInputs g.mic).updateLost s.entryFault_handles
  · exact h.computeRole g.mic
  · exact h.selectCue g.mic
  · exact h.same t.selectWarningLamps_stance
  · exact h

theorem proceed (h : s.Runs t) (through : Nat) (p : Processing) : s.Runs (t.proceed through p) := by
  suffices ∀ (count first : Nat) (u : State), s.Runs u → s.Runs (u.workThrough p first count) from (this _ _ t h).same rfl
  intro count
  induction count with
  | zero => exact fun _ _ hu => hu
  | succ n ih =>
    refine fun first u hu => ih _ _ ?_
    unfold State.workOn
    split
    · exact hu
    · exact hu.processStep ..

/-! ## The station's timers -/

theorem zoneRepeatExpiry (h : s.Runs t) : s.Runs t.zoneRepeatExpiry := by
  unfold State.zoneRepeatExpiry
  split
  · exact (h.requestStation false).same rfl
  · exact h

/-- A station repeat timer that is due is not stopped (R151). -/
theorem stationRepeatExpiry (h : s.Runs t) : s.Runs t.stationRepeatExpiry := by
  unfold State.stationRepeatExpiry
  split
  · rename_i hd
    refine (h.requestStation false).repeats fun hl hstop => ?_
    obtain ⟨-, hst, -⟩ := (State.requestStation_told false t).keep
    have hl : t.station = .listenOnly := hst.symm.trans hl
    have hrun := Timer.isRunning_of_isDue hd
    rw [State.requestStation_stationRepeat (by rw [hl]; rfl), if_pos hrun] at hstop
    cases hstop
  · exact h

theorem floorSweep (h : s.Runs t) : s.Runs t.floorSweep :=
  h.sweep s.entryFault_handles fun mic _ hu => (hu.modEntry mic (by exact fun _ => rfl)).giveInput mic _

theorem floorExpiry (h : s.Runs t) : s.Runs t.floorExpiry := by
  unfold State.floorExpiry
  split
  · exact (h.same (u := { t with floor := .stale, floorTimer := .stopped }) rfl).floorSweep
  · exact h

theorem absenceExpiry (h : s.Runs t) (n : Nat) : s.Runs (t.absenceExpiry n) := by
  unfold State.absenceExpiry
  split
  · exact (h.same (u := { t with roster := t.roster.set n .absent }) rfl).sweep s.entryFault_handles fun mic _ hu => hu.removeClaim mic n
  · exact h

theorem visit {r : Round} (h : s.Runs r.state) (mic : Nat) : s.Runs (r.visit mic).state := by
  unfold Round.visit
  split
  · exact h
  · rename_i e he
    split
    · exact h.trans (r.state.entryFault_handles mic r.state le_rfl (by simp [he])).1
    · split
      · exact h
      · split
        · exact h
        · exact h.requestFrame (by simp)

theorem makeRound (h : s.Runs t) : s.Runs t.makeRound := by
  have visits : ∀ (mics : List Nat) (r : Round), s.Runs r.state → s.Runs (mics.foldl Round.visit r).state := by
    intro mics
    induction mics with
    | nil => exact fun _ hr => hr
    | cons mic rest ih => exact fun r hr => ih _ (hr.visit mic)
  unfold State.makeRound
  extract_lets fresh visited
  have hfresh : s.Runs fresh := (h.same (u := { t with round := t.round + 1 }) rfl).removeWhere _
  have hvisited : s.Runs visited.state := visits _ ⟨fresh, []⟩ hfresh
  split
  · exact hvisited
  · exact hvisited.requestFrame (by simp)

theorem claimRoundExpiry (h : s.Runs t) : s.Runs t.claimRoundExpiry := by
  unfold State.claimRoundExpiry
  dsimp only
  split
  · split
    · rename_i hr
      exact h.makeRound.time (by simp [hr]) t.makeRound.joining _
    · exact h.makeRound
  · exact h

/-! ## The frames taken -/

theorem dispatch (h : s.Runs t) {act : Nat → RxBody → Option (State → State)}
    (hact : ∀ source body work, act source body = some work → ∀ u, s.Runs u → s.Runs (work u)) : s.Runs (t.dispatch act) := by
  unfold State.dispatch
  split
  · rename_i f rest _ _
    split
    · have worked := hact _ _ _ ‹_› { t with rx := rest, inDispatch := some f } (h.same rfl)
      exact worked.same rfl
    · exact h
  · exact h

theorem takeClaims (h : s.Runs t) (source : Nat) (pairs : List Pair) : s.Runs (t.takeClaims source pairs) := by
  unfold State.takeClaims
  induction pairs generalizing t with
  | nil => exact h
  | cons p rest ih =>
    rw [List.foldl_cons]
    refine ih ?_
    unfold State.takeClaim
    split
    · exact h
    · exact h.verified s.entryFault_handles p.mic fun _ _ => h.enterClaimFor p.mic _

theorem ackHandOff (h : s.Runs t) (mic : Nat) (k : Kind) : s.Runs (t.ackHandOff mic k) := by
  unfold State.ackHandOff
  split
  · exact h
  · split
    · exact h.removeEntry s.entryFault_handles mic
    · exact h.same (t.selectLamp_stance _)

theorem ackQueued (h : s.Runs t) (mic : Nat) (k : Kind) (l : Level) : s.Runs (t.ackQueued mic k l) :=
  Stance.Runs.trans h (.mark t.stance mic k l)

theorem acknowledge (h : s.Runs t) (mic : Nat) (k : Kind) (l : Level) (e : Entry) : s.Runs (t.acknowledge mic k l e) := by
  unfold State.acknowledge
  split
  · exact ((h.modRecord mic k _).ackQueued mic k l).ackHandOff mic k
  · exact h.same rfl

theorem absorbWarn (h : s.Runs t) (w : Warn) (e : Entry) : s.Runs (t.absorbWarn w e) := by
  have told := h.modRecord w.mic w.kind (Record.absorb w)
  unfold State.absorbWarn
  dsimp only
  split
  · exact (told.ackQueued ..).ackHandOff ..
  · exact told

theorem warnClaim (h : s.Runs t) (source : Nat) (w : Warn) : s.Runs (t.warnClaim source w) := by
  unfold State.warnClaim
  split
  · exact h.enterClaimFor ..
  · exact h

/-- The takeover timer starts of an entry that was REPORTER, which no entry of a station in LISTEN_ONLY is (R115). -/
theorem yieldTo (h : s.Runs t) (source : Nat) (w : Warn) : s.Runs (t.yieldTo source w) := by
  unfold State.yieldTo
  split
  · exact h
  · rename_i e he
    split
    · rename_i hc
      refine h.resign w.mic (g := fun d => { d with role := .follower, takeover := t.after t.params.repeatMs }) (fun _ => rfl)
        (fun _ hall => ?_) ?_
      · have hrole : e.role = .follower := (hall e he).role
        simp [hrole] at hc
      · rw [State.modEntry_duties _ w.mic (g := fun d => { d with takeover := t.after t.params.repeatMs }) (by exact fun _ => rfl),
          State.loseReporter_stance]
        simp only [List.map_map]
        congr 1
        refine List.map_congr_left fun d _ => ?_
        by_cases hm : d.mic = w.mic <;> simp [hm, Duty.follow]
    · exact h

theorem cancelTakeover (h : s.Runs t) (w : Warn) : s.Runs (t.cancelTakeover w) := by
  unfold State.cancelTakeover
  split
  · exact h
  · split
    · exact h.rest w.mic (g := fun d => { d with takeover := .stopped }) (fun _ => rfl)
        fun _ => ⟨rfl, rfl, fun hq => ⟨hq.role, hq.pendingTimer, rfl⟩⟩
    · exact h

theorem applyWarn (h : s.Runs t) (source : Nat) (w : Warn) (e : Entry) : s.Runs (t.applyWarn source w e) :=
  (((h.absorbWarn w e).warnClaim source w).yieldTo source w).cancelTakeover w

theorem takeFloor (h : s.Runs t) (mics : List Nat) : s.Runs (t.takeFloor mics) :=
  (h.same (u := { t with floorSet := floorSetOf mics, floor := .fresh, floorTimer := t.after t.params.floorMs }) rfl).floorSweep

theorem answerEntry (h : s.Runs t) (mic : Nat) : s.Runs (t.answerEntry mic) := by
  unfold State.answerEntry
  split
  · exact h.requestFrame (by simp)
  · rename_i e he
    split
    · exact h.requestFrame (by simp)
    · exact (h.trans (t.entryFault_handles mic t le_rfl (by simp [he])).1).requestFrame (by simp)

theorem claimTaken (h : s.Runs t) : s.Runs (t.dispatch claimWork) :=
  h.dispatch fun source body work hw u hu => by
    cases body <;> cases hw
    exact hu.takeClaims source _

theorem ackTaken (h : s.Runs t) : s.Runs (t.dispatch ackWork) :=
  h.dispatch fun _ body work hw u hu => by
    cases body <;> cases hw
    exact hu.verified s.entryFault_handles _ fun e _ => hu.acknowledge _ _ _ e

theorem warnTaken (h : s.Runs t) : s.Runs (t.dispatch warnWork) :=
  h.dispatch fun source body work hw u hu => by
    cases body <;> cases hw
    exact hu.verified s.entryFault_handles _ fun e _ => hu.applyWarn source _ e

theorem floorTaken (h : s.Runs t) : s.Runs (t.dispatch floorWork) :=
  h.dispatch fun _ body work hw u hu => by
    cases body <;> cases hw
    exact hu.takeFloor _

theorem entryQuery (h : s.Runs t) : s.Runs (t.dispatch entryQueryWork) :=
  h.dispatch fun _ body work hw u hu => by
    unfold entryQueryWork at hw
    split at hw <;> cases hw
    dsimp only
    split
    · exact hu.answerEntry _
    · exact hu

theorem statsQuery (h : s.Runs t) : s.Runs (t.dispatch statsQueryWork) :=
  h.dispatch fun _ body work hw u hu => by
    unfold statsQueryWork at hw
    split at hw <;> cases hw
    dsimp only
    split
    · exact hu.requestFrame (by simp)
    · exact hu

theorem restart (h : s.Runs t) : s.Runs (t.dispatch restartWork) :=
  h.dispatch fun _ body work hw u hu => by
    cases body <;> cases hw
    exact hu.restarted

theorem peerReportTaken (h : s.Runs t) : s.Runs (t.dispatch reportWork) :=
  h.dispatch fun _ body work hw u hu => by
    cases body <;> cases hw
    exact hu

end State.Runs

end Sys2Proof.Machine
end

section
/-! The line (sections 8.2 and 8.3), the load and sightings that bring entries (sections 2 and 11), and every command as a course of the
stance, with what each law makes of it. -/

namespace Sys2Proof.Machine

/-! ## The line -/

/-- A frame that the validity recheck neither drops nor finds replaced is admitted (R133). -/
theorem State.recheck_admits {s : State} {f : Frame} (hd : s.recheckDrops f = false) (hr : s.recheckReplaced f = false) :
    s.stance.Admits f := by
  simp only [State.recheckDrops, Bool.or_eq_false_iff] at hd
  obtain ⟨⟨hjoin, hlisten⟩, htrue⟩ := hd
  have joined : s.station ≠ .joining := of_decide_eq_false hjoin
  have heard : s.station = .listenOnly → f.isStation = true := fun hl => by simpa [hl] using hlisten
  cases f with
  | warn w =>
    cases he : s.entry? w.mic with
    | none => simp [he] at htrue
    | some e =>
      simp only [he, Bool.or_eq_false_iff, Bool.and_eq_false_iff, decide_eq_false_iff_not, not_not] at htrue
      refine ⟨joined, heard, fun v hv => ?_, fun g hg mic k hf => ?_, fun hz => htrue.2.resolve_left hz⟩
      · cases hv
        exact ⟨e.duty, by rw [State.stance_duty?, he]; rfl, htrue.1⟩
      · obtain ⟨hm, hk⟩ := Bool.and_eq_true_iff.mp hf
        obtain rfl : w.mic = mic := of_decide_eq_true hm
        obtain rfl : w.kind = k := of_decide_eq_true hk
        simpa using List.any_eq_false.mp hr g hg
  | _ => exact Stance.admits_other (by simp) joined heard

namespace State.Runs

variable {s t : State}

theorem lineQuiet (h : s.Runs t) : s.Runs t.lineQuiet := by
  unfold State.lineQuiet
  split
  · exact h.same rfl
  all_goals exact h

theorem lineStart (h : s.Runs t) : s.Runs t.lineStart := by
  unfold State.lineStart
  split
  · dsimp only
    split <;> exact h.same rfl
  all_goals exact h

theorem slotEnds (h : s.Runs t) : s.Runs t.slotEnds := by
  unfold State.slotEnds
  split
  · split
    · rename_i hq
      split
      · exact Stance.Runs.trans h (.send (p := t.stance) hq)
      · exact h.same rfl
    · exact h.same rfl
  all_goals exact h

theorem sendDone (h : s.Runs t) : s.Runs t.sendDone := by
  unfold State.sendDone
  split
  · exact Stance.Runs.trans h (.sent t.stance)
  · exact h

theorem collide (h : s.Runs t) : s.Runs t.collide := by
  unfold State.collide
  split
  · rename_i u _ hu
    have freed : s.Runs (({ t with access := .busy, inFlight := none }).count .collisions) := Stance.Runs.trans h (.sent t.stance)
    have dropped : ∀ f, s.Runs ((({ t with access := .busy, inFlight := none }).count .collisions).dropReturning f) :=
      fun f => freed.same (State.discardFrame_stance _ _)
    have hret : TxFrame.returned { u with collisions := u.collisions + 1 } = true := by simp [TxFrame.returned]
    have admits : ∀ {f : Frame}, (({ t with access := .busy, inFlight := none }).count .collisions).recheckDrops f = false →
        (({ t with access := .busy, inFlight := none }).count .collisions).recheckReplaced f = false → t.stance.Admits f :=
      fun hd hr => { State.recheck_admits hd hr with }
    unfold State.handBack
    split
    · exact dropped _
    · rcases State.recheck_cases { u with collisions := u.collisions + 1 }
        (({ t with access := .busy, inFlight := none }).count .collisions) with
        hx | ⟨-, hx⟩ | ⟨hd, hr, -, hx⟩ | ⟨hd, hr, v, rest, hv, hx⟩ <;> rw [hx]
      · exact dropped _
      · exact freed
      · exact Stance.Runs.trans h (.handBack (p := t.stance) hu hret (admits hd hr))
      · obtain ⟨-, -, pre, post, hq, rfl, -⟩ := victimFor_some hv
        have hsub : (pre ++ post).Sublist t.tx := by
          rw [show t.tx = pre ++ v :: post from hq]
          exact (List.sublist_cons_self v post).append_left pre
        refine State.Runs.same (t := { t with tx := { u with collisions := u.collisions + 1 } :: (pre ++ post), inFlight := none }) ?_
          (State.discardFrame_stance _ _)
        exact Stance.Runs.trans (h.thin hsub) (.handBack (p := { t.stance with tx := pre ++ post }) hu hret ((admits hd hr).thin hsub))
  · exact h

theorem duplicateNumber (h : s.Runs t) : s.Runs t.duplicateNumber := by
  have entered : s.Runs (({ t with fault := some .duplicateId }).enterListenOnly State.entryFault) :=
    (h.same (u := { t with fault := some .duplicateId }) rfl).enterListenOnly s.entryFault_handles
  unfold State.duplicateNumber
  split
  · exact h
  · exact h
  · exact entered
  · exact entered
  · exact entered

theorem frameDone (h : s.Runs t) (bits : List Bool) (gap : Nat) (headMissed : Bool) : s.Runs (t.frameDone bits gap headMissed) := by
  have accepted : ∀ (u : State) (source : Nat) (body : Option RxBody), (u.acceptFrame source body).stance = u.stance :=
    fun u source body => by
      unfold State.acceptFrame State.offerRx
      split
      · split
        · split <;> rfl
        · rfl
      · rfl
  unfold State.frameDone
  split
  · exact h
  · split
    · exact h.same rfl
    · unfold State.receive
      extract_lets _ cleared
      have hcleared : s.Runs cleared := h.same rfl
      split
      · exact hcleared.same rfl
      · split
        · exact hcleared.duplicateNumber
        · exact (hcleared.same (u := cleared.refreshRoster _) rfl).same (accepted _ _ _)

theorem startTransfer (h : s.Runs t) (crdy : Bool) : s.Runs (t.startTransfer crdy) := by
  unfold State.startTransfer
  split
  · split
    · exact h.same rfl
    · exact h
  · exact h

theorem endTransfer (h : s.Runs t) : s.Runs t.endTransfer := by
  unfold State.endTransfer
  split
  · exact h.same rfl
  · exact h

theorem phaseExpiry (h : s.Runs t) (l : Lamp) : s.Runs (t.phaseExpiry l) := by
  unfold State.phaseExpiry
  split
  · cases l <;> exact h.same rfl
  · exact h

end State.Runs

/-! ## Courses -/

/-- `q` comes of `p` by a command other than a start: by the changes of `Stance.Runs`, a new entry, and the load and its end. -/
inductive Stance.Course : Stance → Stance → Prop
  | runs {p q : Stance} (h : p.Runs q) : Course p q
  | next {p q r : Stance} (h : Course p q) (k : Course q r) : Course p r
  /-- An entry comes for a microphone without one, in LISTEN_ONLY a quiet one (R20, R114). -/
  | arrive {p : Stance} {d : Duty} {ds : List Duty} (hnew : p.duty? d.mic = none) (hmem : ∀ x ∈ ds, x = d ∨ x ∈ p.duties)
      (hfind : ∀ mic, mic ≠ d.mic → ({ p with duties := ds } : Stance).duty? mic = p.duty? mic)
      (hquiet : p.station = .listenOnly → d.Quiet) : Course p { p with duties := ds }
  /-- The load begins, goes on or ends (R184). -/
  | load {p : Stance} (h : p.load ≠ .done) (load : Load) : Course p { p with load := load }
  /-- The load ends in JOINING (R175). -/
  | join {p : Stance} (h : p.load ≠ .done) (joining : Timer) :
      Course p { p with load := .done, station := .joining, joining := joining }

namespace Stance.Course

variable {p q : Stance}

theorem ordered (h : p.Course q) (hp : p.Ordered) : q.Ordered := by
  induction h with
  | runs h => exact h.ordered hp
  | next _ _ ih ik => exact ik (ih hp)
  | _ => exact ⟨hp.toQueueOrdered, hp.alone⟩

theorem warned (h : p.Course q) (hp : p.Warned) : q.Warned := by
  induction h with
  | runs h => exact h.warned hp
  | next _ _ ih ik => exact ik (ih hp)
  | @arrive p d ds hnew _ hfind _ =>
    refine ⟨hp.one, fun t ht w hw => ?_, hp.silent⟩
    obtain ⟨x, hx, hr⟩ := hp.reported t ht w hw
    have hne : w.mic ≠ d.mic := fun hm => by simp [hm, hnew] at hx
    exact ⟨x, (hfind w.mic hne).trans hx, hr⟩
  | load _ _ => exact ⟨hp.one, hp.reported, hp.silent⟩
  | join _ _ => exact ⟨hp.one, hp.reported, hp.silent⟩

theorem settled (h : p.Course q) (hp : p.Settled) : q.Settled := by
  induction h with
  | runs h => exact h.settled hp
  | next _ _ ih ik => exact ik (ih hp)
  | arrive _ hmem _ hquiet =>
    refine { hp with follower := fun hl x hx => ?_ }
    rcases hmem x hx with rfl | hx
    · exact hquiet hl
    · exact hp.follower hl x hx
  | load h _ => exact absurd hp.loaded h
  | join h _ => exact absurd hp.loaded h

end Stance.Course

/-- The stance of `t` comes of that of `s` by a command. -/
def State.Course (s t : State) : Prop := s.stance.Course t.stance

theorem State.Runs.course {s t : State} (h : s.Runs t) : s.Course t := .runs h

/-! ## Sightings (R19 to R21) -/

section
variable {s t : State}

theorem State.addEntry_course (through : Nat) {g : Sighting} (h : s.entry? g.mic = none) : s.Course (s.addEntry through g) := by
  have hquiet : s.station = .listenOnly → (s.newEntry g).duty.Quiet := fun hl =>
    ⟨by simp [State.newEntry, Entry.duty, hl], by simp [State.newEntry, Entry.duty, hl], rfl⟩
  have hmem : ∀ x ∈ (s.admitting g).stance.duties, x = (s.newEntry g).duty ∨ x ∈ s.stance.duties := fun x hx => by
    obtain ⟨e, he, rfl⟩ := List.mem_map.mp hx
    rcases mem_insertEntry.mp he with rfl | he
    · exact .inl rfl
    · exact .inr (List.mem_map_of_mem he)
  have admitted : s.Course (s.admitting g) := by
    refine .arrive (p := s.stance) (d := (s.newEntry g).duty) ?_ hmem (fun mic hm => ?_) hquiet
    · show s.stance.duty? g.mic = none
      rw [State.stance_duty?, h]
      rfl
    · show (s.admitting g).stance.duty? mic = _
      rw [State.stance_duty?, State.stance_duty?]
      exact congrArg _ (find?_insertEntry (e := s.newEntry g) hm s.table)
  exact .next admitted ((State.Runs.refl (s.admitting g)).proceed through _).course

theorem State.admitOrEvict_course (through : Nat) {g : Sighting} (h : s.entry? g.mic = none) :
    s.Course (s.admitOrEvict through g) := by
  have evicted : ∀ t : State, s.Runs t → s.Course (t.addEntry through g) := fun t ht =>
    .next ht.course (State.addEntry_course through (ht.gone h))
  unfold State.admitOrEvict
  split
  · exact State.addEntry_course through h
  · unfold State.evictFor
    split
    · rename_i bad hbad
      have hsome : s.entry? bad.mic ≠ none := fun hn =>
        State.entry?_none.mp hn bad (List.mem_of_find?_eq_some hbad) rfl
      exact evicted _ (s.entryFault_handles bad.mic s le_rfl hsome).1
    · split
      · exact evicted _ ((State.Runs.refl s).removeEntry s.entryFault_handles _)
      · exact ((State.Runs.refl s).same rfl).course

/-- A sighting taken for an entry restarts its timers and stops its takeover timer (R19, R116). -/
theorem State.Runs.hear (h : s.Runs t) (mic : Nat) : s.Runs (t.hear mic) :=
  h.rest mic (g := fun d => { d with takeover := .stopped }) (fun _ => rfl) fun _ => ⟨rfl, rfl, fun hq => ⟨hq.role, hq.pendingTimer, rfl⟩⟩

theorem State.takeSighting_course (through : Nat) (s : State) : s.Course (s.takeSighting through) := by
  unfold State.takeSighting
  split
  · exact ((State.Runs.refl s).proceed through _).course
  · split
    · rename_i g rest _
      let taken : State := { s with intake := rest, inProcessing := none }
      show s.Course (taken.sight through g)
      refine .next (q := taken.stance) (.runs (State.Runs.refl s)) ?_
      unfold State.sight
      split
      · rename_i e he
        split
        · exact (((State.Runs.refl taken).hear g.mic).proceed through _).course
        · obtain ⟨hfault, hgone⟩ := taken.entryFault_handles g.mic taken le_rfl (by simp [he])
          exact .next hfault.course (State.admitOrEvict_course through hgone)
      · exact State.admitOrEvict_course through ‹_›
    · exact (State.Runs.refl s).course

/-! ## The load (R175, R184) -/

theorem State.completeLoad_course (h : s.load ≠ .done) (src : Source) (im : Image) : s.Course (s.completeLoad src im) := by
  unfold State.completeLoad
  extract_lets fixed
  split
  · have hfixed : s.Course { fixed with fault := some .badId } := .load (p := s.stance) h .done
    exact .next hfixed ((State.Runs.refl _).enterListenOnly (State.entryFault_handles _)).course
  · have hfixed : s.Course { fixed with station := .joining, joining := fixed.after im.params.joiningMs } :=
      .join (p := s.stance) h _
    exact .next hfixed ((State.Runs.refl _).same (State.stationHandOff_stance _)).course

theorem State.badArea_course (h : s.load ≠ .done) (area : Area) : s.Course (s.badArea area) := by
  cases area with
  | site => exact .load (p := s.stance) h _
  | factory => exact State.completeLoad_course h _ _

theorem State.areaRead_course (answer : Option (List Byte)) (s : State) : s.Course (s.areaRead answer) := by
  unfold State.areaRead
  split
  · rename_i hl
    have hload : s.load ≠ .done := by simp [hl]
    split
    · exact State.completeLoad_course hload _ _
    · exact State.badArea_course hload _
  · exact (State.Runs.refl s).course
  · exact (State.Runs.refl s).course

theorem State.areaTimeout_course (s : State) : s.Course s.areaTimeout := by
  unfold State.areaTimeout
  split
  · rename_i hl
    split
    · exact State.badArea_course (by simp [hl]) _
    · exact (State.Runs.refl s).course
  · exact (State.Runs.refl s).course
  · exact (State.Runs.refl s).course

theorem State.beginLoad_course (straps : BitVec 4) (s : State) : s.Course (s.beginLoad straps) := by
  unfold State.beginLoad
  split
  · rename_i hl
    exact .load (p := s.stance) (fun hd : s.load = .done => absurd (hl.2.1.symm.trans hd) (by decide)) _
  · exact (State.Runs.refl s).course

/-! ## Every command -/

/-- Every command but a start is a course of the stance. -/
theorem exec_course {i : Instr} (h : exec i s = .next t) : (∃ cause, t = s.started cause) ∨ s.Course t := by
  have run := State.Runs.refl s
  cases i with
  | start cause => cases h; exact .inl ⟨cause, rfl⟩
  | loadBegin straps => cases h; exact .inr (s.beginLoad_course straps)
  | areaReadComplete answer => cases h; exact .inr (s.areaRead_course answer)
  | areaReadTimeout => cases h; exact .inr s.areaTimeout_course
  | strobeAsserted => cases h; exact .inr (run.same rfl).course
  | recordCompletion bits => cases h; exact .inr (run.recordDone bits).course
  | feedSilenceExpiry => cases h; exact .inr run.feedSilence.course
  | sightingTaken through => cases h; exact .inr (s.takeSighting_course through)
  | lossTimerExpiry mic => cases h; exact .inr (run.lossExpiry mic).course
  | forgetTimerExpiry mic => cases h; exact .inr (run.forgetExpiry mic).course
  | lostForgetExpiry mic => cases h; exact .inr (run.lostForgetExpiry mic).course
  | epochTimerExpiry mic => cases h; exact .inr (run.epochExpiry mic).course
  | staleTimerExpiry mic => cases h; exact .inr (run.staleExpiry mic).course
  | persistenceTimerExpiry mic kind => cases h; exact .inr (run.persistenceExpiry mic kind).course
  | repeatTimerExpiry mic kind => cases h; exact .inr (run.repeatExpiry mic kind).course
  | zoneRepeatTimerExpiry => cases h; exact .inr run.zoneRepeatExpiry.course
  | stationRepeatTimerExpiry => cases h; exact .inr run.stationRepeatExpiry.course
  | floorTimerExpiry => cases h; exact .inr run.floorExpiry.course
  | absenceTimerExpiry station => cases h; exact .inr (run.absenceExpiry station).course
  | claimExpiry mic station => cases h; exact .inr (run.claimExpires mic station).course
  | pendingTimerExpiry mic => cases h; exact .inr (run.pendingExpiry mic).course
  | takeoverTimerExpiry mic => cases h; exact .inr (run.takeoverExpiry mic).course
  | claimRoundTimerExpiry => cases h; exact .inr run.claimRoundExpiry.course
  | cueRefreshExpiry mic => cases h; exact .inr (run.refreshExpiry mic).course
  | cueTransferStart crdy => cases h; exact .inr (run.startTransfer crdy).course
  | cueTransferComplete => cases h; exact .inr run.endTransfer.course
  | phaseTimerExpiry lamp => cases h; exact .inr (run.phaseExpiry lamp).course
  | joiningTimerExpiry => cases h; exact .inr run.joiningEnds.course
  | integrityWindowExpiry => cases h; exact .inr run.windowEnds.course
  | lineIdle => cases h; exact .inr run.lineQuiet.course
  | lineActivity => cases h; exact .inr run.lineStart.course
  | slotBoundary => cases h; exact .inr run.slotEnds.course
  | frameSent => cases h; exact .inr run.sendDone.course
  | collision => cases h; exact .inr run.collide.course
  | frameCompletion bits gap headMissed => cases h; exact .inr (run.frameDone bits gap headMissed).course
  | claimTaken => cases h; exact .inr run.claimTaken.course
  | warnTaken => cases h; exact .inr run.warnTaken.course
  | floorTaken => cases h; exact .inr run.floorTaken.course
  | ackTaken => cases h; exact .inr run.ackTaken.course
  | entryQuery => cases h; exact .inr run.entryQuery.course
  | statsQuery => cases h; exact .inr run.statsQuery.course
  | restart => cases h; exact .inr run.restart.course
  | peerReportTaken => cases h; exact .inr run.peerReportTaken.course

/-- A start leaves the stance of a reset. -/
theorem State.started_stance (cause : StartCause) (s : State) : (s.started cause).stance = State.reset.stance := rfl

/-- Every step but a start is a course of the stance. -/
theorem step_course (h : step s = .next t) : (∃ cause u, t = State.started cause u) ∨ s.Course t := by
  rcases step_cases h with ⟨c, rest, -, hx⟩ | ⟨-, p, -, hx⟩ | ⟨-, -, rfl⟩
  · exact (exec_course hx).imp (fun ⟨cause, ht⟩ => ⟨cause, _, ht⟩) id
  · exact (exec_course hx).imp (fun ⟨cause, ht⟩ => ⟨cause, _, ht⟩) id
  · exact .inr ((State.Runs.refl s).same rfl).course

end

/-! ## The laws of the queue -/

/-- Settles O52: a start empties the queue, and every other step is a course of the stance, whose changes keep the order. -/
theorem stepKeepsTheQueueOrder : Obligations.StepKeepsTheQueueOrder := by
  unfold Obligations.StepKeepsTheQueueOrder
  refine ⟨fun s t h hstep => orderLaw_iff.mpr ?_, fun _ => rfl, fun w => ⟨?_, ?_⟩, fun _ _ => rfl, fun _ => rfl, fun _ _ => rfl⟩
  · rcases step_course hstep with ⟨cause, u, rfl⟩ | hc
    · rw [State.started_stance]
      exact ⟨⟨.nil, by simp [State.stance, State.reset]⟩, by simp [State.stance, State.reset]⟩
    · exact hc.ordered (orderLaw_iff.mp h)
  · rintro (hr | hr) <;> simp [Frame.cls, hr]
  · rintro (hr | hr | hr) <;> simp [Frame.cls, hr]

/-- Settles O53: a start empties the queue, and every other step is a course of the stance, which admits no other WARN frames. -/
theorem stepKeepsTheQueuedWarns : Obligations.StepKeepsTheQueuedWarns := by
  unfold Obligations.StepKeepsTheQueuedWarns
  intro s t _ hw hz hstep
  refine warnLaws_iff.mpr ?_
  rcases step_course hstep with ⟨cause, u, rfl⟩ | hc
  · rw [State.started_stance]
    exact ⟨.nil, by simp [State.stance, State.reset], by simp [State.stance, State.reset]⟩
  · exact hc.warned (warnLaws_iff.mp ⟨hw, hz⟩)

end Sys2Proof.Machine
end

section
/-! What STARTING, JOINING and LISTEN_ONLY promise through every step (R17, R114, R121, R127, R143, R151, R176, R181, R183): in STARTING
command by command, since there is nothing to act on, and out of it as a course of the stance. -/

namespace Sys2Proof.Machine

/-! ## STARTING -/

/-- What the laws of the station's states say of a state in STARTING. -/
structure State.Dormant (s : State) : Prop where
  station : s.station = .starting
  load : s.load ≠ .done
  table : s.table = []
  intake : s.intake = []
  access : s.access = .off
  rx : s.rx = []
  zone : s.zone = .notInForce
  lostCount : s.lostCount = 0
  tx : s.tx = []

/-- A state is in STARTING, where there is nothing to act on, or has left it. -/
theorem stationLaws_iff {s : State} : StartingLaw s ∧ JoiningLaw s ∧ ListenOnlyLaw s ↔ s.Dormant ∨ s.stance.Settled := by
  constructor
  · rintro ⟨hS, hJ, hL⟩
    by_cases hst : s.station = .starting
    · obtain ⟨haccess, hrx⟩ := hS.line hst
      obtain ⟨hzone, hcount⟩ := hS.zone hst
      exact .inl ⟨hst, fun hd => hS.loaded.mp hd hst, hS.table hst, hS.intake hst, haccess, hrx, hzone, hcount, hJ.starting hst⟩
    · refine .inr ⟨hS.loaded.mpr hst, hst, hJ.joining, fun hl d hd => ?_, hL.queue, hL.timers⟩
      obtain ⟨e, he, rfl⟩ := List.mem_map.mp hd
      obtain ⟨hr, hp, ht⟩ := hL.follower hl e he
      exact ⟨hr, hp, ht⟩
  · rintro (h | h)
    · have other : ∀ {st : StationState}, st ≠ .starting → s.station ≠ st := fun hne hst => hne (hst.symm.trans h.station)
      exact ⟨⟨iff_of_false h.load (not_not.mpr h.station), fun _ => h.table, fun _ => h.intake, fun _ => ⟨h.access, h.rx⟩,
        fun _ => ⟨h.zone, h.lostCount⟩⟩, ⟨fun _ => h.tx, fun hj => absurd hj (other (by decide))⟩,
        ⟨fun hl => absurd hl (other (by decide)), fun hl => absurd hl (other (by decide)), fun hl => absurd hl (other (by decide))⟩⟩
    · have awake : s.station ≠ .starting := h.awake
      refine ⟨⟨iff_of_true h.loaded awake, fun hst => absurd hst awake, fun hst => absurd hst awake, fun hst => absurd hst awake,
        fun hst => absurd hst awake⟩, ⟨fun hst => absurd hst awake, h.joining⟩, ⟨fun hl e he => ?_, h.queue, h.timers⟩⟩
      have hq := h.follower hl e.duty (List.mem_map_of_mem he)
      exact ⟨hq.role, hq.pendingTimer, hq.takeover⟩

/-- The entry into LISTEN_ONLY asks of the state that is left only whether it was FEED_DOWN (R181). -/
theorem State.enterListenOnly_station {s : State} {st : StationState} (h : s.station ≠ .feedDown) (hst : st ≠ .feedDown)
    (fx : Nat → State → State) : ({ s with station := st } : State).enterListenOnly fx = s.enterListenOnly fx := by
  unfold State.enterListenOnly
  dsimp only
  rw [if_neg h, if_neg hst]

namespace State.Dormant

variable {s t : State}

/-- A state with the same station state, load, table and queues, and the same zone and line. -/
theorem frame (h : s.Dormant) (ht : (t.station, t.load, t.table, t.intake, t.access, t.rx, t.zone, t.lostCount, t.tx) =
    (s.station, s.load, s.table, s.intake, s.access, s.rx, s.zone, s.lostCount, s.tx)) : t.Dormant := by
  simp only [Prod.mk.injEq] at ht
  obtain ⟨hst, hload, htable, hintake, haccess, hrx, hzone, hcount, htx⟩ := ht
  exact ⟨hst.trans h.station, hload ▸ h.load, htable.trans h.table, hintake.trans h.intake, haccess.trans h.access, hrx.trans h.rx,
    hzone.trans h.zone, hcount.trans h.lostCount, htx.trans h.tx⟩

theorem started (cause : StartCause) (s : State) : (s.started cause).Dormant := ⟨rfl, nofun, rfl, rfl, rfl, rfl, rfl, rfl, rfl⟩

/-! ### Nothing to act on -/

theorem entry?_none (h : s.Dormant) (mic : Nat) : s.entry? mic = none := by simp [State.entry?, h.table]

theorem expiry (h : s.Dormant) (mic : Nat) (timer : Entry → Timer) (act : Entry → State → State) : s.expiry mic timer act = s := by
  simp [State.expiry, h.entry?_none]

theorem sweep (h : s.Dormant) (fx act : Nat → State → State) : s.sweep fx act = s := by simp [State.sweep, State.mics, h.table]

theorem dispatch (h : s.Dormant) (act : Nat → RxBody → Option (State → State)) : s.dispatch act = s := by
  unfold State.dispatch
  rw [h.rx]
  split <;> trivial

theorem requestStation (h : s.Dormant) (start : Bool) : s.requestStation start = s :=
  State.requestStation_refused (by rw [h.station]; decide) start

/-! ### The load (R175, R184) -/

theorem completeLoad (h : s.Dormant) (src : Source) (im : Image) : (s.completeLoad src im).stance.Settled := by
  unfold State.completeLoad
  extract_lets fixed
  have joining : ∀ (fault : Option FaultCause) (timer : Timer),
      State.stance { fixed with fault := fault, station := .joining, joining := timer } |>.Settled := fun _ _ =>
    ⟨rfl, nofun, fun _ => h.tx, nofun, nofun, nofun⟩
  split
  · have hother : ({ fixed with fault := some .badId } : State).station ≠ .feedDown := by
      show s.station ≠ .feedDown
      rw [h.station]
      decide
    rw [← State.enterListenOnly_station (st := .joining) hother (by decide)]
    exact ((State.Runs.refl _).enterListenOnly (State.entryFault_handles _)).settled (joining _ fixed.joining)
  · rw [State.stationHandOff_stance]
    exact joining fixed.fault _

theorem badArea (h : s.Dormant) (area : Area) : (s.badArea area).Dormant ∨ (s.badArea area).stance.Settled := by
  cases area with
  | site => exact .inl { h with load := nofun }
  | factory => exact .inr (h.completeLoad _ _)

theorem areaRead (h : s.Dormant) (answer : Option (List Byte)) : (s.areaRead answer).Dormant ∨ (s.areaRead answer).stance.Settled := by
  unfold State.areaRead
  split
  · split
    · exact .inr (h.completeLoad _ _)
    · exact h.badArea _
  · exact .inl h
  · exact .inl h

theorem areaTimeout (h : s.Dormant) : s.areaTimeout.Dormant ∨ s.areaTimeout.stance.Settled := by
  unfold State.areaTimeout
  split
  · split
    · exact h.badArea _
    · exact .inl h
  · exact .inl h
  · exact .inl h

theorem beginLoad (h : s.Dormant) (straps : BitVec 4) : (s.beginLoad straps).Dormant := by
  unfold State.beginLoad
  split
  · exact { h with load := nofun }
  · exact h

/-! ### Commands that leave the state in STARTING -/

theorem recordDone (h : s.Dormant) (bits : List Bool) : (s.recordDone bits).Dormant := by
  unfold State.recordDone
  rw [if_pos h.station]
  exact h.frame rfl

theorem feedSilence (h : s.Dormant) : s.feedSilence.Dormant := by
  have hrun : s.station ≠ .running := by rw [h.station]; decide
  unfold State.feedSilence
  dsimp only
  rw [if_neg hrun]
  split
  · exact h.frame rfl
  · exact h

theorem takeSighting (h : s.Dormant) (through : Nat) : s.takeSighting through = s := by
  have hidle : s.underway = none := by
    unfold State.underway
    split
    · rfl
    · rw [if_pos (h.entry?_none _)]
  unfold State.takeSighting
  rw [hidle, h.intake]

theorem zoneRepeatExpiry (h : s.Dormant) : s.zoneRepeatExpiry.Dormant := by
  unfold State.zoneRepeatExpiry
  rw [h.requestStation]
  split
  · exact h.frame rfl
  · exact h

theorem stationRepeatExpiry (h : s.Dormant) : s.stationRepeatExpiry.Dormant := by
  unfold State.stationRepeatExpiry
  rw [h.requestStation]
  split
  · exact h.frame rfl
  · exact h

theorem floorExpiry (h : s.Dormant) : s.floorExpiry.Dormant := by
  unfold State.floorExpiry
  split
  · have stale : Dormant { s with floor := .stale, floorTimer := .stopped } := h.frame rfl
    rw [State.floorSweep, stale.sweep]
    exact stale
  · exact h

theorem absenceExpiry (h : s.Dormant) (n : Nat) : (s.absenceExpiry n).Dormant := by
  unfold State.absenceExpiry
  split
  · have absent : Dormant { s with roster := s.roster.set n .absent } := h.frame rfl
    rw [absent.sweep]
    exact absent
  · exact h

theorem claimRoundExpiry (h : s.Dormant) : s.claimRoundExpiry.Dormant := by
  have made : s.makeRound.Dormant := by
    unfold State.makeRound
    extract_lets fresh visited
    have hfresh : fresh.Dormant := { h with tx := by simp [fresh, State.removeWhere, h.tx] }
    have hvisited : visited = ⟨fresh, []⟩ := by simp [visited, State.mics, hfresh.table]
    rw [if_pos (congrArg Round.pairs hvisited), hvisited]
    exact hfresh
  unfold State.claimRoundExpiry
  dsimp only
  split
  · split
    · exact made.frame rfl
    · exact made
  · exact h

theorem startTransfer (h : s.Dormant) (crdy : Bool) : s.startTransfer crdy = s := by
  unfold State.startTransfer
  split
  · rw [if_neg fun hc => hc.2 h.station]
  · rfl

theorem endTransfer (h : s.Dormant) : s.endTransfer.Dormant := by
  unfold State.endTransfer
  split
  · exact h.frame rfl
  · exact h

theorem phaseExpiry (h : s.Dormant) (l : Lamp) : (s.phaseExpiry l).Dormant := by
  unfold State.phaseExpiry
  split
  · cases l <;> exact h.frame rfl
  · exact h

theorem joiningEnds (h : s.Dormant) : s.joiningEnds = s := if_neg fun hj => absurd (hj.1.symm.trans h.station) (by decide)

theorem windowEnds (h : s.Dormant) : s.windowEnds.Dormant := by
  unfold State.windowEnds
  split
  · exact h.frame rfl
  · exact h

theorem frameDone (h : s.Dormant) (bits : List Bool) (gap : Nat) (headMissed : Bool) : s.frameDone bits gap headMissed = s :=
  if_pos (.inl h.access)

/-- Every command leaves STARTING as it is, or ends it with the load. -/
theorem exec (h : s.Dormant) {i : Instr} (hx : exec i s = .next t) : t.Dormant ∨ t.stance.Settled := by
  have due : ∀ mic timer act, (s.expiry mic timer act).Dormant := fun mic timer act => (h.expiry mic timer act).symm ▸ h
  have taken : ∀ act, (s.dispatch act).Dormant := fun act => (h.dispatch act).symm ▸ h
  cases i with
  | start cause => cases hx; exact .inl (started cause s)
  | loadBegin straps => cases hx; exact .inl (h.beginLoad straps)
  | areaReadComplete answer => cases hx; exact h.areaRead answer
  | areaReadTimeout => cases hx; exact h.areaTimeout
  | strobeAsserted => cases hx; exact .inl (h.frame rfl)
  | recordCompletion bits => cases hx; exact .inl (h.recordDone bits)
  | feedSilenceExpiry => cases hx; exact .inl h.feedSilence
  | sightingTaken through => cases hx; exact .inl ((h.takeSighting through).symm ▸ h)
  | lossTimerExpiry mic => cases hx; exact .inl (due ..)
  | forgetTimerExpiry mic => cases hx; exact .inl (due ..)
  | lostForgetExpiry mic => cases hx; exact .inl (due ..)
  | epochTimerExpiry mic => cases hx; exact .inl (due ..)
  | staleTimerExpiry mic => cases hx; exact .inl (due ..)
  | persistenceTimerExpiry mic kind => cases hx; exact .inl (due ..)
  | repeatTimerExpiry mic kind => cases hx; exact .inl (due ..)
  | zoneRepeatTimerExpiry => cases hx; exact .inl h.zoneRepeatExpiry
  | stationRepeatTimerExpiry => cases hx; exact .inl h.stationRepeatExpiry
  | floorTimerExpiry => cases hx; exact .inl h.floorExpiry
  | absenceTimerExpiry station => cases hx; exact .inl (h.absenceExpiry station)
  | claimExpiry mic station => cases hx; exact .inl (due ..)
  | pendingTimerExpiry mic => cases hx; exact .inl (due ..)
  | takeoverTimerExpiry mic => cases hx; exact .inl (due ..)
  | claimRoundTimerExpiry => cases hx; exact .inl h.claimRoundExpiry
  | cueRefreshExpiry mic => cases hx; exact .inl (due ..)
  | cueTransferStart crdy => cases hx; exact .inl ((h.startTransfer crdy).symm ▸ h)
  | cueTransferComplete => cases hx; exact .inl h.endTransfer
  | phaseTimerExpiry lamp => cases hx; exact .inl (h.phaseExpiry lamp)
  | joiningTimerExpiry => cases hx; exact .inl (h.joiningEnds.symm ▸ h)
  | integrityWindowExpiry => cases hx; exact .inl h.windowEnds
  | lineIdle => cases hx; exact .inl (by simpa [State.lineQuiet, h.access] using h)
  | lineActivity => cases hx; exact .inl (by simpa [State.lineStart, h.access] using h)
  | slotBoundary => cases hx; exact .inl (by simpa [State.slotEnds, h.access] using h)
  | frameSent => cases hx; exact .inl (by simpa [State.sendDone, h.access] using h)
  | collision => cases hx; exact .inl (by simpa [State.collide, h.access] using h)
  | frameCompletion bits gap headMissed => cases hx; exact .inl ((h.frameDone bits gap headMissed).symm ▸ h)
  | claimTaken => cases hx; exact .inl (taken _)
  | warnTaken => cases hx; exact .inl (taken _)
  | floorTaken => cases hx; exact .inl (taken _)
  | ackTaken => cases hx; exact .inl (taken _)
  | entryQuery => cases hx; exact .inl (taken _)
  | statsQuery => cases hx; exact .inl (taken _)
  | restart => cases hx; exact .inl (taken _)
  | peerReportTaken => cases hx; exact .inl (taken _)

theorem step (h : s.Dormant) (hstep : step s = .next t) : t.Dormant ∨ t.stance.Settled := by
  rcases step_cases hstep with ⟨c, rest, -, hx⟩ | ⟨-, p, -, hx⟩ | ⟨-, -, rfl⟩
  · have front : Dormant { s with pending := rest } := h.frame rfl
    exact front.exec hx
  · exact h.exec hx
  · exact .inl (h.frame rfl)

end State.Dormant

/-! ## Every step -/

/-- Settles O57: a state in STARTING stays there or its load ends; any other is started anew, or runs a course that keeps it settled. -/
theorem stepKeepsTheStationStates : Obligations.StepKeepsTheStationStates := by
  unfold Obligations.StepKeepsTheStationStates
  intro s t hS hJ hL hstep
  refine stationLaws_iff.mpr ?_
  rcases stationLaws_iff.mp ⟨hS, hJ, hL⟩ with h | h
  · exact h.step hstep
  · exact (step_course hstep).imp (fun ⟨cause, u, ht⟩ => ht ▸ State.Dormant.started cause u) fun hc => hc.settled h

end Sys2Proof.Machine
end

section
/-! A full transmit queue (R147), the queries (R153 to R155, R138) and the request for a WARN frame (R143 to R145, R73, R74). -/

namespace Sys2Proof.Machine

section
variable {s : State}

/-! ## A full queue (R147) -/

/-- In a full queue that holds nothing less urgent the new frame is dropped and counted. -/
theorem State.submit_least {f : Frame} (hfull : txMax ≤ s.tx.length) (hle : ∀ g ∈ s.tx, g.frame.cls ≤ f.cls) :
    s.submit f = (s.count .framesDropped, false) := by
  rw [State.submit, if_neg hfull.not_gt, victimFor_none.mpr hle]

/-- In a full queue the newest frame of the least urgent class gives way, is counted and discarded. -/
theorem State.submit_victim {f : Frame} (hfull : txMax ≤ s.tx.length) (hlt : ∃ g ∈ s.tx, f.cls < g.frame.cls) : ∃ pre v post,
    s.tx = pre ++ v :: post ∧ f.cls < v.frame.cls ∧ (∀ g ∈ s.tx, g.frame.cls ≤ v.frame.cls) ∧
      (∀ g ∈ post, g.frame.cls ≠ v.frame.cls) ∧
      s.submit f = ((({ s with tx := placeTx ⟨f, 0⟩ (pre ++ post) }).count .framesDropped).discardFrame v.frame, true) := by
  cases hv : victimFor f.cls s.tx with
  | none =>
    obtain ⟨g, hg, hlt⟩ := hlt
    exact absurd (victimFor_none.mp hv g hg) hlt.not_ge
  | some vr =>
    obtain ⟨v, rest⟩ := vr
    obtain ⟨hcls, hleast, pre, post, hq, rfl, hnewest⟩ := victimFor_some hv
    refine ⟨pre, v, post, hq, hcls, hleast, hnewest, ?_⟩
    rw [State.submit, if_neg hfull.not_gt, hv]

/-! ## Queries (R153 to R155) -/

/-- A frame less urgent than a reply is a CLAIM (R142). -/
theorem Frame.claim_of_cls {f : Frame} (h : 3 < f.cls) : ∃ r pairs, f = .claim r pairs := by
  cases f with
  | claim r pairs => exact ⟨r, pairs, rfl⟩
  | warn w => exact absurd (Frame.cls_warn_le w) (by omega)
  | station _ => exact absurd h (by simp [Frame.cls])
  | entry _ _ => exact absurd h (by simp [Frame.cls])
  | stats _ => exact absurd h (by simp [Frame.cls])

/-- A query is answered exactly by the station it names, while it sends (R153). -/
theorem State.answers_iff {target : Nat} :
    s.answers target = true ↔ target = s.number ∧ (s.station = .running ∨ s.station = .feedDown) := by
  simp [State.answers, StationState.sendsAll_iff]

/-- In a sound table the answer to an ENTRY query is one request for the reply (R154). -/
theorem State.answerEntry_sound (hs : SoundLaw s) (mic : Nat) :
    s.answerEntry mic = s.requestFrame (.entry mic ((s.entry? mic).map (entryReport s.now))) := by
  unfold State.answerEntry
  cases he : s.entry? mic with
  | none => rfl
  | some e => exact if_pos (hs e (State.entry?_some he).1)

/-- The command `c` queues the reply `f`, in a full queue in the place of the newest CLAIM, or drops it (R147). -/
def State.Replies (s : State) (rest : List RxFrame) (c : Instr) (f : Frame) : Prop :=
  (s.tx.length < 16 → exec c s = .next { s with rx := rest, tx := placeTx ⟨f, 0⟩ s.tx }) ∧
  (16 ≤ s.tx.length → (∀ g ∈ s.tx, g.frame.cls ≤ 3) → exec c s = .next { s with
    rx := rest, counters := s.counters.bump .framesDropped }) ∧
  (16 ≤ s.tx.length → (∃ g ∈ s.tx, 3 < g.frame.cls) → ∃ pre v post, s.tx = pre ++ v :: post ∧
    (∃ r pairs, v.frame = .claim r pairs) ∧ (∀ g ∈ post, g.frame.cls ≠ v.frame.cls) ∧
    exec c s = .next { s with
      rx := rest, tx := placeTx ⟨f, 0⟩ (pre ++ post), counters := s.counters.bump .framesDropped })

/-- The state while the frame `x` is in dispatch, and `rest` stays received. -/
def State.dispatching (s : State) (x : RxFrame) (rest : List RxFrame) : State := { s with rx := rest, inDispatch := some x }

/-- The end of a dispatch. -/
def State.dispatchEnds (s : State) : State := { s with inDispatch := none }

/-- A frame in dispatch ends with the taking of it and the changes of the queue and the counters. -/
theorem State.dispatching_ends (hi : s.inDispatch = none) (x : RxFrame) (rest : List RxFrame) (tx : List TxFrame) (counters : Counters) :
    ({ s.dispatching x rest with tx := tx, counters := counters } : State).dispatchEnds =
      { s with rx := rest, tx := tx, counters := counters } := by
  simp only [State.dispatchEnds, State.dispatching, ← hi]

/-- A query that is not answered changes nothing (R153). -/
theorem State.unanswered (hi : s.inDispatch = none) {target : Nat}
    (h : target ≠ s.number ∨ ¬(s.station = .running ∨ s.station = .feedDown)) (x : RxFrame) (rest : List RxFrame) (reply : State → State) :
    (if (s.dispatching x rest).answers target = true then reply (s.dispatching x rest) else s.dispatching x rest).dispatchEnds =
      { s with rx := rest } := by
  have hno : ¬(s.dispatching x rest).answers target = true := fun ha => by
    obtain ⟨hnumber, hsends⟩ := State.answers_iff.mp ha
    exact h.elim (· hnumber) (· hsends)
  rw [if_neg hno]
  exact State.dispatching_ends hi x rest s.tx s.counters

/-- A dispatch whose work is the request for a reply. -/
theorem State.replies (hi : s.inDispatch = none) (hsends : s.station = .running ∨ s.station = .feedDown) {rest : List RxFrame}
    {c : Instr} {f : Frame} {x : RxFrame} (hf : f.cls = 3)
    (hc : exec c s = .next ((s.dispatching x rest).requestFrame f).dispatchEnds) : s.Replies rest c f := by
  have requested : (s.dispatching x rest).requestFrame f = ((s.dispatching x rest).submit f).1 :=
    if_pos (StationState.sendsAll_iff.mpr hsends)
  rw [requested] at hc
  have ends := State.dispatching_ends hi x rest
  refine ⟨fun hroom => ?_, fun hfull hle => ?_, fun hfull hlt => ?_⟩
  · rw [hc, State.submit_room (s := s.dispatching x rest) hroom]
    exact congrArg _ (ends _ s.counters)
  · rw [hc, State.submit_least (s := s.dispatching x rest) hfull fun g hg => hf ▸ hle g hg]
    exact congrArg _ (ends s.tx _)
  · obtain ⟨pre, v, post, hq, hcls, -, hnewest, hs⟩ := State.submit_victim (s := s.dispatching x rest) hfull (hf ▸ hlt)
    obtain ⟨r, pairs, hclaim⟩ := Frame.claim_of_cls (hf ▸ hcls)
    refine ⟨pre, v, post, hq, ⟨r, pairs, hclaim⟩, hnewest, ?_⟩
    rw [hc, hs, hclaim]
    exact congrArg _ (ends _ _)

end

/-- Settles O46: each command is the dispatch of the frame, whose work is nothing or the request for the reply. -/
theorem queriesAnswered : Obligations.QueriesAnswered := by
  unfold Obligations.QueriesAnswered
  intro s source rest hs hi taken sends answered
  refine ⟨fun target mic hrx => ?_, fun target hrx => ?_, fun kind payload hrx => ?_⟩
  · let x : RxFrame := ⟨source, .query target (.entry mic)⟩
    have hexec : exec .entryQuery s = .next (if (s.dispatching x rest).answers target = true then
        (s.dispatching x rest).answerEntry mic else s.dispatching x rest).dispatchEnds :=
      congrArg _ (State.dispatch_eq hi hrx (act := entryQueryWork) rfl)
    refine ⟨fun h => hexec.trans (congrArg _ (State.unanswered hi h x rest _)),
      fun ht hsends => State.replies (x := x) hi hsends rfl ?_⟩
    rw [hexec, if_pos (State.answers_iff (s := s.dispatching x rest) |>.mpr ⟨ht, hsends⟩),
      State.answerEntry_sound (s := s.dispatching x rest) hs mic]
    rfl
  · let x : RxFrame := ⟨source, .query target .stats⟩
    have hexec : exec .statsQuery s = .next (if (s.dispatching x rest).answers target = true then
        (s.dispatching x rest).requestFrame (.stats s.counters) else s.dispatching x rest).dispatchEnds :=
      congrArg _ (State.dispatch_eq hi hrx (act := statsQueryWork) rfl)
    refine ⟨fun h => hexec.trans (congrArg _ (State.unanswered hi h x rest _)),
      fun ht hsends => State.replies (x := x) hi hsends rfl ?_⟩
    rw [hexec, if_pos (State.answers_iff (s := s.dispatching x rest) |>.mpr ⟨ht, hsends⟩)]
  · refine congrArg _ ((State.dispatch_eq hi hrx (act := reportWork) rfl).trans ?_)
    exact State.dispatching_ends hi ⟨source, .report kind payload⟩ rest s.tx s.counters

/-! ## WARN requests (R143 to R145, R73) -/

section
variable {s : State} {mic : Nat} {e : Entry} {k : Kind} {reason : Reason}

/-- The gates of a WARN request (R143, R144). -/
theorem State.warnGate_iff : s.warnGate e k = true ↔ (s.station = .running ∨ s.station = .feedDown) ∧ e.role = .reporter ∧
    (s.zone = .notInForce ∨ k ≠ .signal ∨ (e.record k).level ≠ .higher) := by
  rw [← StationState.sendsAll_iff]
  simp only [State.warnGate, Bool.and_eq_true, Bool.not_eq_true', Bool.and_eq_false_iff, decide_eq_true_eq, decide_eq_false_iff_not,
    not_not, and_assoc, or_assoc]

/-- A request that passes the gates and takes a place tells the chamber (R73). -/
theorem State.requestWarn_placed (he : s.entry? mic = some e) (hg : s.warnGate e k = true) {u : State}
    (hu : (s.removeWhere (Frame.warnFor mic k)).submit (.warn (composeWarn s.now e k reason)) = (u, true)) :
    s.requestWarn mic k reason = u.modRecord mic k (Record.announced (e.record k).level (e.record k).acked) := by
  simp only [State.requestWarn, he, hg, hu, if_true]
  rfl

theorem State.requestWarn_dropped (he : s.entry? mic = some e) (hg : s.warnGate e k = true) {u : State}
    (hu : (s.removeWhere (Frame.warnFor mic k)).submit (.warn (composeWarn s.now e k reason)) = (u, false)) :
    s.requestWarn mic k reason = u := by
  simp [State.requestWarn, he, hg, hu]

/-- With sixteen frames of other pairs queued the queue holds no WARN of this pair. -/
theorem State.removeWhere_full {drop : Frame → Bool} (hl : s.tx.length ≤ txMax)
    (hfull : txMax ≤ (s.tx.filter fun t => !drop t.frame).length) : s.removeWhere drop = s := by
  have hkept : (s.tx.filter fun t => !drop t.frame) = s.tx := List.filter_sublist.eq_of_length_le (hl.trans hfull)
  simp only [State.removeWhere, hkept]

/-- A discard leaves a sound table sound. -/
theorem SoundLaw.discardFrame (h : SoundLaw s) (f : Frame) : SoundLaw (s.discardFrame f) := by
  rcases State.discardFrame_cases f s with hd | ⟨w, -, hd⟩ <;> rw [hd]
  · exact h
  · refine h.mapEntry _ _ fun e he => ?_
    split
    · exact he
    · rfl

end

/-- Settles O48: the request is refused at its gates, or its frame is submitted to the queue without the one it replaces. -/
theorem warnRequest : Obligations.WarnRequest := by
  unfold Obligations.WarnRequest
  intro s mic k reason e hT hs hl he r open_ kept f told missed
  have gate : s.warnGate e k = true ↔ open_ := State.warnGate_iff
  let base := s.removeWhere (Frame.warnFor mic k)
  have hfull : kept.length = 16 → base = s := fun h => State.removeWhere_full hl h.ge
  have tells : ∀ {u : State}, SoundLaw u → u.modRecord mic k (Record.announced r.level r.acked) = { u with
      table := u.table.map fun x => if x.mic = mic then
        x.setRecord k { x.record k with chamber := .told r.level, chamberAcked := r.acked } else x } :=
    fun hu => State.modEntry_sound hu fun x => Entry.setRecord_checkGood k _ x
  refine ⟨fun hclosed => ?_, fun hopen hroom => ?_, fun hopen hlen hle => ?_, fun hopen hlen hlt => ?_, ?_⟩
  · have hblocked : ¬s.warnGate e k = true := fun hg => hclosed (gate.mp hg)
    simp only [State.requestWarn, he, if_neg hblocked]
  · refine (State.requestWarn_placed he (gate.mpr hopen) (State.submit_room (s := base) hroom _)).trans
      ((tells (u := { s with tx := placeTx f kept }) hs).trans ?_)
    obtain ⟨hmem, hmic⟩ := State.entry?_some he
    refine congrArg (fun table => ({ s with tx := placeTx f kept, table := table } : State)) (List.map_congr_left fun x hx => ?_)
    by_cases hm : x.mic = mic
    · rw [hT.unique hx hmem (hm.trans hmic.symm)]
    · simp only [told, if_neg hm]
  · have hsubmit : base.submit f.frame = (s.count .framesDropped, false) := by
      rw [hfull hlen]
      exact State.submit_least (by rw [← hfull hlen]; exact hlen.ge) hle
    exact State.requestWarn_dropped he (gate.mpr hopen) hsubmit
  · obtain ⟨pre, v, post, hq, -, hleast, hnewest, hsubmit⟩ :=
      State.submit_victim (s := s) (f := f.frame) (by rw [← hfull hlen]; exact hlen.ge) hlt
    refine ⟨pre, v, post, hq, hleast, hnewest, ?_⟩
    let displaced : State := ({ s with tx := placeTx f (pre ++ post) }).count .framesDropped
    have sound : SoundLaw (displaced.discardFrame v.frame) := SoundLaw.discardFrame (s := displaced) hs v.frame
    refine (State.requestWarn_placed he (gate.mpr hopen) ((congrArg (State.submit f.frame) (hfull hlen)).trans hsubmit)).trans
      ((tells sound).trans ?_)
    rw [State.discardFrame_discarded]
    rfl
  · obtain ⟨pre, post, hq, hp, hpre, hpost⟩ := placeTx_split f kept
    exact ⟨pre, post, hp, hq, hpre, hpost⟩

end Sys2Proof.Machine
end

section
/-! The cues of the entries through every operation (R160 to R162). Between a change that a cue rests on and the selection that
follows it, the entry is excused; while a sweep that follows a change of the station state runs, the entries still to be visited owe
their selection. -/

namespace Sys2Proof.Machine

/-! ## One entry -/

/-- What the rules of an entry's cue read of it. -/
def Entry.cueBasis (e : Entry) : Nat × Presence × Role × Nat × Timer × Level × Level :=
  (e.mic, e.presence, e.role, e.cue, e.cueRefresh, e.recBattery.level, e.recMute.level)

/-- What a selection writes, with the mic ID. -/
def Entry.cueHeld (e : Entry) : Nat × Nat × Timer := (e.mic, e.cue, e.cueRefresh)

/-- The refresh timer runs exactly while the pattern is not 0 (R162). -/
def Entry.RefreshRight (e : Entry) : Prop := e.cueRefresh.isRunning ↔ e.cue ≠ 0

/-- The pattern is the one R160 gives in a station state. -/
def Entry.CueFits (st : StationState) (e : Entry) : Prop := e.cue = if cued st e then cuePattern e else 0

/-- The rules of an entry's cue. An entry in `excused` keeps that of the refresh timer alone; one in `owing` may hold another
pattern than R160 gives, but holds 0 unless it is reported, so that the role sweep of LISTEN_ONLY leaves it right. -/
structure Entry.CueHolds (excused owing : Set Nat) (st : StationState) (e : Entry) : Prop where
  refresh : e.RefreshRight
  dark : e.mic ∉ excused → e.role ≠ .reporter → e.cue = 0
  fits : e.mic ∉ excused → e.mic ∉ owing → e.CueFits st

theorem cued_eq_false_of_role {st : StationState} {e : Entry} (h : e.role ≠ .reporter) : cued st e = false := by simp [cued, h]

/-- A pattern that R160 gives to an entry that is not reported is 0. -/
theorem Entry.CueFits.dark {st : StationState} {e : Entry} (h : e.CueFits st) (hr : e.role ≠ .reporter) : e.cue = 0 := by
  simpa [Entry.CueFits, cued_eq_false_of_role hr] using h

/-- An entry that is not reported and holds pattern 0 is right in every station state. -/
theorem Entry.cueFits_of_dark {st : StationState} {e : Entry} (hr : e.role ≠ .reporter) (hc : e.cue = 0) : e.CueFits st := by
  simpa [Entry.CueFits, cued_eq_false_of_role hr] using hc

/-- The rule of the refresh timer reads only what a selection writes. -/
theorem Entry.RefreshRight.congr {e f : Entry} (h : e.RefreshRight) (hf : f.cueHeld = e.cueHeld) : f.RefreshRight := by
  simp only [Entry.cueHeld, Prod.mk.injEq] at hf
  obtain ⟨-, hcue, hrefresh⟩ := hf
  rwa [Entry.RefreshRight, hcue, hrefresh]

namespace Entry.CueHolds

variable {X X' T T' : Set Nat} {st st' : StationState} {e f : Entry}

theorem mono (h : e.CueHolds X T st) (hX : X ⊆ X') (hT : T ⊆ T') : e.CueHolds X' T' st :=
  ⟨h.refresh, fun he => h.dark fun hx => he (hX hx), fun he ho => h.fits (fun hx => he (hX hx)) fun ht => ho (hT ht)⟩

theorem of_fits (hr : e.RefreshRight) (hf : e.CueFits st) : e.CueHolds X T st := ⟨hr, fun _ => hf.dark, fun _ _ => hf⟩

/-- The rules read the station state only for whether it sends cues. -/
theorem congr (h : e.CueHolds X T st) (hst : st'.cues = st.cues) (hf : f.cueBasis = e.cueBasis) : f.CueHolds X T st' := by
  simp only [Entry.cueBasis, Prod.mk.injEq] at hf
  obtain ⟨hmic, hpresence, hrole, hcue, hrefresh, hbattery, hmute⟩ := hf
  obtain ⟨refresh, dark, fits⟩ := h
  constructor <;>
    simpa only [Entry.RefreshRight, Entry.CueFits, cued, cuePattern, hst, hmic, hpresence, hrole, hcue, hrefresh, hbattery, hmute]

end Entry.CueHolds

/-! ## The state -/

/-- The rules hold of every entry but for those excused and those that owe a selection; the table holds at most `n` entries with
distinct mic IDs, and the sighting in processing is `p`. -/
structure CuesHold (n : Nat) (p : Option Processing) (excused owing : Set Nat) (s : State) : Prop where
  size : s.table.length ≤ n
  distinct : s.mics.Nodup
  processing : s.inProcessing = p
  entries : ∀ e ∈ s.table, e.CueHolds excused owing s.station

/-- What a failed verification does to a table of at most `n` entries: the entry goes, and the rules stay. -/
def CuesHold.Handles (n : Nat) (p : Option Processing) (X : Set Nat) (fx : Nat → State → State) : Prop :=
  ∀ (T : Set Nat) (mic : Nat) (s : State), s.entry? mic ≠ none → CuesHold n p X T s →
    CuesHold n p X T (fx mic s) ∧ (fx mic s).entry? mic = none

namespace CuesHold

variable {n : Nat} {p : Option Processing} {X X' T T' : Set Nat} {s t : State} {mic : Nat}

theorem mono (h : CuesHold n p X T s) (hX : X ⊆ X') (hT : T ⊆ T') : CuesHold n p X' T' s :=
  ⟨h.size, h.distinct, h.processing, fun e he => (h.entries e he).mono hX hT⟩

theorem excusing (h : CuesHold n p X T s) (mic : Nat) : CuesHold n p (insert mic X) T s := h.mono (Set.subset_insert ..) subset_rfl

theorem owing (h : CuesHold n p X T s) (mic : Nat) : CuesHold n p X (insert mic T) s := h.mono subset_rfl (Set.subset_insert ..)

theorem resize (h : CuesHold n p X T s) {m : Nat} (hm : s.table.length ≤ m) : CuesHold m p X T s :=
  ⟨hm, h.distinct, h.processing, h.entries⟩

theorem found (h : CuesHold n p X T s) {e : Entry} (he : e ∈ s.table) : s.entry? e.mic = some e := by
  cases hf : s.entry? e.mic with
  | none => exact absurd rfl (State.entry?_none.mp hf e he)
  | some f =>
    obtain ⟨hmem, hmic⟩ := State.entry?_some hf
    rw [List.inj_on_of_nodup_map h.distinct hmem he hmic]

/-- A state with the same table, in a station state that sends cues as the other did. -/
theorem frame (h : CuesHold n p X T s)
    (ht : (t.table, t.inProcessing, t.station.cues) = (s.table, s.inProcessing, s.station.cues)) : CuesHold n p X T t := by
  obtain ⟨htable, hprocessing, hst⟩ :
      t.table = s.table ∧ t.inProcessing = s.inProcessing ∧ t.station.cues = s.station.cues := by
    simpa using ht
  exact ⟨htable ▸ h.size, by rw [State.mics, htable]; exact h.distinct, hprocessing.trans h.processing,
    fun e he => (h.entries e (htable ▸ he)).congr hst rfl⟩

/-- A state with the same table, whatever its station state: every entry owes its selection. -/
theorem unsettle (h : CuesHold n p X T s) (ht : (t.table, t.inProcessing) = (s.table, s.inProcessing)) :
    CuesHold n p X Set.univ t := by
  obtain ⟨htable, hprocessing⟩ : t.table = s.table ∧ t.inProcessing = s.inProcessing := by simpa using ht
  exact ⟨htable ▸ h.size, by rw [State.mics, htable]; exact h.distinct, hprocessing.trans h.processing, fun e he =>
    ⟨(h.entries e (htable ▸ he)).refresh, (h.entries e (htable ▸ he)).dark, fun _ ho => absurd (Set.mem_univ _) ho⟩⟩

/-- Hand-offs reach nothing that the rules read. -/
theorem told (h : CuesHold n p X T s) (k : s.Told t) : CuesHold n p X T t := by
  obtain ⟨-, hst, -⟩ := k.keep
  have hprocessing : t.inProcessing = s.inProcessing := by
    have honly := k.only
    unfold State.onlyHandOffs at honly
    rw [honly]
  refine ⟨k.occupancy ▸ h.size, k.mics ▸ h.distinct, hprocessing.trans h.processing, fun e he => ?_⟩
  obtain ⟨x, hx, hxe⟩ := List.mem_map.mp (k.view ▸ List.mem_map_of_mem he : e.untold ∈ s.view)
  exact (h.entries x hx).congr (congrArg _ hst) (show e.untold.cueBasis = x.untold.cueBasis from congrArg _ hxe.symm)

/-- A change of one entry, after which that entry may be excused or owe a selection where it was not or did not. -/
theorem modEntry (h : CuesHold n p X T s) {f : Entry → Entry} (hmic : ∀ e, (f e).mic = e.mic)
    (hX : ∀ m, m ≠ mic → m ∈ X → m ∈ X') (hT : ∀ m, m ≠ mic → m ∈ T → m ∈ T')
    (hf : ∀ e, s.entry? mic = some e → e.CueHolds X T s.station → (f e).CueHolds X' T' s.station) :
    CuesHold n p X' T' (s.modEntry mic f) := by
  refine ⟨(List.length_map _).trans_le h.size, by rw [State.modEntry_mics _ _ _ hmic]; exact h.distinct, h.processing,
    fun e he => ?_⟩
  obtain ⟨x, hx, rfl⟩ := State.mem_modEntry he
  split
  · exact (hf x (‹x.mic = mic› ▸ h.found hx) (h.entries x hx)).congr rfl rfl
  · obtain ⟨refresh, dark, fits⟩ := h.entries x hx
    exact ⟨refresh, fun hx' => dark fun hm => hx' (hX _ ‹_› hm),
      fun hx' ht' => fits (fun hm => hx' (hX _ ‹_› hm)) fun hm => ht' (hT _ ‹_› hm)⟩

/-- A change of an entry that the rules do not read. -/
theorem modOther (h : CuesHold n p X T s) (mic : Nat) {f : Entry → Entry} (hf : ∀ e, (f e).cueBasis = e.cueBasis) :
    CuesHold n p X T (s.modEntry mic f) :=
  h.modEntry (fun e => congrArg Prod.fst (hf e)) (fun _ _ => id) (fun _ _ => id) fun e _ he => he.congr rfl (hf e)

/-- A change of one record but for its level. -/
theorem modRecord (h : CuesHold n p X T s) (mic : Nat) (k : Kind) {f : Record → Record} (hf : ∀ r, (f r).level = r.level) :
    CuesHold n p X T (s.modRecord mic k f) :=
  h.modOther mic fun e => by cases k <;> simp [Entry.cueBasis, Entry.setRecord, Entry.record, hf]

/-- A change of what a cue rests on excuses the entry. -/
theorem excuse (h : CuesHold n p X T s) (mic : Nat) {f : Entry → Entry}
    (hf : ∀ e, (f e).cueHeld = e.cueHeld) : CuesHold n p (insert mic X) T (s.modEntry mic f) := by
  have hmic : ∀ e, (f e).mic = e.mic := fun e => congrArg Prod.fst (hf e)
  refine h.modEntry hmic (fun _ _ => Set.mem_insert_of_mem _) (fun _ _ => id) fun e he hc => ?_
  have hin : (f e).mic ∈ insert mic X := .inl ((hmic e).trans (State.entry?_some he).2)
  exact ⟨hc.refresh.congr (hf e), absurd hin, absurd hin⟩

/-- A selection, or any change that leaves the entry right, settles it. -/
theorem settle (h : CuesHold n p (insert mic X) (insert mic T) s) {f : Entry → Entry} (hmic : ∀ e, (f e).mic = e.mic)
    (hf : ∀ e, s.entry? mic = some e → e.RefreshRight → (f e).RefreshRight ∧ (f e).CueFits s.station) :
    CuesHold n p X T (s.modEntry mic f) :=
  h.modEntry hmic (fun _ hm hi => hi.resolve_left hm) (fun _ hm hi => hi.resolve_left hm) fun e he hc =>
    .of_fits (hf e he hc.refresh).1 (hf e he hc.refresh).2

/-- Where the entry, if there is one, is right, there is nothing to excuse or to owe. -/
theorem settled (h : CuesHold n p (insert mic X) (insert mic T) s) (hf : ∀ e, s.entry? mic = some e → e.CueFits s.station) :
    CuesHold n p X T s := by
  refine ⟨h.size, h.distinct, h.processing, fun e he => ?_⟩
  have hc := h.entries e he
  by_cases hm : e.mic = mic
  · exact .of_fits hc.refresh (hf e (hm ▸ h.found he))
  · exact ⟨hc.refresh, fun hx => hc.dark fun hi => hx (hi.resolve_left hm),
      fun hx ht => hc.fits (fun hi => hx (hi.resolve_left hm)) fun hi => ht (hi.resolve_left hm)⟩

theorem absent (h : CuesHold n p (insert mic X) (insert mic T) s) (hn : s.entry? mic = none) : CuesHold n p X T s :=
  h.settled fun e he => by rw [hn] at he; cases he

/-- An entry that is not reported owes nothing: it holds 0. -/
theorem unreported (h : CuesHold n p X (insert mic T) s) (hr : ∀ e, s.entry? mic = some e → e.role ≠ .reporter) :
    CuesHold n p X T s := by
  refine ⟨h.size, h.distinct, h.processing, fun e he => ?_⟩
  obtain ⟨refresh, dark, fits⟩ := h.entries e he
  refine ⟨refresh, dark, fun hx ht => ?_⟩
  by_cases hm : e.mic = mic
  · have hrole := hr e (hm ▸ h.found he)
    exact Entry.cueFits_of_dark hrole (dark hx hrole)
  · exact fits hx fun hi => ht (hi.resolve_left hm)

theorem dropEntry (h : CuesHold n p X T s) (mic : Nat) : CuesHold n p X T (s.dropEntry mic) :=
  ⟨(List.length_filter_le _ _).trans h.size, h.distinct.sublist (List.filter_sublist.map _), h.processing,
    fun e he => h.entries e (List.mem_of_mem_filter he)⟩

theorem verified (h : CuesHold n p X T s) {fx : Nat → State → State} (hfx : Handles n p X fx) (mic : Nat)
    {act : Entry → State → State} (hact : ∀ e, s.entry? mic = some e → CuesHold n p X T (act e s)) :
    CuesHold n p X T (s.verified fx mic act) := by
  rcases State.verified_cases fx mic act s with hv | ⟨e, he, -, hv⟩ | ⟨e, he, -, hv⟩ <;> rw [hv]
  · exact h
  · exact (hfx T mic s (by simp [he]) h).1
  · exact hact e he

theorem sweep (h : CuesHold n p X T s) {fx act : Nat → State → State} (hfx : Handles n p X fx)
    (hact : ∀ mic s, CuesHold n p X T s → CuesHold n p X T (act mic s)) : CuesHold n p X T (s.sweep fx act) :=
  State.sweep_keeps (P := CuesHold n p X T) (fun mic s e he _ hs => (hfx T mic s (by simp [he]) hs).1)
    (fun mic s _ _ _ hs => hact mic s hs) h

/-- A sweep whose visits settle their entries settles all that owe a selection. -/
theorem settlingSweep (h : CuesHold n p X T s) {fx act : Nat → State → State} (hfx : Handles n p X fx)
    (hact : ∀ T mic s, CuesHold n p X (insert mic T) s → CuesHold n p X T (act mic s)) :
    CuesHold n p X ∅ (s.sweep fx act) := by
  have begun : CuesHold n p X {m | m ∈ s.mics} s := by
    refine ⟨h.size, h.distinct, h.processing, fun e he => ⟨(h.entries e he).refresh, (h.entries e he).dark, fun _ ho => ?_⟩⟩
    exact absurd (List.mem_map_of_mem he) ho
  have visit : ∀ {mic rest u}, CuesHold n p X {m | m ∈ mic :: rest} u → CuesHold n p X (insert mic {m | m ∈ rest}) u :=
    fun hu => hu.mono subset_rfl fun _ => List.mem_cons.mp
  refine (State.sweep_remaining (I := fun rest u => CuesHold n p X {m | m ∈ rest} u)
    (fun mic rest u hn hu => ((visit hu).excusing mic).absent hn) (fun mic rest u e he _ hu => ?_)
    (fun mic rest u e _ _ hu => hact _ mic u (visit hu)) begun).mono subset_rfl fun m hm => absurd hm List.not_mem_nil
  obtain ⟨hkept, hgone⟩ := hfx _ mic u (by simp [he]) (visit hu)
  exact (hkept.excusing mic).absent hgone

end CuesHold

end Sys2Proof.Machine
end

section
/-! The cues through selections, inputs, changes of role, the zone, removals and faults (R160 to R162). -/

namespace Sys2Proof.Machine

namespace CuesHold

variable {n : Nat} {p : Option Processing} {X T : Set Nat} {s : State} {mic : Nat}

/-! ## Selections, inputs and roles -/

/-- A selection settles its entry (R161). -/
theorem selectCue (h : CuesHold n p (insert mic X) (insert mic T) s) : CuesHold n p X T (s.selectCue mic) := by
  unfold State.selectCue
  split
  · exact h.absent ‹_›
  · rename_i e he
    have same : ∀ x, s.entry? mic = some x → x = e := fun x hx => Option.some.inj (hx.symm.trans he)
    split
    · rename_i hcued
      split
      · rename_i hsame
        refine h.settled fun x hx => ?_
        rw [same x hx, Entry.CueFits, if_pos hcued, hsame]
      · refine CuesHold.told (h.settle (by exact fun _ => rfl) fun x hx _ => ?_) (State.offerCue_told _ _)
        rw [same x hx]
        refine ⟨?_, (if_pos hcued).symm⟩
        by_cases hp : cuePattern e = 0 <;> simp [Entry.RefreshRight, hp, Timer.isRunning, State.after]
    · rename_i hcued
      refine h.settle (by exact fun _ => rfl) fun x hx _ => ⟨by simp [Entry.RefreshRight, Timer.isRunning], ?_⟩
      rw [same x hx]
      exact (if_neg hcued).symm

/-- A selection where nothing need be settled. -/
theorem reselectCue (h : CuesHold n p X T s) (mic : Nat) : CuesHold n p X T (s.selectCue mic) :=
  ((h.excusing mic).owing mic).selectCue

theorem giveInput (h : CuesHold n p X T s) (mic : Nat) (k : Kind) : CuesHold n p X T (s.giveInput mic k) := by
  unfold State.giveInput
  split
  · exact h
  · exact h.modRecord mic k (by exact fun _ => Record.step_level ..)

theorem giveInputs (h : CuesHold n p X T s) (mic : Nat) : CuesHold n p X T (s.giveInputs mic) :=
  ((h.giveInput mic _).giveInput mic _).giveInput mic _

/-- A gain of the role ends in a selection (R117). -/
theorem gainReporter (h : CuesHold n p (insert mic X) (insert mic T) s) : CuesHold n p X T (s.gainReporter mic) := by
  have gained := (h.excuse mic (f := fun e => { e with role := .reporter, takeover := .stopped }) fun _ => rfl).told
    (State.adoptAll_told mic _)
  rw [Set.insert_eq_of_mem (Set.mem_insert ..)] at gained
  exact (gained.modOther mic (by exact fun _ => rfl)).selectCue

/-- A loss of the role ends in a selection (R118). -/
theorem loseReporter (h : CuesHold n p (insert mic X) (insert mic T) s) : CuesHold n p X T (s.loseReporter mic) := by
  have lost := (h.excuse mic (f := fun e => { e with role := .follower }) fun _ => rfl).told
    (State.discardWhere_told (Frame.warnOf mic) _)
  rw [Set.insert_eq_of_mem (Set.mem_insert ..)] at lost
  exact (lost.modOther mic (by exact fun _ => rfl)).selectCue

/-- An entry that is not reported and holds 0 is right as a FOLLOWER. -/
theorem modFollower (h : CuesHold n p X (insert mic T) s) {e : Entry} (he : s.entry? mic = some e) (hr : e.role ≠ .reporter)
    {f : Entry → Entry} (hf : ∀ e, (f e).cueHeld = e.cueHeld ∧ (f e).role = .follower) :
    CuesHold n p X T (s.modEntry mic f) := by
  have hmic : ∀ e, (f e).mic = e.mic := fun e => congrArg Prod.fst (hf e).1
  refine h.modEntry hmic (fun _ _ => id) (fun _ hm hi => hi.resolve_left hm) fun x hx hc => ?_
  obtain rfl : e = x := Option.some.inj (he.symm.trans hx)
  have hcue : (f e).cue = e.cue := congrArg (·.2.1) (hf e).1
  have hfollower : (f e).role ≠ .reporter := by simp [(hf e).2]
  have dark : (f e).mic ∉ X → (f e).cue = 0 := fun hx => hcue.trans (hc.dark (hmic e ▸ hx) hr)
  exact ⟨hc.refresh.congr (hf e).1, fun hx _ => dark hx, fun hx _ => Entry.cueFits_of_dark hfollower (dark hx)⟩

theorem makeFollower (h : CuesHold n p X (insert mic T) s) : CuesHold n p X T (s.makeFollower mic) := by
  unfold State.makeFollower
  split
  · exact (h.excusing mic).absent ‹_›
  · split
    · exact (h.excusing mic).loseReporter
    · exact h.modFollower ‹_› ‹_› (by exact fun _ => ⟨rfl, rfl⟩)

theorem decideRole (h : CuesHold n p X T s) (mic own : Nat) : CuesHold n p X T (s.decideRole mic own) := by
  unfold State.decideRole
  split
  · exact h
  · split
    · split
      · exact h
      · exact ((h.excusing mic).owing mic).gainReporter
    · exact (h.owing mic).makeFollower

theorem computeRole (h : CuesHold n p X T s) (mic : Nat) : CuesHold n p X T (s.computeRole mic) := by
  unfold State.computeRole
  split
  · exact h
  · split
    · exact h.decideRole ..
    · exact h

/-! ## The zone, removal and faults

What a failed verification does is first any `fx` that handles tables of `n` entries; `integrityFault` is one when its fuel is at
least `n`. -/

section
variable {fx : Nat → State → State} (hfx : Handles n p X fx)
include hfx

theorem zoneEnd (h : CuesHold n p X T s) : CuesHold n p X T (s.zoneEnd fx) := by
  have ended : CuesHold n p X T { s with zone := .notInForce, zoneRepeat := .stopped } := h.frame rfl
  exact ((ended.told (State.requestStation_told false _)).sweep hfx fun mic u hu => hu.told (State.reannounce_told mic u)).told
    (State.zoneHandOff_told _)

theorem updateLost (h : CuesHold n p X T s) : CuesHold n p X T (s.updateLost fx) := by
  have counted : CuesHold n p X T { s with lostCount := lostOf s.table } := h.frame rfl
  rcases State.updateLost_cases fx s with hu | ⟨-, hu⟩ | ⟨-, hu⟩ <;> rw [hu]
  · exact counted
  · exact counted.told (State.zoneEnter_told _ _)
  · exact counted.zoneEnd hfx

theorem feedCauseEnds (h : CuesHold n p X T s) : CuesHold n p X T (s.feedCauseEnds fx) := by
  unfold State.feedCauseEnds
  split
  · split
    · exact h.told (State.zoneCause_told _ s)
    · exact h.zoneEnd hfx
  · exact h

theorem pauseEntry (h : CuesHold n p X T s) (mic : Nat) : CuesHold n p X T (s.pauseEntry fx false mic) := by
  have paused : CuesHold n p X T (if s.station = .feedDown then s.modEntry mic (Entry.mapPresence (Timer.pause s.now)) else s) := by
    split
    · exact h.modOther mic fun _ => rfl
    · exact h
  exact (paused.giveInputs mic).updateLost hfx

theorem resumeSweep (h : CuesHold n p X T s) : CuesHold n p X T (s.resumeSweep fx) :=
  h.sweep hfx fun mic _ hs => ((hs.modOther mic (by exact fun _ => rfl)).giveInputs mic).updateLost hfx

theorem removeEntry (h : CuesHold n p X T (s.dropEntry mic)) : CuesHold n p X T (s.removeEntry fx mic) :=
  ((h.told (State.removeWhere_told _ _)).updateLost hfx).told (State.selectWarningLamps_told _)

/-- The role sweep settles every entry: LISTEN_ONLY leaves none reported (R114, R118). -/
theorem enterListenOnly (h : CuesHold n p X T s) : CuesHold n p X ∅ (s.enterListenOnly fx) := by
  unfold State.enterListenOnly
  extract_lets quiet emptied stopped resumed
  have hquiet : CuesHold n p X ∅ quiet :=
    (h.unsettle (t := { s with station := .listenOnly, joining := .stopped }) rfl).settlingSweep hfx fun T mic u hu =>
      hu.makeFollower.modOther mic (by exact fun _ => rfl)
  have hemptied : CuesHold n p X ∅ emptied :=
    (hquiet.frame (t := { quiet with claimRound := .stopped }) rfl).told (State.discardWhere_told _ _)
  have hstopped : CuesHold n p X ∅ stopped := hemptied.frame rfl
  have hresumed : CuesHold n p X ∅ resumed := by
    unfold resumed
    split
    · exact (hstopped.resumeSweep hfx).feedCauseEnds hfx
    · exact hstopped
  exact (hresumed.told (State.requestStation_told false _)).told (State.stationHandOff_told _)

theorem faultReport (h : CuesHold n p X T s) (mic : Nat) : CuesHold n p X T (s.faultReport fx mic) := by
  have reported : CuesHold n p X T (if s.window.isRunning then
      ({ s with fault := some .doubleFault, window := .stopped }).enterListenOnly fx
    else ({ s with fault := some (.table mic), window := s.after windowMs }).requestStation false) := by
    split
    · exact ((h.frame (t := { s with fault := some .doubleFault, window := .stopped }) rfl).enterListenOnly hfx).mono subset_rfl
        (Set.empty_subset _)
    · exact (h.frame (t := { s with fault := some (.table mic), window := s.after windowMs }) rfl).told
        (State.requestStation_told false _)
  unfold State.faultReport
  split
  · exact h
  · exact h.told (State.requestStation_told false s)
  · exact reported
  · exact reported
  · exact reported

end

/-- A fault takes its entry out first, so its own sweeps find tables that are shorter (R36). -/
theorem integrityFault (fuel : Nat) : Handles fuel p X (integrityFault fuel) := by
  induction fuel with
  | zero =>
    intro T mic s he h
    obtain ⟨e, he⟩ := Option.ne_none_iff_exists'.mp he
    have hsize := h.size
    exact absurd (List.length_pos_of_mem (State.entry?_some he).1) (by omega)
  | succ fuel ih =>
    intro T mic s he h
    obtain ⟨e, he⟩ := Option.ne_none_iff_exists'.mp he
    have hsize := h.size
    have hshorter := State.dropEntry_length_lt he
    have removed : CuesHold fuel p X T (s.removeEntry (Machine.integrityFault fuel) mic) :=
      ((h.dropEntry mic).resize (by omega)).removeEntry ih
    have reported := (removed.frame (t := (s.removeEntry (Machine.integrityFault fuel) mic).count .integrityFaults) rfl).faultReport
      ih mic
    exact ⟨reported.resize (reported.size.trans (Nat.le_succ fuel)),
      (integrityFault_runs (fuel + 1) mic s hsize (by simp [he])).2⟩

theorem entryFault : Handles n p X State.entryFault := fun T mic s he h => by
  obtain ⟨faulted, hgone⟩ := integrityFault s.table.length T mic s he (h.resize le_rfl)
  exact ⟨faulted.resize (faulted.size.trans h.size), hgone⟩

theorem dropped (h : CuesHold n p X T s) (mic : Nat) : CuesHold n p X T (s.removeEntry State.entryFault mic) :=
  (h.dropEntry mic).removeEntry entryFault

end CuesHold

end Sys2Proof.Machine
end

section
/-! The cues through changes of presence, claims and station state, the expiries of timers, the frames taken and the line (R160 to
R162). -/

namespace Sys2Proof.Machine

namespace CuesHold

variable {n : Nat} {p : Option Processing} {X T : Set Nat} {s t : State} {mic : Nat}

/-! ## Presence and claims -/

theorem presenceRole (h : CuesHold n p (insert mic X) T s) : CuesHold n p (insert mic X) T (s.presenceRole mic) := by
  have again : ∀ {f : Entry → Entry}, (∀ e, (f e).cueHeld = e.cueHeld) → CuesHold n p (insert mic X) T (s.modEntry mic f) :=
    fun hf => by simpa using h.excuse mic hf
  unfold State.presenceRole
  split
  · exact h
  · split
    · exact h
    · exact (h.owing mic).makeFollower.modOther mic (by exact fun _ => rfl)
    · split
      · exact h
      · exact again fun _ => rfl

/-- A change of presence ends in a selection (R23). -/
theorem presenceHandOff (h : CuesHold n p (insert mic X) T s) : CuesHold n p X T (s.presenceHandOff mic) :=
  (((h.presenceRole.giveInputs mic).updateLost entryFault).owing mic).selectCue.told (State.selectWarningLamps_told _)

theorem becomeCovered (h : CuesHold n p X T s) (mic : Nat) : CuesHold n p X T (s.becomeCovered mic) := by
  have moved := h.excuse mic (f := fun e => { e with presence := .covered, loss := .stopped, lostForget := .stopped })
    fun _ => rfl
  unfold State.becomeCovered
  dsimp only
  split
  · exact h
  · split
    · exact (((moved.dropEntry mic).owing mic).absent (by simp)).removeEntry entryFault
    · exact moved.presenceHandOff

theorem becomeSilent (h : CuesHold n p X T s) (mic : Nat) : CuesHold n p X T (s.becomeSilent mic) :=
  (h.excuse mic (by exact fun _ => rfl)).presenceHandOff

theorem claimsChanged (h : CuesHold n p X T s) (mic : Nat) : CuesHold n p X T (s.claimsChanged mic) := by
  unfold State.claimsChanged
  split
  · exact h
  · dsimp only
    split
    · exact (h.becomeCovered mic).computeRole mic
    · split
      · exact (h.becomeSilent mic).computeRole mic
      · exact h.computeRole mic

theorem enterClaimFor (h : CuesHold n p X T s) (mic : Nat) (c : Claim) : CuesHold n p X T (s.enterClaimFor mic c) := by
  rcases State.enterClaimFor_cases mic c s with hc | ⟨e, l, -, -, -, hc⟩ <;> rw [hc]
  · exact h
  · exact (h.modOther mic (by exact fun _ => rfl)).claimsChanged mic

theorem removeClaim (h : CuesHold n p X T s) (mic station : Nat) : CuesHold n p X T (s.removeClaim mic station) := by
  unfold State.removeClaim
  split
  · exact h
  · split
    · exact (h.modOther mic (by exact fun _ => rfl)).claimsChanged mic
    · exact h

/-! ## Station states -/

/-- The adoption sweep selects the cue of the entries it finds reported, and the others hold 0 (R117, R161). -/
theorem adoptionEntry (h : CuesHold n p X (insert mic T) s) : CuesHold n p X T (s.adoptionEntry mic) := by
  unfold State.adoptionEntry
  split
  · exact (h.excusing mic).absent ‹_›
  · rename_i e he
    split
    · exact ((h.told (State.adoptAll_told mic s)).excusing mic).selectCue
    · rename_i hr
      exact h.unreported fun x hx => Option.some.inj (he.symm.trans hx) ▸ hr

/-- The work of entering RUNNING settles all that owe a selection (R177). -/
theorem runningWork (h : CuesHold n p X T s) : CuesHold n p X ∅ s.runningWork := by
  unfold State.runningWork
  extract_lets asked timed
  have hasked : CuesHold n p X T asked := h.told (State.requestStation_told true s)
  have htimed : CuesHold n p X T timed := by
    unfold timed
    split
    · exact hasked.frame rfl
    · exact hasked
  exact htimed.settlingSweep entryFault fun _ _ _ hu => hu.adoptionEntry

theorem enterRunning (h : CuesHold n p X T s) : CuesHold n p X ∅ s.enterRunning :=
  (h.unsettle (t := { s with station := .running }) rfl).runningWork.told (State.stationHandOff_told _)

/-- RUNNING and FEED_DOWN both send cues, so their cues need no selection at the change (R160, R178). -/
theorem enterFeedDown_running (h : CuesHold n p X T s) (hst : s.station = .running) :
    CuesHold n p X T (s.enterFeedDown false) := by
  have entered : CuesHold n p X T { s with station := .feedDown, claimRound := .stopped } :=
    h.frame (by rw [hst]; rfl)
  exact (((entered.told (State.zoneFeed_told _)).sweep entryFault fun mic _ hu => hu.pauseEntry entryFault mic).told
    (State.requestStation_told false _)).told (State.stationHandOff_told _)

/-- The pause sweep on entry from JOINING selects every cue (R161, R178). -/
theorem enterFeedDown_joining (h : CuesHold n p X T s) : CuesHold n p X ∅ (s.enterFeedDown true) := by
  have entered : CuesHold n p X Set.univ { s with station := .feedDown, claimRound := .stopped } := h.unsettle rfl
  exact (((entered.told (State.zoneFeed_told _)).settlingSweep entryFault fun T mic _ hu =>
    ((hu.pauseEntry entryFault mic).excusing mic).selectCue).told (State.requestStation_told true _)).told
    (State.stationHandOff_told _)

theorem leaveFeedDown (h : CuesHold n p X ∅ s) (hst : s.station = .feedDown) : CuesHold n p X ∅ s.leaveFeedDown :=
  (((h.frame (t := { s with station := .running }) (by rw [hst]; rfl)).resumeSweep entryFault).feedCauseEnds
    entryFault).runningWork.told (State.stationHandOff_told _)

/-! ## The expiries of an entry's timers -/

theorem expiry (h : CuesHold n p X T s) (mic : Nat) (timer : Entry → Timer) {act : Entry → State → State}
    (hact : ∀ e, s.entry? mic = some e → (timer e).isDue s.now = true → CuesHold n p X T (act e s)) :
    CuesHold n p X T (s.expiry mic timer act) := by
  rcases State.expiry_cases mic timer act s with hx | ⟨e, he, -, -, hx⟩ | ⟨e, he, hd, -, hx⟩ <;> rw [hx]
  · exact h
  · exact (entryFault T mic s (by simp [he]) h).1
  · exact hact e he hd

theorem lossExpiry (h : CuesHold n p X T s) (mic : Nat) : CuesHold n p X T (s.lossExpiry mic) :=
  h.expiry mic _ fun e _ _ => by
    split
    · exact h.becomeSilent mic
    · exact h.becomeCovered mic

theorem forgetExpiry (h : CuesHold n p X T s) (mic : Nat) : CuesHold n p X T (s.forgetExpiry mic) :=
  h.expiry mic _ fun e _ _ => by
    split
    · exact h.dropped mic
    · exact h.modOther mic (by exact fun _ => rfl)

theorem lostForgetExpiry (h : CuesHold n p X T s) (mic : Nat) : CuesHold n p X T (s.lostForgetExpiry mic) :=
  h.expiry mic _ fun e _ _ => by
    split
    · exact h.dropped mic
    · exact h.modOther mic (by exact fun _ => rfl)

theorem epochExpiry (h : CuesHold n p X T s) (mic : Nat) : CuesHold n p X T (s.epochExpiry mic) :=
  h.expiry mic _ fun e _ _ => by
    split
    · exact h.modOther mic (by exact fun _ => rfl)
    · exact (h.modOther mic (by exact fun _ => rfl)).giveInput mic _

theorem staleExpiry (h : CuesHold n p X T s) (mic : Nat) : CuesHold n p X T (s.staleExpiry mic) :=
  h.expiry mic _ fun _ _ _ => (h.modOther mic (by exact fun _ => rfl)).giveInput mic _

/-- A change of level ends in a selection, or with its entry (R80, R29). -/
theorem levelHandOff (h : CuesHold n p (insert mic X) T s) (k : Kind) : CuesHold n p X T (s.levelHandOff mic k) := by
  rcases State.levelHandOff_cases mic k s with ⟨hn, hl⟩ | ⟨e, -, ⟨-, -, hl⟩ | ⟨-, hl⟩⟩ <;> rw [hl]
  · exact (h.owing mic).absent hn
  · exact (((h.dropEntry mic).owing mic).absent (by simp)).removeEntry entryFault
  · refine (CuesHold.selectCue (CuesHold.owing ?_ mic)).told (State.selectLamp_told _ _)
    split
    · exact h.updateLost entryFault
    · exact h

theorem persistenceExpiry (h : CuesHold n p X T s) (mic : Nat) (k : Kind) : CuesHold n p X T (s.persistenceExpiry mic k) :=
  h.expiry mic _ fun e _ _ => by
    have moved : ∀ f reason, CuesHold n p X T (((s.modRecord mic k f).announce mic k reason).levelHandOff mic k) :=
      fun f reason => ((h.excuse mic (by exact fun e => by cases k <;> rfl)).told
        (State.announce_told mic k reason _)).levelHandOff k
    unfold State.persistenceEnds
    split
    · exact moved ..
    · exact moved ..
    · exact moved ..
    · exact h
    · exact h

theorem repeatExpiry (h : CuesHold n p X T s) (mic : Nat) (k : Kind) : CuesHold n p X T (s.repeatExpiry mic k) :=
  h.expiry mic _ fun _ _ _ => (h.told (State.requestWarn_told mic k _ s)).modRecord mic k (by exact fun _ => rfl)

theorem claimExpires (h : CuesHold n p X T s) (mic station : Nat) : CuesHold n p X T (s.claimExpires mic station) :=
  h.expiry mic _ fun _ _ _ => h.removeClaim mic station

theorem pendingExpiry (h : CuesHold n p X T s) (mic : Nat) : CuesHold n p X T (s.pendingExpiry mic) :=
  h.expiry mic _ fun e _ _ => by
    have stopped := h.modOther mic (f := fun e => { e with pendingTimer := .stopped }) fun _ => rfl
    dsimp only
    split
    · exact stopped.decideRole mic _
    · exact stopped

theorem takeoverExpiry (h : CuesHold n p X T s) (mic : Nat) : CuesHold n p X T (s.takeoverExpiry mic) :=
  h.expiry mic _ fun e _ _ => by
    have stopped := h.modOther mic (f := fun e => { e with takeover := .stopped }) fun _ => rfl
    dsimp only
    split
    · exact stopped
    · exact ((stopped.excusing mic).owing mic).gainReporter

/-- A due refresh timer is that of a pattern that is not 0, so it may be reloaded (R162). -/
theorem refreshExpiry (h : CuesHold n p X T s) (mic : Nat) : CuesHold n p X T (s.refreshExpiry mic) :=
  h.expiry mic _ fun e he hd => by
    have lit : e.cue ≠ 0 := (h.entries e (State.entry?_some he).1).refresh.mp (Timer.isRunning_of_isDue hd)
    have offered := State.offerCue_told ⟨mic, e.cue⟩ s
    refine (h.told offered).modEntry (by exact fun _ => rfl) (fun _ _ => id) (fun _ _ => id) fun x hx hc => ?_
    have hview := offered.entry?_untold mic
    rw [hx, he] at hview
    have hcue : x.cue = e.cue := show x.untold.cue = e.untold.cue from congrArg _ (Option.some.inj hview)
    exact ⟨⟨fun _ => hcue ▸ lit, fun _ => rfl⟩, hc.dark, hc.fits⟩

/-! ## The station's timers -/

theorem zoneRepeatExpiry (h : CuesHold n p X T s) : CuesHold n p X T s.zoneRepeatExpiry := by
  unfold State.zoneRepeatExpiry
  split
  · exact (h.told (State.requestStation_told false s)).frame rfl
  · exact h

theorem stationRepeatExpiry (h : CuesHold n p X T s) : CuesHold n p X T s.stationRepeatExpiry := by
  unfold State.stationRepeatExpiry
  split
  · exact (h.told (State.requestStation_told false s)).frame rfl
  · exact h

theorem floorSweep (h : CuesHold n p X T s) : CuesHold n p X T s.floorSweep :=
  h.sweep entryFault fun mic _ hs => (hs.modOther mic (by exact fun _ => rfl)).giveInput mic _

theorem floorExpiry (h : CuesHold n p X T s) : CuesHold n p X T s.floorExpiry := by
  unfold State.floorExpiry
  split
  · exact (h.frame (t := { s with floor := .stale, floorTimer := .stopped }) rfl).floorSweep
  · exact h

theorem absenceExpiry (h : CuesHold n p X T s) (station : Nat) : CuesHold n p X T (s.absenceExpiry station) := by
  unfold State.absenceExpiry
  split
  · exact (h.frame (t := { s with roster := s.roster.set station .absent }) rfl).sweep entryFault fun mic _ hs =>
      hs.removeClaim mic station
  · exact h

theorem visit {r : Round} (h : CuesHold n p X T r.state) (mic : Nat) : CuesHold n p X T (r.visit mic).state := by
  unfold Round.visit
  split
  · exact h
  · rename_i e he
    split
    · exact (entryFault T mic _ (by simp [he]) h).1
    · split
      · exact h
      · split
        · exact h
        · exact h.told (State.requestFrame_told _ _)

theorem makeRound (h : CuesHold n p X T s) : CuesHold n p X T s.makeRound := by
  have visits : ∀ (mics : List Nat) (r : Round), CuesHold n p X T r.state →
      CuesHold n p X T (mics.foldl Round.visit r).state := by
    intro mics
    induction mics with
    | nil => exact fun _ hr => hr
    | cons mic rest ih => exact fun r hr => ih _ (hr.visit mic)
  unfold State.makeRound
  extract_lets fresh visited
  have hvisited : CuesHold n p X T visited.state := visits _ ⟨fresh, []⟩ (h.frame rfl)
  split
  · exact hvisited
  · exact hvisited.told (State.requestFrame_told _ _)

theorem claimRoundExpiry (h : CuesHold n p X T s) : CuesHold n p X T s.claimRoundExpiry := by
  unfold State.claimRoundExpiry
  dsimp only
  split
  · split
    · exact h.makeRound.frame rfl
    · exact h.makeRound
  · exact h

/-! ## The frames taken -/

/-- A dispatch keeps the cues when the work of every frame does. -/
theorem dispatch (h : CuesHold n p X T s) {act : Nat → RxBody → Option (State → State)}
    (hact : ∀ source body work, act source body = some work → ∀ u, CuesHold n p X T u → CuesHold n p X T (work u)) :
    CuesHold n p X T (s.dispatch act) := by
  unfold State.dispatch
  split
  · rename_i f rest _ _
    split
    · exact (hact _ _ _ ‹_› _ (h.frame (t := { s with rx := rest, inDispatch := some f }) rfl)).frame rfl
    · exact h
  · exact h

theorem takeClaims (h : CuesHold n p X T s) (source : Nat) (pairs : List Pair) : CuesHold n p X T (s.takeClaims source pairs) := by
  unfold State.takeClaims
  induction pairs generalizing s with
  | nil => exact h
  | cons pair rest ih =>
    rw [List.foldl_cons]
    refine ih ?_
    unfold State.takeClaim
    split
    · exact h
    · exact h.verified entryFault pair.mic fun _ _ => h.enterClaimFor pair.mic _

theorem ackHandOff (h : CuesHold n p X T s) (mic : Nat) (k : Kind) : CuesHold n p X T (s.ackHandOff mic k) := by
  unfold State.ackHandOff
  split
  · exact h
  · split
    · exact h.dropped mic
    · exact h.told (State.selectLamp_told _ s)

theorem acknowledge (h : CuesHold n p X T s) (mic : Nat) (k : Kind) (l : Level) (e : Entry) :
    CuesHold n p X T (s.acknowledge mic k l e) := by
  unfold State.acknowledge
  split
  · exact ((h.modRecord mic k (by exact fun _ => rfl)).told (State.ackQueued_told mic k l _)).ackHandOff mic k
  · exact h.frame rfl

theorem absorbWarn (h : CuesHold n p X T s) (w : Warn) (e : Entry) : CuesHold n p X T (s.absorbWarn w e) := by
  have told : CuesHold n p X T (s.modRecord w.mic w.kind (Record.absorb w)) :=
    h.modRecord w.mic w.kind fun r => by unfold Record.absorb; dsimp only; split <;> rfl
  unfold State.absorbWarn
  dsimp only
  split
  · exact (told.told (State.ackQueued_told w.mic w.kind w.level _)).ackHandOff ..
  · exact told

theorem applyWarn (h : CuesHold n p X T s) (source : Nat) (w : Warn) (e : Entry) : CuesHold n p X T (s.applyWarn source w e) := by
  have claimed : CuesHold n p X T ((s.absorbWarn w e).warnClaim source w) := by
    unfold State.warnClaim
    split
    · exact (h.absorbWarn w e).enterClaimFor ..
    · exact h.absorbWarn w e
  have yielded : CuesHold n p X T (((s.absorbWarn w e).warnClaim source w).yieldTo source w) := by
    unfold State.yieldTo
    split
    · exact claimed
    · split
      · exact ((claimed.excusing w.mic).owing w.mic).loseReporter.modOther w.mic (by exact fun _ => rfl)
      · exact claimed
  unfold State.applyWarn State.cancelTakeover
  split
  · exact yielded
  · split
    · exact yielded.modOther w.mic (by exact fun _ => rfl)
    · exact yielded

theorem answerEntry (h : CuesHold n p X T s) (mic : Nat) : CuesHold n p X T (s.answerEntry mic) := by
  unfold State.answerEntry
  split
  · exact h.told (State.requestFrame_told _ s)
  · rename_i e he
    split
    · exact h.told (State.requestFrame_told _ s)
    · exact (entryFault T mic s (by simp [he]) h).1.told (State.requestFrame_told _ _)

theorem claimTaken (h : CuesHold n p X T s) : CuesHold n p X T (s.dispatch claimWork) :=
  h.dispatch fun source body work hw u hu => by
    cases body <;> cases hw
    exact hu.takeClaims source _

theorem ackTaken (h : CuesHold n p X T s) : CuesHold n p X T (s.dispatch ackWork) :=
  h.dispatch fun _ body work hw u hu => by
    cases body <;> cases hw
    exact hu.verified entryFault _ fun e _ => hu.acknowledge _ _ _ e

theorem warnTaken (h : CuesHold n p X T s) : CuesHold n p X T (s.dispatch warnWork) :=
  h.dispatch fun source body work hw u hu => by
    cases body <;> cases hw
    exact hu.verified entryFault _ fun e _ => hu.applyWarn source _ e

theorem floorTaken (h : CuesHold n p X T s) : CuesHold n p X T (s.dispatch floorWork) :=
  h.dispatch fun _ body work hw u hu => by
    cases body <;> cases hw
    rename_i mics
    exact (hu.frame (t := { u with floorSet := floorSetOf mics, floor := .fresh, floorTimer := u.after u.params.floorMs })
      rfl).floorSweep

theorem entryQuery (h : CuesHold n p X T s) : CuesHold n p X T (s.dispatch entryQueryWork) :=
  h.dispatch fun _ body work hw u hu => by
    unfold entryQueryWork at hw
    split at hw <;> cases hw
    dsimp only
    split
    · exact hu.answerEntry _
    · exact hu

theorem statsQuery (h : CuesHold n p X T s) : CuesHold n p X T (s.dispatch statsQueryWork) :=
  h.dispatch fun _ body work hw u hu => by
    unfold statsQueryWork at hw
    split at hw <;> cases hw
    dsimp only
    split
    · exact hu.told (State.requestFrame_told _ u)
    · exact hu

theorem peerReportTaken (h : CuesHold n p X T s) : CuesHold n p X T (s.dispatch reportWork) :=
  h.dispatch fun _ body work hw u hu => by
    cases body <;> cases hw
    exact hu

/-- A sitting restart empties the table (R187). -/
theorem restart (h : CuesHold n p X T s) : CuesHold n p X T (s.dispatch restartWork) :=
  h.dispatch fun _ body work hw u hu => by
    cases body <;> cases hw
    have hempty : ∀ v : State, v.table = [] → v.inProcessing = p → CuesHold n p X T v := fun v hv hp =>
      ⟨by simp [hv], by simp [State.mics, hv], hp, by simp [hv]⟩
    have rejoined : CuesHold n p X T u.cleared.rejoin := by
      unfold State.rejoin
      split
      · exact (hempty u.cleared rfl hu.processing).told (State.requestStation_told false _)
      · exact hempty _ rfl hu.processing
    exact (rejoined.told (State.selectLamp_told _ _)).told (State.evaluateAttn_told _)

/-! ## The feed, the line and JOINING -/

theorem feedReturn (h : CuesHold n p X ∅ s) : CuesHold n p X ∅ s.feedReturn := by
  unfold State.feedReturn
  extract_lets live marked queued
  have hmarked : CuesHold n p X ∅ marked :=
    (h.frame (t := live) rfl).sweep entryFault fun mic _ hs => hs.modOther mic (by exact fun _ => rfl)
  have hqueued : CuesHold n p X ∅ queued := hmarked.frame rfl
  split
  · exact hqueued.leaveFeedDown ‹_›
  · exact hqueued

theorem recordDone (h : CuesHold n p X ∅ s) (bits : List Bool) : CuesHold n p X ∅ (s.recordDone bits) := by
  have offered : ∀ (u : State) (g : Sighting), CuesHold n p X ∅ u → CuesHold n p X ∅ (u.offerSighting g) := fun u g hu => by
    unfold State.offerSighting
    split <;> exact hu.frame rfl
  have accepted : ∀ (u : State) (b : List Bool), CuesHold n p X ∅ u → CuesHold n p X ∅ (u.acceptRecord b) := by
    intro u b hu
    unfold State.acceptRecord
    dsimp only
    split
    · exact offered _ _ (hu.frame (t := u.count .feedAccepted) rfl).feedReturn
    · exact offered _ _ (hu.frame rfl)
  unfold State.recordDone
  dsimp only
  split
  · exact h.frame rfl
  · split
    · unfold State.validateRecord
      split
      · exact h.frame rfl
      · exact h.frame rfl
      · exact h.frame rfl
      · exact accepted _ _ (h.frame rfl)
    · exact h
    · exact h.frame rfl

theorem feedSilence (h : CuesHold n p X T s) : CuesHold n p X T s.feedSilence := by
  unfold State.feedSilence
  dsimp only
  split
  · split
    · exact (h.frame (t := { s with feed := .silent, feedTimer := .stopped }) rfl).enterFeedDown_running ‹_›
    · exact h.frame rfl
  · exact h

theorem joiningEnds (h : CuesHold n p X ∅ s) : CuesHold n p X ∅ s.joiningEnds := by
  have stopped : CuesHold n p X ∅ { s with joining := .stopped } := h.frame rfl
  unfold State.joiningEnds
  split
  · split
    · exact stopped.enterRunning
    · exact stopped.enterFeedDown_joining
  · exact h

theorem dropReturning (h : CuesHold n p X T s) (f : Frame) : CuesHold n p X T (s.dropReturning f) :=
  (h.told (State.count_framesDropped_told s)).told (State.discardFrame_told f _)

theorem recheck (h : CuesHold n p X T s) (f : TxFrame) : CuesHold n p X T (s.recheck f) := by
  rcases State.recheck_cases f s with hr | ⟨-, hr⟩ | ⟨-, -, -, hr⟩ | ⟨-, -, v, rest, -, hr⟩ <;> rw [hr]
  · exact h.dropReturning _
  · exact h
  · exact h.frame rfl
  · exact (h.frame (t := State.count .framesDropped (State.placeHead f { s with tx := rest })) rfl).told
      (State.discardFrame_told _ _)

theorem collide (h : CuesHold n p X T s) : CuesHold n p X T s.collide := by
  unfold State.collide
  split
  · have freed : CuesHold n p X T (({ s with access := .busy, inFlight := none }).count .collisions) := h.frame rfl
    unfold State.handBack
    split
    · exact freed.dropReturning _
    · exact freed.recheck _
  · exact h

theorem duplicateNumber (h : CuesHold n p X ∅ s) : CuesHold n p X ∅ s.duplicateNumber := by
  have entered := (h.frame (t := { s with fault := some .duplicateId }) rfl).enterListenOnly entryFault
  unfold State.duplicateNumber
  split
  · exact h
  · exact h
  · exact entered
  · exact entered
  · exact entered

theorem acceptFrame (h : CuesHold n p X T s) (source : Nat) (body : Option RxBody) :
    CuesHold n p X T (s.acceptFrame source body) := by
  unfold State.acceptFrame State.offerRx
  split
  · split
    · split <;> exact h.frame rfl
    · exact h.frame rfl
  · exact h.frame rfl

theorem frameDone (h : CuesHold n p X ∅ s) (bits : List Bool) (gap : Nat) (headMissed : Bool) :
    CuesHold n p X ∅ (s.frameDone bits gap headMissed) := by
  unfold State.frameDone
  split
  · exact h
  · split
    · exact h.frame rfl
    · dsimp only
      unfold State.receive
      extract_lets cleared
      have hcleared : CuesHold n p X ∅ cleared := h.frame rfl
      split
      · exact hcleared.frame rfl
      · split
        · exact hcleared.duplicateNumber
        · exact (hcleared.frame (t := cleared.refreshRoster _) rfl).acceptFrame ..

end CuesHold

end Sys2Proof.Machine
end

section
/-! The cues through sightings and the load, through every command and every step (R160 to R162). -/

namespace Sys2Proof.Machine

/-! ## The law and the entries it excuses -/

/-- The microphones whose cue selection is still to come in the processing `p` (step 8 of 00_scope.md section 2.2). -/
def Processing.excused (p : Option Processing) : Set Nat := {mic | ∃ q, p = some q ∧ q.sighting.mic = mic ∧ q.done < 8}

theorem State.awaitsCue_iff {s : State} {mic : Nat} : s.awaitsCue mic ↔ mic ∈ Processing.excused s.inProcessing := .rfl

/-- What the law of the cues says of a lawful table. -/
theorem CueLaw.holds {s : State} (h : CueLaw s) (hT : TableLaw s) :
    CuesHold s.table.length s.inProcessing (Processing.excused s.inProcessing) ∅ s :=
  ⟨le_rfl, hT.nodup, rfl, fun e he =>
    have fits : e.mic ∉ Processing.excused s.inProcessing → e.CueFits s.station := (h e he).1
    ⟨(h e he).2, fun hx => (fits hx).dark, fun hx _ => fits hx⟩⟩

namespace CuesHold

variable {n : Nat} {p : Option Processing} {X T : Set Nat} {s t : State}

/-- The law of the cues, where every entry excused is one that awaits its selection. -/
theorem cueLaw (h : CuesHold n p X ∅ s) (hX : ∀ e ∈ s.table, e.mic ∈ X → s.awaitsCue e.mic) : CueLaw s := fun e he =>
  ⟨fun hw => (h.entries e he).fits (fun hx => hw (hX e he hx)) (Set.notMem_empty _), (h.entries e he).refresh⟩

theorem cueLaw_processing (h : CuesHold n p (Processing.excused p) ∅ s) : CueLaw s :=
  h.cueLaw fun _ _ hx => State.awaitsCue_iff.mpr (h.processing ▸ hx)

/-! ## Sightings (R19 to R21, R33) -/

/-- Every step of a processing keeps the rules. -/
theorem workOn (h : CuesHold n p X T s) (q : Processing) (k : Nat) : CuesHold n p X T (s.workOn q k) := by
  unfold State.workOn
  split
  · exact h
  · unfold State.processStep
    split
    · exact h.modOther _ fun _ => rfl
    · exact h.modOther _ fun e => by rw [Entry.sample_eq]; rfl
    · exact h.modOther _ fun e => by rw [Entry.muteStep_eq]; rfl
    · exact ((h.modOther _ (by exact fun _ => rfl)).giveInputs _).updateLost entryFault
    · exact h.computeRole _
    · exact h.reselectCue _
    · exact h.told (State.selectWarningLamps_told s)
    · exact h

theorem workThrough (h : CuesHold n p X T s) (q : Processing) (first count : Nat) :
    CuesHold n p X T (s.workThrough q first count) := by
  induction count generalizing first s with
  | zero => exact h
  | succ k ih => exact ih (h.workOn q first) _

/-- Step 8 settles the entry of the sighting (R161). -/
theorem workOn_eight {q : Processing} (h : CuesHold n p (insert q.sighting.mic X) T s) : CuesHold n p X T (s.workOn q 8) := by
  have owing := h.owing q.sighting.mic
  unfold State.workOn
  split
  · exact owing.absent ‹_›
  · exact owing.selectCue

/-- Steps that go on from before the selection to it or past it. -/
theorem workThrough_eight {q : Processing} (h : CuesHold n p (insert q.sighting.mic X) T s) {done : Nat} (hq : q.done < 8)
    (hdone : 8 ≤ done) : CuesHold n p X T (s.workThrough q (q.done + 1) (done - q.done)) := by
  have hsteps : done - q.done = (7 - q.done) + ((done - 8) + 1) := by omega
  have height : q.done + 1 + (7 - q.done) = 8 := by omega
  rw [hsteps, State.workThrough_add, height]
  exact (h.workThrough q _ _).workOn_eight.workThrough q _ _

/-- A processing goes on: its entry is excused until the selection is done. -/
theorem proceed {q : Processing} (h : CuesHold n p (insert q.sighting.mic ∅) ∅ s) (hq : 8 ≤ q.done → CuesHold n p ∅ ∅ s)
    (through : Nat) : CueLaw (s.proceed through q) := by
  generalize hdone : max q.done (min through lastStep) = done
  generalize hworked : s.workThrough q (q.done + 1) (done - q.done) = worked
  rw [State.proceed_eq hdone hworked]
  by_cases hlate : 8 ≤ done
  · have settled : CuesHold n p ∅ ∅ worked := by
      rw [← hworked]
      by_cases hearly : q.done < 8
      · exact h.workThrough_eight hearly hlate
      · exact (hq (by omega)).workThrough q _ _
    exact fun e he => ⟨fun _ => (settled.entries e he).fits (Set.notMem_empty _) (Set.notMem_empty _),
      (settled.entries e he).refresh⟩
  · have excused : CuesHold n p (insert q.sighting.mic ∅) ∅ worked := hworked ▸ h.workThrough q _ _
    intro e he
    refine ⟨fun hw => (excused.entries e he).fits (fun hx => hw ?_) (Set.notMem_empty _), (excused.entries e he).refresh⟩
    have hmic : e.mic = q.sighting.mic := hx.resolve_right (Set.notMem_empty _)
    have hgoes : ¬(lastStep ≤ done ∨ worked.entry? q.sighting.mic = none) := by
      rintro (hlast | hgone)
      · exact hlate (le_trans (by decide) hlast)
      · exact State.entry?_none.mp hgone e he hmic
    exact ⟨{ q with done := done }, if_neg hgoes, hmic.symm, Nat.lt_of_not_le hlate⟩

/-- A new entry holds pattern 0, and is not reported (R20, R160). -/
theorem addEntry (h : CuesHold n p ∅ ∅ s) {g : Sighting} (hn : s.entry? g.mic = none) (through : Nat) :
    CueLaw (s.addEntry through g) := by
  have added : CuesHold (n + 1) p ∅ ∅ { s with table := insertEntry (s.newEntry g) s.table } := by
    refine ⟨(length_insertEntry ..).trans_le (Nat.succ_le_succ h.size), ?_, h.processing, fun e he => ?_⟩
    · have hperm := ((insertEntry_perm (s.newEntry g) s.table).map Entry.mic).nodup_iff
      refine hperm.mpr (List.nodup_cons.mpr ⟨fun hmem => ?_, h.distinct⟩)
      obtain ⟨x, hx, hxm⟩ := List.mem_map.mp hmem
      exact State.entry?_none.mp hn x hx hxm
    · rcases mem_insertEntry.mp he with rfl | he
      · have hrole : (s.newEntry g).role ≠ .reporter := by
          unfold State.newEntry
          dsimp only
          split <;> decide
        exact .of_fits (by simp [Entry.RefreshRight, State.newEntry, Timer.isRunning]) (Entry.cueFits_of_dark hrole rfl)
      · exact h.entries e he
  exact proceed (q := ⟨g, true, 1⟩) (added.excusing g.mic) (fun h8 => absurd (show 8 ≤ 1 from h8) (by decide)) through

theorem admitOrEvict (h : CuesHold n p ∅ ∅ s) {g : Sighting} (hn : s.entry? g.mic = none) (through : Nat) :
    CueLaw (s.admitOrEvict through g) := by
  unfold State.admitOrEvict
  split
  · exact h.addEntry hn through
  · unfold State.evictFor
    split
    · rename_i bad hbad
      have hthere : s.entry? bad.mic ≠ none := fun hnone =>
        State.entry?_none.mp hnone bad (List.mem_of_find?_eq_some hbad) rfl
      exact (entryFault ∅ bad.mic s hthere h).1.addEntry (((State.Follows.refl Entry.place s).entryFault _).gone hn) through
    · split
      · exact (h.dropped _).addEntry ((State.removeEntry_follows _ s).gone hn) through
      · exact (h.frame (t := s.count .tableFull) rfl).cueLaw fun _ _ hx => absurd hx (Set.notMem_empty _)

/-- A sighting taken for its entry excuses it, until step 8 (R19). -/
theorem sight (h : CuesHold n p ∅ ∅ s) (through : Nat) (g : Sighting) : CueLaw (s.sight through g) := by
  unfold State.sight
  split
  · rename_i e he
    split
    · have heard := h.excuse g.mic (f := s.heard) (by exact fun _ => rfl)
      exact proceed (q := ⟨g, false, 1⟩) heard (fun h8 => absurd (show 8 ≤ 1 from h8) (by decide)) through
    · obtain ⟨faulted, hgone⟩ := entryFault ∅ g.mic s (by simp [he]) h
      exact faulted.admitOrEvict hgone through
  · exact h.admitOrEvict ‹_› through

/-- With no processing under way no entry awaits its selection: that of an ended processing has gone (R33). -/
theorem idle (h : CuesHold n p (Processing.excused p) ∅ s) (hu : s.underway = none) : CuesHold n p ∅ ∅ s := by
  refine ⟨h.size, h.distinct, h.processing, fun e he => ?_⟩
  have hfree : e.mic ∉ Processing.excused p := by
    rintro ⟨q, hq, hmic, -⟩
    rw [State.underway, h.processing, hq] at hu
    have hthere : s.entry? q.sighting.mic ≠ none := fun hnone => State.entry?_none.mp hnone e he hmic.symm
    simp [hthere] at hu
  obtain ⟨refresh, dark, fits⟩ := h.entries e he
  exact ⟨refresh, fun _ => dark hfree, fun _ => fits hfree⟩

theorem takeSighting (h : CuesHold n p (Processing.excused p) ∅ s) (through : Nat) : CueLaw (s.takeSighting through) := by
  unfold State.takeSighting
  split
  · rename_i q hq
    obtain ⟨hq, -⟩ := State.underway_some hq
    obtain rfl : p = some q := h.processing.symm.trans hq
    refine proceed (h.mono ?_ subset_rfl) (fun hlate => h.mono ?_ subset_rfl) through
    · rintro mic ⟨r, hr, hmic, -⟩
      cases hr
      exact .inl hmic.symm
    · rintro mic ⟨r, hr, -, hearly⟩
      cases hr
      omega
  · rename_i hu
    have free := h.idle hu
    split
    · rename_i g rest _
      have taken : CuesHold n none ∅ ∅ { s with intake := rest, inProcessing := none } :=
        ⟨free.size, free.distinct, rfl, free.entries⟩
      exact taken.sight through g
    · exact h.cueLaw_processing

end CuesHold

/-! ## The load (R175, R183, R184) -/

theorem cueLaw_of_empty {s : State} (h : s.table = []) : CueLaw s := by simp [CueLaw, h]

/-- While the load is under way the table is empty, and its end leaves it so. -/
theorem State.Follows.cueLaw_starting {s t : State} (h : s.Follows Entry.place t) (hS : StartingLaw s) (hl : s.load ≠ .done) :
    CueLaw t := by
  have hempty : s.table = [] := hS.table (not_not.mp fun hst => hl (hS.loaded.mpr hst))
  refine cueLaw_of_empty (List.eq_nil_iff_forall_not_mem.mpr fun e he => ?_)
  obtain ⟨x, hx, -⟩ := h.entries e he
  simp [hempty] at hx

theorem CueLaw.areaRead {s : State} (h : CueLaw s) (hS : StartingLaw s) (answer : Option (List Byte)) :
    CueLaw (s.areaRead answer) := by
  by_cases hl : s.load = .done
  · simpa [State.areaRead, hl] using h
  · exact ((State.Follows.refl _ s).areaRead answer).cueLaw_starting hS hl

theorem CueLaw.areaTimeout {s : State} (h : CueLaw s) (hS : StartingLaw s) : CueLaw s.areaTimeout := by
  by_cases hl : s.load = .done
  · simpa [State.areaTimeout, hl] using h
  · exact (State.Follows.refl _ s).areaTimeout.cueLaw_starting hS hl

/-! ## Commands and steps -/

/-- Every command keeps the law of the cues. -/
theorem exec_keeps_cueLaw {s t : State} {i : Instr} (hT : TableLaw s) (hS : StartingLaw s) (hC : CueLaw s)
    (hx : exec i s = .next t) : CueLaw t := by
  have h := hC.holds hT
  have same : ∀ u : State, (u.table, u.inProcessing, u.station.cues) = (s.table, s.inProcessing, s.station.cues) → CueLaw u :=
    fun u hu => (h.frame hu).cueLaw_processing
  cases i with
  | start cause => cases hx; exact cueLaw_of_empty rfl
  | loadBegin straps => cases hx; exact same _ (by unfold State.beginLoad; split <;> rfl)
  | areaReadComplete answer => cases hx; exact hC.areaRead hS answer
  | areaReadTimeout => cases hx; exact hC.areaTimeout hS
  | strobeAsserted => cases hx; exact same _ rfl
  | recordCompletion bits => cases hx; exact (h.recordDone bits).cueLaw_processing
  | feedSilenceExpiry => cases hx; exact h.feedSilence.cueLaw_processing
  | sightingTaken through => cases hx; exact h.takeSighting through
  | lossTimerExpiry mic => cases hx; exact (h.lossExpiry mic).cueLaw_processing
  | forgetTimerExpiry mic => cases hx; exact (h.forgetExpiry mic).cueLaw_processing
  | lostForgetExpiry mic => cases hx; exact (h.lostForgetExpiry mic).cueLaw_processing
  | epochTimerExpiry mic => cases hx; exact (h.epochExpiry mic).cueLaw_processing
  | staleTimerExpiry mic => cases hx; exact (h.staleExpiry mic).cueLaw_processing
  | persistenceTimerExpiry mic kind => cases hx; exact (h.persistenceExpiry mic kind).cueLaw_processing
  | repeatTimerExpiry mic kind => cases hx; exact (h.repeatExpiry mic kind).cueLaw_processing
  | zoneRepeatTimerExpiry => cases hx; exact h.zoneRepeatExpiry.cueLaw_processing
  | stationRepeatTimerExpiry => cases hx; exact h.stationRepeatExpiry.cueLaw_processing
  | floorTimerExpiry => cases hx; exact h.floorExpiry.cueLaw_processing
  | absenceTimerExpiry station => cases hx; exact (h.absenceExpiry station).cueLaw_processing
  | claimExpiry mic station => cases hx; exact (h.claimExpires mic station).cueLaw_processing
  | pendingTimerExpiry mic => cases hx; exact (h.pendingExpiry mic).cueLaw_processing
  | takeoverTimerExpiry mic => cases hx; exact (h.takeoverExpiry mic).cueLaw_processing
  | claimRoundTimerExpiry => cases hx; exact h.claimRoundExpiry.cueLaw_processing
  | cueRefreshExpiry mic => cases hx; exact (h.refreshExpiry mic).cueLaw_processing
  | cueTransferStart crdy =>
    cases hx
    refine same _ ?_
    unfold State.startTransfer
    split
    · split <;> rfl
    · rfl
  | cueTransferComplete => cases hx; exact same _ (by unfold State.endTransfer; split <;> rfl)
  | phaseTimerExpiry lamp => cases hx; exact same _ (by unfold State.phaseExpiry; split <;> simp)
  | joiningTimerExpiry => cases hx; exact h.joiningEnds.cueLaw_processing
  | integrityWindowExpiry => cases hx; exact same _ (by unfold State.windowEnds; split <;> rfl)
  | lineIdle => cases hx; exact same _ (by unfold State.lineQuiet; split <;> rfl)
  | lineActivity =>
    cases hx
    refine same _ ?_
    unfold State.lineStart
    dsimp only
    repeat' split
    all_goals rfl
  | slotBoundary =>
    cases hx
    refine same _ ?_
    unfold State.slotEnds
    repeat' split
    all_goals rfl
  | frameSent => cases hx; exact same _ (by unfold State.sendDone; split <;> rfl)
  | collision => cases hx; exact h.collide.cueLaw_processing
  | frameCompletion bits gap headMissed => cases hx; exact (h.frameDone bits gap headMissed).cueLaw_processing
  | claimTaken => cases hx; exact h.claimTaken.cueLaw_processing
  | warnTaken => cases hx; exact h.warnTaken.cueLaw_processing
  | floorTaken => cases hx; exact h.floorTaken.cueLaw_processing
  | ackTaken => cases hx; exact h.ackTaken.cueLaw_processing
  | entryQuery => cases hx; exact h.entryQuery.cueLaw_processing
  | statsQuery => cases hx; exact h.statsQuery.cueLaw_processing
  | restart => cases hx; exact h.restart.cueLaw_processing
  | peerReportTaken => cases hx; exact h.peerReportTaken.cueLaw_processing

theorem step_keeps_cueLaw {s t : State} (hT : TableLaw s) (hS : StartingLaw s) (hC : CueLaw s) (hstep : step s = .next t) :
    CueLaw t := by
  rcases step_cases hstep with ⟨c, rest, -, hx⟩ | ⟨-, p, -, hx⟩ | ⟨-, -, rfl⟩
  · exact exec_keeps_cueLaw (s := { s with pending := rest }) ⟨hT.ascending, hT.atMost96, hT.seats, hT.queuedSeats⟩
      ⟨hS.loaded, hS.table, hS.intake, hS.line, hS.zone⟩ hC hx
  · exact exec_keeps_cueLaw hT hS hC hx
  · exact hC

/-! ## The tables of R160 -/

/-- When an entry is cued (R160). -/
theorem cued_iff (st : StationState) (e : Entry) :
    cued st e = true ↔ e.presence = .heard ∧ e.role = .reporter ∧ (st = .running ∨ st = .feedDown) := by
  have hcues : st.cues = true ↔ st = .running ∨ st = .feedDown := by cases st <;> simp [StationState.cues]
  simp only [cued, Bool.and_eq_true, decide_eq_true_eq, hcues, and_assoc]

/-- The rows of the table of patterns (R160). -/
theorem cuePattern_rows (e : Entry) : let battery := e.recBattery.level; let mute := e.recMute.level
    (battery = .higher → cuePattern e = 2) ∧ (battery ≠ .higher → mute = .higher → cuePattern e = 4) ∧
    (battery ≠ .higher → mute = .lower → cuePattern e = 3) ∧ (battery = .lower → mute = .none → cuePattern e = 1) ∧
    (battery = .none → mute = .none → cuePattern e = 0) := by
  refine ⟨fun hb => if_pos hb, fun hb hm => ?_, fun hb hm => ?_, fun hb hm => ?_, fun hb hm => ?_⟩ <;> simp [cuePattern, hb, hm]

/-- Settles O60: every operation keeps the rules of the cues of all entries but those it has still to select, and it ends with
every selection made but that of a sighting in processing; the tables of R160 row by row. -/
theorem stepKeepsTheCues : Obligations.StepKeepsTheCues := by
  unfold Obligations.StepKeepsTheCues
  exact ⟨fun _ _ => step_keeps_cueLaw, cued_iff, cuePattern_rows⟩

end Sys2Proof.Machine
end

section
/-! The cue commands, and the cue word with its pins (R162 to R164, R190, section 12.1). -/

namespace Sys2Proof.Machine

/-! ## CUE_REFRESH_EXPIRY (R162, R163) -/

section
variable {s : State} {mic : Nat} {e : Entry}

/-- The refresh timer of the entry of `mic` loaded and started. -/
def State.refreshed (mic : Nat) (s : State) : State :=
  { s with table := s.table.map fun x => if x.mic = mic then
      { x with cueRefresh := .running (s.now + s.params.cueRefresh * 1000) } else x }

/-- A due expiry offers the cue and reloads the timer, whatever became of the offer. -/
theorem State.refreshExpiry_due (hS : SoundLaw s) (he : s.entry? mic = some e) (hd : e.cueRefresh.isDue s.now = true) :
    s.refreshExpiry mic = (s.refreshed mic).offerCue ⟨mic, e.cue⟩ := by
  have hoffered : SoundLaw (s.offerCue ⟨mic, e.cue⟩) := (State.offerCue_told _ s).sound hS
  rw [State.refreshExpiry, State.expiry_due hS he hd,
    State.modEntry_sound hoffered (by exact fun _ => rfl)]
  have hqueue : (s.refreshed mic).cueQueue = s.cueQueue := rfl
  rcases State.offerCue_cases ⟨mic, e.cue⟩ s with ⟨q, hq, ho⟩ | ⟨hq, ho⟩
  all_goals
    rw [ho, State.offerCue, hqueue, hq]
    rfl

/-- The same microphone's cue takes the pattern in place. -/
theorem State.offerCue_queued {c : Cue} (h : ∃ x ∈ s.cueQueue, x.mic = c.mic) :
    s.offerCue c = { s with cueQueue := s.cueQueue.map fun x => if x.mic = c.mic then c else x } := by
  rcases placeCue_cases c s.cueQueue with ⟨-, hp⟩ | ⟨hn, -⟩ | ⟨hn, -⟩
  · simp only [State.offerCue, hp]
  all_goals
    obtain ⟨x, hx, hm⟩ := h
    exact absurd hm (hn x hx)

/-- Another cue joins the tail. -/
theorem State.offerCue_joins {c : Cue} (h : ∀ x ∈ s.cueQueue, x.mic ≠ c.mic) (hl : s.cueQueue.length < cueMax) :
    s.offerCue c = { s with cueQueue := s.cueQueue ++ [c] } := by
  rcases placeCue_cases c s.cueQueue with ⟨⟨x, hx, hm⟩, -⟩ | ⟨-, -, hp⟩ | ⟨-, hfull, -⟩
  · exact absurd hm (h x hx)
  · simp only [State.offerCue, hp]
  · omega

/-- A full queue drops it. -/
theorem State.offerCue_dropped {c : Cue} (h : ∀ x ∈ s.cueQueue, x.mic ≠ c.mic) (hl : cueMax ≤ s.cueQueue.length) :
    s.offerCue c = s.count .cuesDropped := by
  rcases placeCue_cases c s.cueQueue with ⟨⟨x, hx, hm⟩, -⟩ | ⟨-, hroom, -⟩ | ⟨-, -, hp⟩
  · exact absurd hm (h x hx)
  · omega
  · simp only [State.offerCue, hp]

end

/-! ## The cue word (R164, section 12.1) -/

@[simp] theorem msbFirst_length (b : Byte) : (msbFirst b).length = 8 := rfl

@[simp] theorem cueBits_length (c : Cue) : (cueBits c).length = 32 := rfl

/-- A byte goes out with its most significant bit first. -/
theorem msbFirst_getElem? (b : Byte) {i : Nat} (hi : i < 8) : (msbFirst b)[i]? = some (b.getLsbD (7 - i)) := by
  interval_cases i <;> rfl

/-- Bit `i` of a run of bytes is in byte `i / 8`, the most significant first. -/
theorem flatMap_msbFirst_getElem? (l : List Byte) {i : Nat} (hi : i < 8 * l.length) :
    (l.flatMap msbFirst)[i]? = some ((l.getD (i / 8) 0).getLsbD (7 - i % 8)) := by
  induction l generalizing i with
  | nil => simp at hi
  | cons b rest ih =>
    rw [List.flatMap_cons]
    by_cases h : i < 8
    · rw [List.getElem?_append_left (by simpa using h), msbFirst_getElem? b h, Nat.div_eq_of_lt h, Nat.mod_eq_of_lt h]
      rfl
    · obtain ⟨j, rfl⟩ := Nat.exists_eq_add_of_le' (Nat.not_lt.mp h)
      have hj : j < 8 * rest.length := by simp at hi; omega
      rw [List.getElem?_append_right (by simp), msbFirst_length, Nat.add_sub_cancel, ih hj, Nat.add_mod_right,
        Nat.add_div_right _ (by decide)]
      rfl

/-- The check byte makes the sum of the bytes 0 modulo 256 (section 12.1). -/
theorem sum_checkByte (l : List Byte) : ((l ++ [checkByte l]).map BitVec.toNat).sum % 256 = 0 := by
  simp only [List.map_append, List.sum_append, List.map_cons, List.map_nil, List.sum_cons, List.sum_nil, checkByte, byte_toNat]
  omega

/-- The bytes of a cue word. -/
theorem cueWord_bytes {c : Cue} (hm : c.mic < 512) (hp : c.pattern < 8) :
    ∃ check, (cueWord c).map BitVec.toNat = [c.mic / 256, c.mic % 256, c.pattern, check] := by
  refine ⟨(checkByte (micField c.mic false ++ [byte c.pattern])).toNat, ?_⟩
  have hhigh : c.mic / 256 % 256 = c.mic / 256 := Nat.mod_eq_of_lt (by omega)
  have hpattern : c.pattern % 256 = c.pattern := Nat.mod_eq_of_lt (by omega)
  simp [cueWord, micField, word16, flag, byte, hhigh, hpattern]

/-! ## The pins (R190) -/

theorem State.qclk_eq (s : State) (i : Nat) (inPulse : Bool) :
    s.qclk i inPulse = (s.cueTransfer.isSome && decide (i < 32) && inPulse) := by
  unfold State.qclk
  cases s.cueTransfer <;> rfl

/-- Settles O34: a due refresh offers the cue and reloads the timer, and the offer is placed by R163; the transfer's two commands;
the pins through the length of the word's bits, and the word byte by byte. -/
theorem cueCommands : Obligations.CueCommands := by
  unfold Obligations.CueCommands
  refine ⟨fun s mic e _ hS he hd => ?_, fun s c rest hnone hqueue hst => ?_, fun s c hc => ?_, fun s i => ⟨?_, fun hnone => ?_,
    fun c hc => ⟨?_, fun h => ?_⟩⟩, fun c =>
      ⟨cueBits_length c, sum_checkByte _, fun i hi => flatMap_msbFirst_getElem? _ hi, cueWord_bytes⟩⟩
  · have hexec : exec (.cueRefreshExpiry mic) s = .next ((s.refreshed mic).offerCue ⟨mic, e.cue⟩) :=
      congrArg Host.Outcome.next (State.refreshExpiry_due hS he hd)
    refine ⟨fun h => ?_, fun h hl => ?_, fun h hl => ?_⟩ <;> rw [hexec]
    · exact congrArg Host.Outcome.next (State.offerCue_queued (s := s.refreshed mic) h)
    · exact congrArg Host.Outcome.next (State.offerCue_joins (s := s.refreshed mic) h hl)
    · exact congrArg Host.Outcome.next (State.offerCue_dropped (s := s.refreshed mic) h hl)
  · refine ⟨congrArg Host.Outcome.next ?_, congrArg Host.Outcome.next ?_⟩ <;> simp [State.startTransfer, hnone, hqueue, hst]
  · refine congrArg Host.Outcome.next ?_
    simp only [State.endTransfer, hc]
    rfl
  · simp [State.qclk_eq]
  · simp [State.qclk_eq, State.qdat, hnone]
  · simp [State.qclk_eq, hc]
  · simp [State.qdat, hc, List.getD_eq_getElem?_getD, List.getElem?_eq_getElem h]

end Sys2Proof.Machine
end

section
/-! The cadence generators (R159, R171, R172). -/

namespace Sys2Proof.Machine

/-- Patterns 1 to 6 take the pairs of the image in order (R159). -/
theorem Params.cadence_eq {p : Params} {c1 c2 c3 c4 c5 c6 : Cadence} (h : p.patterns = [c1, c2, c3, c4, c5, c6]) :
    p.cadence 1 = c1 ∧ p.cadence 2 = c2 ∧ p.cadence 3 = c3 ∧ p.cadence 4 = c4 ∧ p.cadence 5 = c5 ∧ p.cadence 6 = c6 := by
  unfold Params.cadence
  rw [h]
  exact ⟨rfl, rfl, rfl, rfl, rfl, rfl⟩

section
variable (p : Params) (now : Nat)

/-- What a generator shows at once, by the pattern (R171). -/
theorem Generator.show_cases (pat : Nat) :
    (pat = 0 → Generator.show p now pat = ⟨0, .dark, .stopped, none⟩) ∧
    (pat = 7 → Generator.show p now pat = ⟨7, .steady, .stopped, none⟩) ∧
    (pat ≠ 0 → pat ≠ 7 → Generator.show p now pat = ⟨pat, .on, .running (now + (p.cadence pat).on), none⟩) := by
  refine ⟨?_, ?_, fun h0 h7 => ?_⟩
  · rintro rfl; rfl
  · rintro rfl; rfl
  · simp [Generator.show, h0, h7]

theorem Generator.blinking_true {g : Generator} (h : g.phase = .on ∨ g.phase = .off) : g.blinking = true := by
  rcases h with h | h <;> simp [Generator.blinking, h]

theorem Generator.blinking_false {g : Generator} (h : g.phase = .dark ∨ g.phase = .steady) : g.blinking = false := by
  rcases h with h | h <;> simp [Generator.blinking, h]

/-- A generator in DARK or STEADY shows a selected pattern at once (R171). -/
theorem Generator.select_still {g : Generator} (h : g.phase = .dark ∨ g.phase = .steady) (pat : Nat) :
    g.select p now pat = if pat = g.pattern then g else Generator.show p now pat := by
  simp [Generator.select, Generator.blinking_false h]

/-- A blinking one stages it, unless it shows it already (R171). -/
theorem Generator.select_blinking {g : Generator} (h : g.phase = .on ∨ g.phase = .off) (pat : Nat) :
    g.select p now pat = { g with staged := if pat = g.pattern then none else some pat } := by
  simp [Generator.select, Generator.blinking_true h]

/-- At the end of an off phase a staged pattern begins (R172). -/
theorem Generator.phaseEnd_staged {g : Generator} (h : g.phase = .off) {pat : Nat} (hs : g.staged = some pat) :
    g.phaseEnd p now = Generator.show p now pat := by
  simp [Generator.phaseEnd, h, hs]

end

theorem State.phaseExpiry_due {s : State} {l : Lamp} (h : (s.gen l).timer.isDue s.now = true) :
    s.phaseExpiry l = s.setGen l ((s.gen l).phaseEnd s.params s.now) := if_pos h

/-- Settles O35: a selection by whether the generator blinks, the end of a phase by the phase and what is staged, and what is shown
at once by the pattern. -/
theorem lampChanges : Obligations.LampChanges := by
  unfold Obligations.LampChanges
  refine ⟨fun p c1 c2 c3 c4 c5 c6 => Params.cadence_eq,
    fun p now pat g => ⟨fun h hne => ?_, fun h => ?_, fun h hne => ?_, fun h => ?_⟩, fun s l hd => ?_⟩
  · rw [Generator.select_still p now h, if_neg hne]
    exact Generator.show_cases p now pat
  · rw [Generator.select_still p now h, if_pos rfl]
  · rw [Generator.select_blinking p now h, if_neg hne]
  · rw [Generator.select_blinking p now h, if_pos rfl]
  · intro g becomes
    have ends : ∀ g', g.phaseEnd s.params s.now = g' → becomes g' := fun g' hg =>
      congrArg Host.Outcome.next ((State.phaseExpiry_due hd).trans (congrArg (fun x => s.setGen l x) hg))
    have shown := Generator.show_cases s.params s.now
    have begins : ∀ pat, g.phase = .off → g.staged = some pat → becomes (Generator.show s.params s.now pat) :=
      fun pat hp hs => ends _ (Generator.phaseEnd_staged _ _ hp hs)
    refine ⟨fun hp => ends _ ?_, fun hp hs => ends _ ?_, begins 0, begins 7, fun pat hp hs h0 h7 => ?_⟩
    · simp [Generator.phaseEnd, hp]
    · simp [Generator.phaseEnd, hp, hs]
    · rw [← (shown pat).2.2 h0 h7]
      exact begins pat hp hs

end Sys2Proof.Machine
end
